-- ==== Sys2Proof/Word.lean ====
section
/-! DEFINITION. The word types of the model: bytes, FP32 patterns, tables and memory as plain lists. -/

namespace Sys2Proof

/-- One byte. -/
abbrev Byte := BitVec 8

/-- An FP32 bit pattern (R103). -/
abbrev Fp := BitVec 32

/-- Records by index: a list of (index, record) pairs; an index that is not listed stands at a
default that the reader of the table names. -/
abbrev Tbl (α : Type) := List (Nat × α)

/-- Bytes by address, the host's cell list. -/
abbrev Cells := List Host.Cell

/-- A context, PCIe function or plane number, 0 to 7 (Table 0.9). -/
abbrev CtxId := Fin 8

end Sys2Proof
end

