-- ==== Sys2Proof/Syntax.lean ====
section
/-! DEFINITION. The commands: one constructor of `Instr` per row of spec/opcode_table.json, with the
operand records the rows carry. What a row learns from outside the package (a sensor, a received
packet, how a race came out) is an operand of its constructor. -/

namespace Sys2Proof

/-- A request of a function's Halyard mailbox: the value written to `MBX_POST`, the request header
(Table 12.8) and the payload bytes from byte 16 on. -/
structure Req where
  fn      : CtxId
  post    : BitVec 32
  header  : BitVec 128
  payload : List Byte
  deriving DecidableEq, Repr

/-- One routine word presented to one tile (R59 to R62): the context, the logical tile, the TILE slot
word that names recipe, set and arguments, the routine word and the IDX of R62. -/
structure TileOp where
  ctx  : CtxId
  tile : Nat
  sw   : BitVec 128
  rw   : BitVec 64
  idx  : Nat
  deriving DecidableEq, Repr

/-- What the start-up sequence of Table 13.4 meets outside the package's own state: the outcome of
each physical step. -/
structure BootEnv where
  romOk      : Bool           -- step 0x0001 passes
  linkOk     : Bool           -- the PCIe link trains in step 0x0001
  halyardOk  : Bool           -- Halyard starts in step 0x0003
  boardCfg   : BitVec 512     -- BOARD_CFG as read from flash (R509)
  trimOk     : List Bool      -- each Trim controller starts (step 0x0004)
  vddcAck    : List Bool      -- each VDD_C regulator acknowledges (R508)
  trim       : List (List Byte) -- per die, per DVFS step: lowest good voltage code, 0xFF none (R404)
  hbmOk      : Bool           -- step 0x0006 passes
  fillOk     : Bool           -- step 0x0007 passes
  loopsOk    : List (Nat × Nat) -- loops (die, number) that end step 0x0008 in FAULT
  authFail   : Nat            -- failing step of R498; 0 when every step passes
  rxFault    : List (Nat × Nat) -- receive loops that end step 0x000A in FAULT
  deriving DecidableEq, Repr

/-- A cartridge as the package reads it on insertion: its serial, the stored line mapping
(Table 7.10 records of L00 to L31, as the cartridge stores them), its life record and the failing
step of R498 (0: every step passes). -/
structure CartEnv where
  serial   : BitVec 64
  lines    : List (BitVec 128)
  life     : List Byte
  faults   : List (Nat × Nat)   -- loops (die, number) that end its calibration in FAULT
  authFail : Nat
  deriving DecidableEq, Repr

/-- Traffic classes of Table 8.10. -/
inductive TClass where
  | req | rsp | msg | ack | col | mgt
  deriving DecidableEq, Repr

/-- A fabric packet as a router sees it: header fields and payload codewords. -/
structure Packet where
  cls     : TClass
  src     : BitVec 24
  srcCtx  : CtxId
  dst     : BitVec 24
  dstCtx  : CtxId
  key     : BitVec 12
  vc      : Nat            -- virtual channel it arrived in (R317)
  words   : Nat            -- payload codewords
  fecOk   : Bool           -- every codeword decodes (R266)
  lane    : Nat            -- Shroud: sending lane ST0 to ST15 (Table 7.7)
  burst   : Bool           -- Shroud: a training burst in place of the preamble (R280)
  seq     : Nat            -- sequence number of its first payload byte on the lane (R266)
  xfer    : Nat            -- transfer number at the source (R318)
  bytes   : List Byte
  deriving DecidableEq, Repr

/-- An inbound PUT or CSEND, whole or its last part (R78, R331, R337). -/
structure InXfer where
  dstCtx  : CtxId
  srcSta  : BitVec 24
  srcCtx  : CtxId
  xfer    : Nat            -- transfer number at the source
  circuit : Option (BitVec 16)   -- CSEND: its circuit
  dstVa   : BitVec 64
  len     : Nat            -- LEN of the whole transfer
  off     : Nat            -- offset of these bytes
  data    : List Byte
  last    : Bool
  rtoken  : Fin 1024
  cpool   : Nat
  ctake   : Nat
  reef    : Bool           -- reef flag and level of the carrying header (R409)
  level   : BitVec 4
  deriving DecidableEq, Repr

/-- A segment of a collective piece, or the whole piece (R358, R362, R368). `level` is the level it travels on; in the second
phase of ALL_REDUCE the number of levels is added to it. Of a reduction's partials `src` is the sending rank and `part` the position
of the part; of a gathered or broadcast piece both are the rank it comes from; of a ragged piece `part` is the rank it goes to; of
a PERMUTE block `part` is its global index. -/
structure Piece where
  ctx     : CtxId
  hash    : BitVec 64
  seq     : Nat
  op      : Nat
  len     : Nat
  ityp    : Nat
  otyp    : Nat
  arg     : Nat
  crc     : BitVec 32      -- PERMUTE: CRC-32C of the table; else 0
  level   : Nat            -- level of the group it belongs to
  src     : Nat
  part    : Nat
  stamp   : BitVec 128     -- (SHARD_HASH, VSTEP) of the owner (R185)
  data    : List Byte
  srcSta  : BitVec 24
  srcCtx  : CtxId
  reef    : Bool
  rlevel  : BitVec 4
  deriving DecidableEq, Repr

/-- A grant for the next segment of a piece, as it reaches the sender (R358, R368): `rank` is the granting member, `level` and
`part` name the piece as `Piece` does. -/
structure CollGrant where
  ctx     : CtxId
  hash    : BitVec 64
  seq     : Nat
  op      : Nat
  len     : Nat
  ityp    : Nat
  otyp    : Nat
  arg     : Nat
  crc     : BitVec 32
  rank    : Nat
  level   : Nat
  part    : Nat
  srcSta  : BitVec 24
  srcCtx  : CtxId
  deriving DecidableEq, Repr

/-- An acknowledgement of a collective piece whose last byte its receiver has written (R363): `rank` is the receiver, `level` and
`part` name the piece as `Piece` does. -/
structure PieceAck where
  hash  : BitVec 64
  seq   : Nat
  rank  : Nat
  level : Nat
  part  : Nat
  deriving DecidableEq, Repr

/-- A send count of a ragged all-to-all as it reaches a member (R358, R377): the fields of the sender's request (`rank` is the sender,
`level` and `part` 0) and the bytes that it sends here. -/
structure SendCount where
  req : CollGrant
  n   : Nat
  deriving DecidableEq, Repr

/-- A peer's REQ for one line or part of one (R260, R262). -/
structure PeerQ where
  plane   : CtxId
  ctx     : CtxId
  epoch   : BitVec 16      -- teardown epoch of the requesting context (R234)
  key     : BitVec 12
  addr    : BitVec 40
  write   : Bool
  mask    : BitVec 64
  data    : List Byte
  deriving DecidableEq, Repr

/-- A circuit chunk as it arrives (R310, R332). -/
structure Chunk where
  circuit : BitVec 16
  late    : Int            -- ns after the planned phase; negative: before it
  src     : BitVec 24      -- origin: station, context, transfer (R318)
  srcCtx  : CtxId
  xfer    : Nat
  seq     : Nat            -- sequence number of its first byte on the lane (R266)
  bytes   : List Byte
  key     : BitVec 12
  fecOk   : Bool           -- every codeword decodes (R266)
  lane    : Nat            -- Shroud: sending lane ST0 to ST15 (Table 7.7)
  burst   : Bool           -- Shroud: a training burst in place of the preamble (R280)
  deriving DecidableEq, Repr

/-- The fields of a received header codeword (R265, R308, R320, R333, R409). -/
structure Header where
  key     : BitVec 12
  slot    : BitVec 16      -- low bits of the sender's PLAN_SLOT
  delayNs : Nat            -- measured link delay
  ack     : Nat            -- payload bytes that it newly acknowledges, of those this package sent to the peer
  replay  : Option Nat     -- asks for a replay from this byte on of those not acknowledged
  credits : List Nat       -- returned codewords per channel
  reef    : Bool
  level   : BitVec 4
  holds   : List (BitVec 16 × Bool)  -- circuits whose HOLD mark is given
  lane    : Nat            -- Shroud: the lane of this package whose bytes `ack` and `replay` concern
  from_   : Nat            -- Shroud: sending lane ST0 to ST15 (R265)
  deriving DecidableEq, Repr

/-- What an estimator interval reads (R388, Table 10.7): the weighted sum that the factor k multiplies, in W,
and temperatures in whole °C. -/
structure IntervalEnv where
  p1      : Nat
  cdie    : List Nat       -- hottest sensor of each C-die
  hbm     : List Nat       -- each stack
  hertan  : List Nat       -- hottest sensor of each Hertan die
  deriving DecidableEq, Repr

/-- Path-monitor readings of one die for the daily trim (R405), slack in percent of the period. -/
structure TrimEnv where
  slack   : Nat            -- worst slack
  raise   : Nat            -- steps of 2.5 mV that restore it
  ring    : Nat            -- ring-oscillator slack
  deriving DecidableEq, Repr

/-- Interval figures of one port that the fabric hardware measures (Table 8.17), since the last reading of them: the six
STALL_NS, QMAX_MSG, QMEAN_MSG, QMAX_REQ, QMEAN_REQ, FEC_CORR, PREFEC, RX_CDBM and TX_CDBM; last the mean of the pre-FEC error
estimate over 24 h in units of 10^-8 (Table 11.17). -/
structure PortMeas where
  figures : List Nat
  deriving DecidableEq, Repr

/-- Cartridge power restored: the failing step of R498, or 0, and the loops that do not lock, by die and number (log 53). -/
structure PowerEnv where
  authFail : Nat
  faults   : List (Nat × Nat)
  deriving DecidableEq, Repr

/-- What an acknowledgement acknowledges: a transfer by its number, or a piece of a collective (R322, R363). -/
inductive Acked where
  | xfer (n : Nat)
  | piece (a : PieceAck)
  deriving DecidableEq, Repr

/-- What a peer's RSP says beside its data (R262, R340): its key, the epoch of the REQ, and 0 done, 1 refused, 2 uncorrectable. -/
structure RspHead where
  key   : BitVec 12
  epoch : BitVec 16
  kind  : Nat
  deriving DecidableEq, Repr

/-- A SWAP_NOTICE (Table 7.13): tones in kHz by lane, and the slot of the swap where it names one. -/
structure Notice where
  tones : List (Nat × Nat)
  slot  : Option (BitVec 48)
  deriving DecidableEq, Repr

/-- What the wavelength locker reads of a tuned spare (R298): the offset in MHz and the amplitudes of the 32 tones. -/
structure LockerEnv where
  offMhz : Int
  amps   : List Int
  deriving DecidableEq, Repr

/-- The commands, in the order of spec/opcode_table.json. -/
inductive Instr where
  -- mailbox commands (Table 12.10)
  | ctxCreate (r : Req)
  | ctxDestroy (r : Req)
  | ctxReset (r : Req)
  | ctxAllot (r : Req)
  | ctxQuery (r : Req)
  | setSrSeed (r : Req)
  | setSparse (r : Req)
  | map (r : Req)
  | unmap (r : Req)
  | unmapDrainComplete (c : CtxId)
  | unmapRangeBusy (c : CtxId)
  | grant (r : Req)
  | revoke (r : Req)
  | bar2Cfg (r : Req)
  | remapApply (r : Req)
  | loadProgram (r : Req)
  | loadSlotlib (r : Req)
  | loadRecipes (r : Req)
  | loadRetention (r : Req)
  | loadDispatch (r : Req)
  | loadUpdate (r : Req)
  | run (r : Req)
  | stop (r : Req)
  | swap (r : Req)
  | withdraw (r : Req)
  | slipClear (r : Req)
  | phaseExport (r : Req)
  | planWrite (r : Req)
  | setpointWrite (r : Req)
  | planSwap (r : Req) (staged : Bool)
  | planWithdraw (r : Req)
  | reefWrite (r : Req)
  | reefSwap (r : Req)
  | escWrite (r : Req)
  | reefFloor (r : Req)
  | fence (r : Req)
  | unfence (r : Req)
  | lease (r : Req)
  | eventRing (r : Req)
  | dump (r : Req)
  | dumpRelease (r : Req)
  | trace (r : Req)
  | loopReset (r : Req)
  | computeReset (r : Req)
  | returnToService (r : Req)
  | fwWrite (r : Req)
  | fwCommit (r : Req)
  | fwCommitted
  | fwStatus (r : Req)
  | attest (r : Req)
  | certRead (r : Req)
  | lcLifeRead (r : Req)
  | lcSwap (r : Req)
  | lcRecommission (r : Req) (taps : List (Nat × BitVec 16))
  | lcPowerRetry (r : Req) (e : PowerEnv)
  | fbCopy (r : Req)
  | dumpCopy (r : Req)
  -- host accesses, SMBus, JTAG, DOE
  | evtHeadWrite (fn : CtxId) (v : BitVec 32)
  | registerWrite (fn : CtxId) (off : Nat) (data : List Byte)
  | bar2Read (fn : CtxId) (off : Nat) (len : Nat)
  | bar2Write (fn : CtxId) (off : Nat) (data : List Byte)
  | smbBmcCapWrite (data : List Byte) (pecOk : Bool)
  | smbReefPolWrite (data : List Byte) (pecOk : Bool)
  | smbReefSwap (data : List Byte) (pecOk : Bool)
  | smbAlertSrcWrite (data : List Byte) (pecOk : Bool)
  | smbAlertResponse
  | idcode
  | bypass (tdi : List Bool)
  | samplePreload (lands : List Bool)
  | extest (lands : List Bool)
  | doeDiscovery (index : Byte)
  | getVersion
  | getCapabilities
  | negotiateAlgorithms (ecdsaP256 sha256 : Bool)
  | getDigests
  | getCertificate (slot : Nat) (off len : Nat)
  | challenge (slot : Nat) (nonce : BitVec 256)
  | getMeasurements (index : Nat) (nonce : BitVec 256)
  -- resets, link and pins
  | vfFlr (fn : CtxId)
  | pfFlr
  | pcieLinkLoss
  | pcieLinkReturn
  | numvfsChange (n : CtxId)
  | barResize (fn : CtxId) (log2Size : Nat)
  | perstNAssert
  | perstNDeassert (e : BootEnv)
  | pwrgdMastDeassert (sramKept : Bool)
  | pwrgdAuxDeassert
  | pwrgdCoreDeassert
  | pwrBrakeNAssert
  | pwrBrakeNDeassert
  | testNLow
  | cartridgeRemoved
  | cartridgeInserted (e : CartEnv)
  | lcFault
  | lineFailed (line : Fin 32)
  -- issue
  | beatBoundary (c : CtxId) (fetched : Bool)
  | hang (c : CtxId)
  | gate (c : CtxId) (w : BitVec 128)
  | tokenAdd (c : CtxId) (w : BitVec 128)
  | tokenSet (c : CtxId) (w : BitVec 128)
  | creditReturn (c : CtxId) (w : BitVec 128)
  | creditSet (c : CtxId) (w : BitVec 128)
  | countSet (c : CtxId) (w : BitVec 128)
  -- routine words
  | mac (o : TileOp)
  | macTransposed (o : TileOp)
  | drain (o : TileOp)
  | clear (o : TileOp)
  | txopLoad (o : TileOp)
  | meshSend (o : TileOp)
  | meshRowSend (o : TileOp)
  | meshColumnSend (o : TileOp)
  | meshArrival (c : CtxId)
  | vxAdd (o : TileOp)
  | vxMul (o : TileOp)
  | vxFma (o : TileOp)
  | vxMax (o : TileOp)
  | vxMin (o : TileOp)
  | vxExp2 (o : TileOp)
  | vxRsqrt (o : TileOp)
  | vxRecip (o : TileOp)
  | vxCvt (o : TileOp)
  | vxLaneSum (o : TileOp)
  | vxLaneMax (o : TileOp)
  | vxMaskedSelect (o : TileOp)
  -- movers and link engines
  | moveCopy (c : CtxId) (m : Fin 48)
  | moveStrided (c : CtxId) (m : Fin 48)
  | moveGather (c : CtxId) (m : Fin 48)
  | moveScatter (c : CtxId) (m : Fin 48)
  | moveTransposingCopy (c : CtxId) (m : Fin 48)
  | moveDone (c : CtxId) (m : Fin 48)
  | put (c : CtxId) (e : Fin 2)
  | csend (c : CtxId) (e : Fin 2)
  | putArrival (x : InXfer)
  | acknowledgement (c : CtxId) (e : Fin 2) (a : Acked)
  | nak (c : CtxId) (e : Fin 2) (xfer : Nat) (kind : Nat) (coll : Option (BitVec 64 × Nat))
  | linkTimeout (c : CtxId) (e : Fin 2) (xfer : Nat)
  | close (c : CtxId) (srcSta : BitVec 24) (srcCtx : CtxId) (xfer : Nat)
  -- update units
  | updateRequest (c : CtxId) (u : Fin 24)
  | updateRaiseOnly (c : CtxId) (u : Fin 24)
  | updateDone (c : CtxId) (u : Fin 24)
  | updAdd (u : Fin 24) (w : BitVec 32)
  | updSub (u : Fin 24) (w : BitVec 32)
  | updMul (u : Fin 24) (w : BitVec 32)
  | updFma (u : Fin 24) (w : BitVec 32)
  | updMax (u : Fin 24) (w : BitVec 32)
  | updMin (u : Fin 24) (w : BitVec 32)
  | updAbs (u : Fin 24) (w : BitVec 32)
  | updSqrt (u : Fin 24) (w : BitVec 32)
  | updRsqrt (u : Fin 24) (w : BitVec 32)
  | updRecip (u : Fin 24) (w : BitVec 32)
  | updExp2 (u : Fin 24) (w : BitVec 32)
  | updSel (u : Fin 24) (w : BitVec 32)
  | updNfcls (u : Fin 24) (w : BitVec 32)
  | updMov (u : Fin 24) (w : BitVec 32)
  | updSqacc (u : Fin 24) (w : BitVec 32)
  | updSumacc (u : Fin 24) (w : BitVec 32)
  | updAccrd (u : Fin 24) (w : BitVec 32)
  | updLd (u : Fin 24) (w : BitVec 32)
  | updSt (u : Fin 24) (w : BitVec 32)
  | updEnd (u : Fin 24) (w : BitVec 32)
  -- dispatch engines
  | topkRoute (c : CtxId) (e : Fin 2)
  | bitmapList (c : CtxId) (e : Fin 2)
  | countSum (c : CtxId) (e : Fin 2)
  | flagCount (c : CtxId) (e : Fin 2)
  | dispatchDone (c : CtxId) (e : Fin 2)
  -- collective engines
  | allReduce (c : CtxId) (e : Fin 2)
  | reduceScatter (c : CtxId) (e : Fin 2)
  | allGather (c : CtxId) (e : Fin 2)
  | broadcast (c : CtxId) (e : Fin 2)
  | allToAllRagged (c : CtxId) (e : Fin 2)
  | countsExchanged (c : CtxId) (e : Fin 2) (hash : BitVec 64) (seq : Nat) (counts : List SendCount)
  | permute (c : CtxId) (e : Fin 2)
  | collSegmentGrant (g : CollGrant)
  | collPieceArrival (p : Piece)
  | collDone (c : CtxId) (e : Fin 2) (hash : BitVec 64) (seq : Nat)
  | contextClosed (c : CtxId) (e : Fin 2) (hash : BitVec 64) (seq : Nat) (srcSta : BitVec 24)
      (srcCtx : CtxId)
  -- peer memory and fabric
  | peerReq (q : PeerQ)
  | peerRsp (c : CtxId) (m : Fin 48) (h : RspHead) (data : List Byte)
  | packetForward (port : Fin 15) (p : Packet)
  | colChunkArrival (port : Fin 15) (k : Chunk)
  | headerCodeword (port : Fin 15) (h : Header)
  | headerOnlyPacket (peer : Fin 7)
  | discoveryTraverse (port : Fin 15)
  | discRec (port : Fin 15) (rec : BitVec 256) (delayNs : Nat)
  | swapNotice (port : Fin 15) (n : Notice)
  | mgtLease (rec : BitVec 256)
  | mgtFence
  | mgtReefFloor (level : Nat) (ms : Nat)
  | leaseExpired
  | planEpoch
  | shroudPeerTimeout (peer : Fin 7)
  | neighbourNotFound (port : Fin 15)
  | transect (m : List PortMeas)
  -- Stay ports, light, loops
  | stayLightDetected (port : Fin 8)
  | stayAcquired (port : Fin 8)
  | noLock (port : Fin 8)
  | stayLightLost (port : Fin 8)
  | laserSwapTimeout (port : Fin 8)
  | lightRotationRound
  | loopPeakFound (die : Fin 2) (loop : Nat) (peak : Nat)
  | loopSweepExhausted (die : Fin 2) (loop : Nat)
  | loopLockBandMet (die : Fin 2) (loop : Nat)
  | loopAcquireTimeout (die : Fin 2) (loop : Nat)
  | loopVerifyDone (die : Fin 2) (loop : Nat) (amps : List Int) (metric : Bool)
  | loopPilotCheck (die : Fin 2) (loop : Nat) (amps : List Int)
  | loopLockLost (die : Fin 2) (loop : Nat)
  | loopLightLost (die : Fin 2) (loop : Nat) (temp : Nat)
  | loopLightReturn (die : Fin 2) (loop : Nat) (inBand : Bool) (temp : Nat)
  -- cartridge
  | lcLinePoll (readings : List (BitVec 128))
  | fadeTest
  | spareTuned (role : Fin 24) (e : LockerEnv)
  | swapSlot (role : Fin 24)
  | commissioning (line : Fin 32) (tap : BitVec 16)
  | caseTemperatureCheck (temp : Nat)
  -- power and clocks
  | intervalBoundary (e : IntervalEnv)
  | calibration (ratioMilli : Nat)
  | calStale
  | dvfsStepChange (target : Fin 5)
  | droop (die : Fin 2) (threshold : Fin 5)
  | droopSustained
  | marginTrim (e : List TrimEnv)
  | partitionFloorExpiry
  -- memory, resets, restarts
  | patrolScrubRead (addr : BitVec 40) (upset : List (Nat × Byte)) (pass : Nat)
  | contextResetDone (c : CtxId)
  | teardownStuck (c : CtxId)
  | computeResetDone
  | halyardRestart (memErr : Bool)
  | trimRestart (die : Fin 2)
  | fieldBookFlush
  | healthReasonClear (n : Fin 15)
  | msixModeration (fn : CtxId)
  | planSlotAdvance
  | equaliserStateStale (peer : Fin 7) (lane : Fin 16)
  | powerUp
  | lcFaultNHigh (e : PowerEnv)
  | droopStretchFall
  deriving DecidableEq, Repr

end Sys2Proof
end

