-- ==== Sys2Proof/Config.lean ====
section
/-! DEFINITION. What one package, one board or the outside world fixes and the manual does not, and the
free values: constants without a body, so that no proof can see a value of one. -/

namespace Sys2Proof.Config

/-- Free values (log 1): a value the manual leaves open, drawn with the counter `freeCtr` of State. -/
opaque freeNat : Nat → Nat
/-- A free byte, drawn as `freeNat`. -/
opaque freeByte : Nat → Nat → Byte

/-- Bytes of host memory that nothing in the model has written (log 6). -/
opaque hostByte : Nat → Byte
/-- Host pages of 4 KiB, by number, where a DMA ends in UR, CA or a timeout (R445, R455): the host's own
matter. -/
opaque hostRefuses : Nat → Bool

/-- Serial number fuses less one: a serial of 0 is never issued (R7). -/
opaque serialM1 : Fin 18446744073709551615
/-- The package serial (R7). -/
def serial : BitVec 64 := BitVec.ofNat 64 (serialM1.val + 1)
/-- Stepping B1 (true) or B0 (false), Table 0.1. -/
opaque steppingB1 : Bool
/-- The stepping code of Table 0.1. -/
def stepping : BitVec 8 := if steppingB1 then 0x11 else 0x10
/-- PLANE[2:0] straps of the board position (R517). -/
opaque plane : CtxId
/-- Fused hashes of image-signing keys (Table 13.3). -/
opaque keyHash : Fin 4 → BitVec 256
/-- Fused anti-rollback counter before this model's first blow, 0 to 32 (Table 13.3). -/
opaque rollbackFused : Fin 33
/-- KEY_REVOKE fuses before this model's first blow (Table 13.3). -/
opaque revokeFused : BitVec 4
/-- BOOT_DIR copies as the flash holds them at first power-up (Table 13.2). -/
opaque bootDir : Fin 2 → BitVec 512
/-- Bytes of image slots A and B as the flash holds them at first power-up (Table 13.1). -/
opaque flashByte : Fin 2 → Nat → Byte
/-- The device certificate before and after its subject serial number, and the intermediate certificate (R493). -/
opaque certHead : List Byte
opaque certTail : List Byte
opaque certIntermediate : List Byte
/-- A hexadecimal digit as its ASCII character. -/
def hexDigit (d : Nat) : Byte := BitVec.ofNat 8 (if d < 10 then 48 + d else 55 + d)
/-- The package serial as sixteen hexadecimal digits (R7; capitals are PRESUMED, log 55). -/
def serialDigits : List Byte := (List.range 16).map fun i => hexDigit ((serial.toNat >>> (60 - 4 * i)) % 16)
/-- The identity block's chain: the device certificate, whose subject serial number is the package serial, then the
intermediate (R7, R493). -/
def certificates : List Byte := certHead ++ serialDigits ++ certTail ++ certIntermediate
/-- Signatures by keys that never leave the security block (R492): of a digest, drawn anew each time. -/
opaque deviceSign : Nat → BitVec 256 → BitVec 512
/-- The cartridge's signature over its life record (R291). -/
opaque cartridgeSign : List Byte → List Byte
/-- Programs of the signed Oxward update library of the running image, by LIB_ID (R208). -/
opaque updateLibrary : BitVec 32 → Option (List Byte)
/-- The bank of its pseudo-channel and the row of that bank that hold a line (R256): the manual fixes stack and pseudo-channel
only (R222). -/
opaque dramPage : Nat → Fin 48 × Nat
/-- Spare rows of a bank before the first repair: stack, pseudo-channel, bank (Table 12.15). -/
opaque spareRows : Nat → Nat → Nat → Nat
/-- SPDM version and capability bytes of the responses (DMTF SPDM 1.2, R497). -/
opaque spdmBytes : Nat → List Byte
end Sys2Proof.Config
end

