-- ==== Sys2Proof/Machine/Num.lean ====
section
/-! DEFINITION. Exact numbers and correctly rounded arithmetic: the scalar and element formats of Tables
3.1 and 3.2, IEEE 754-2019 operations under RNE, and the rounding of exact values to a grid. -/

namespace Sys2Proof

/-- An exact value: NaN, an infinity with sign, or (-1)^neg * m * 2^e, where a zero keeps its sign. -/
inductive XVal where
  | nan
  | inf (neg : Bool)
  | num (neg : Bool) (m : Nat) (e : Int)
  deriving DecidableEq, Repr

namespace Machine

/-! ### Bit fields and byte order (R9) -/

/-- Bits [hi:lo] of a record as a number (Table 0.6). -/
def fld {w : Nat} (x : BitVec w) (hi lo : Nat) : Nat := (x.toNat >>> lo) % 2 ^ (hi + 1 - lo)

/-- One bit of a record. -/
def bit {w : Nat} (x : BitVec w) (i : Nat) : Bool := (x.toNat >>> i) % 2 == 1

/-- The record x with bits [hi:lo] replaced by v. -/
def setFld {w : Nat} (x : BitVec w) (hi lo : Nat) (v : Nat) : BitVec w :=
  BitVec.ofNat w (x.toNat - (fld x hi lo) * 2 ^ lo + (v % 2 ^ (hi + 1 - lo)) * 2 ^ lo)

/-- A number from its little-endian bytes (R9). -/
def leNat : List Byte → Nat
  | [] => 0
  | b :: r => b.toNat + 256 * leNat r

/-- The n little-endian bytes of a number (R9). -/
def leBytes : Nat → Nat → List Byte
  | 0, _ => []
  | n + 1, x => BitVec.ofNat 8 x :: leBytes n (x / 256)

/-- A record of w bits from bytes at an offset of a byte list. -/
def recAt (w : Nat) (bs : List Byte) (off : Nat) : BitVec w :=
  BitVec.ofNat w (leNat ((bs.drop off).take ((w + 7) / 8)))

/-- Two's complement reading of an n-bit number. -/
def signed (n x : Nat) : Int := if x < 2 ^ (n - 1) then x else (x : Int) - 2 ^ n

/-! ### Formats -/

/-- A binary floating-point grid: exponent and mantissa widths and bias; `ext` 0: no infinity and no NaN,
1: NaN only at all ones (E4M3), 2: IEEE infinity and NaN (Tables 3.1 and 3.2). -/
structure FFmt where
  ebits : Nat
  mbits : Nat
  bias  : Nat
  ext   : Nat
  deriving DecidableEq, Repr

def fp32 : FFmt := ⟨8, 23, 127, 2⟩
def bf16 : FFmt := ⟨8, 7, 127, 2⟩
def fp16 : FFmt := ⟨5, 10, 15, 2⟩
def e4m3 : FFmt := ⟨4, 3, 7, 1⟩
def e5m2 : FFmt := ⟨5, 2, 15, 2⟩
def e2m3 : FFmt := ⟨2, 3, 1, 0⟩
def e3m2 : FFmt := ⟨3, 2, 3, 0⟩
def e2m1 : FFmt := ⟨2, 1, 1, 0⟩

def FFmt.width (f : FFmt) : Nat := 1 + f.ebits + f.mbits

/-- Exact value of an encoding (R103, R106): subnormals at their value. -/
def FFmt.decode (f : FFmt) (x : Nat) : XVal :=
  let neg := (x >>> (f.ebits + f.mbits)) % 2 == 1
  let e := (x >>> f.mbits) % 2 ^ f.ebits
  let m := x % 2 ^ f.mbits
  let emax := 2 ^ f.ebits - 1
  if f.ext = 2 ∧ e = emax then (if m = 0 then .inf neg else .nan)
  else if f.ext = 1 ∧ e = emax ∧ m = 2 ^ f.mbits - 1 then .nan
  else if e = 0 then .num neg m (1 - (f.bias : Int) - f.mbits)
  else .num neg (m + 2 ^ f.mbits) ((e : Int) - f.bias - f.mbits)

/-- Largest finite magnitude, as (m, e). -/
def FFmt.maxFin (f : FFmt) : Nat × Int :=
  if f.ext = 2 then (2 ^ (f.mbits + 1) - 1, (2 ^ f.ebits - 2 : Nat) - (f.bias : Int) - f.mbits)
  else if f.ext = 1 then (2 ^ (f.mbits + 1) - 2, (2 ^ f.ebits - 1 : Nat) - (f.bias : Int) - f.mbits)
  else (2 ^ (f.mbits + 1) - 1, (2 ^ f.ebits - 1 : Nat) - (f.bias : Int) - f.mbits)

/-- Canonical quiet NaN of an IEEE format (R104). -/
def FFmt.cnan (f : FFmt) : Nat := (2 ^ f.ebits - 1) * 2 ^ f.mbits + 2 ^ (f.mbits - 1)

/-- Infinity pattern of an IEEE format. -/
def FFmt.infp (f : FFmt) (neg : Bool) : Nat :=
  (if neg then 2 ^ (f.ebits + f.mbits) else 0) + (2 ^ f.ebits - 1) * 2 ^ f.mbits

/-! ### Exact arithmetic -/

/-- m * 2^e >= m' * 2^e' on magnitudes. -/
def geMag (m : Nat) (e : Int) (m' : Nat) (e' : Int) : Bool :=
  if e ≥ e' then m <<< (e - e').toNat ≥ m' else m ≥ m' <<< (e' - e).toNat

/-- The signed mantissa at exponent d <= e. -/
def mantAt (neg : Bool) (m : Nat) (e d : Int) : Int :=
  let v : Int := (m <<< (e - d).toNat : Nat)
  if neg then -v else v

/-- An exact number from a signed mantissa; a zero takes the sign `z`. -/
def ofInt (z : Bool) (v : Int) (e : Int) : XVal :=
  if v = 0 then .num z 0 e else .num (v < 0) v.natAbs e

namespace XVal

def isNum : XVal → Bool
  | .num .. => true
  | _ => false

def isNan : XVal → Bool
  | .nan => true
  | _ => false

def neg : XVal → XVal
  | .nan => .nan
  | .inf s => .inf (!s)
  | .num s m e => .num (!s) m e

def abs : XVal → XVal
  | .nan => .nan
  | .inf _ => .inf false
  | .num _ m e => .num false m e

def isZero : XVal → Bool
  | .num _ 0 _ => true
  | _ => false

/-- Exact product with the IEEE rules for infinities. -/
def mul : XVal → XVal → XVal
  | .nan, _ => .nan
  | _, .nan => .nan
  | .inf a, .inf b => .inf (a != b)
  | .inf a, .num b m _ => if m = 0 then .nan else .inf (a != b)
  | .num a m _, .inf b => if m = 0 then .nan else .inf (a != b)
  | .num a m e, .num b n d => .num (a != b) (m * n) (e + d)

/-- Exact sum; an exact zero is -0 only when both summands are negative zeros (RNE, R105). -/
def add : XVal → XVal → XVal
  | .nan, _ => .nan
  | _, .nan => .nan
  | .inf a, .inf b => if a = b then .inf a else .nan
  | .inf a, .num .. => .inf a
  | .num .., .inf b => .inf b
  | .num a m e, .num b n d =>
    let x := if e ≤ d then e else d
    ofInt (a && b && m == 0 && n == 0) (mantAt a m e x + mantAt b n d x) x

/-- Scaled by a power of two. -/
def scale : XVal → Int → XVal
  | .num s m e, k => .num s m (e + k)
  | v, _ => v

/-- Numeric order: true when a < b (no NaN). -/
def lt : XVal → XVal → Bool
  | .inf a, .inf b => a && !b
  | .inf a, .num .. => a
  | .num .., .inf b => !b
  | .num a m e, .num b n d =>
    let x := if e ≤ d then e else d
    mantAt a m e x < mantAt b n d x
  | _, _ => false

end XVal

/-! ### Rounding -/

/-- Floor of m * 2^e in units of 2^u, and the remainder as (numerator, shift): the value is
(q + r / 2^k) * 2^u. -/
def onGrid (m : Nat) (e u : Int) : Nat × Nat × Nat :=
  if e ≥ u then (m <<< (e - u).toNat, 0, 0)
  else let k := (u - e).toNat; (m >>> k, m % 2 ^ k, k)

/-- How a rounding chooses between neighbours: to nearest even, or stochastic with the 24-bit number u
(R138). -/
inductive Rnd where
  | rne
  | sr (u : Nat)
  deriving DecidableEq, Repr

/-- True when a magnitude q + r/2^k rounds up to q + 1 (R113, R138): under stochastic rounding the choice is
between the neighbours in numeric order, so a negative value takes the larger magnitude exactly when it does not take
the upper neighbour. -/
def roundsUp (rd : Rnd) (neg : Bool) (q r k : Nat) : Bool :=
  if r = 0 then false
  else match rd with
    | .rne => if 2 * r = 2 ^ k then q % 2 == 1 else decide (2 * r > 2 ^ k)
    | .sr u => if neg then !decide (u < ((2 ^ k - r) <<< 24) >>> k) else decide (u < (r <<< 24) >>> k)

/-- Unit exponent of the grid of f at magnitude m * 2^e: subnormals share the smallest unit. -/
def FFmt.unit (f : FFmt) (m : Nat) (e : Int) : Int :=
  let top : Int := (Nat.log2 m : Int) + e
  let lo : Int := 1 - (f.bias : Int)
  (if top < lo then lo else top) - f.mbits

/-- Encoding of q * 2^u with q < 2^(mbits+1) or q = 2^(mbits+1), at unit u of the grid. -/
def FFmt.pack (f : FFmt) (neg : Bool) (q : Nat) (u : Int) : Nat :=
  let s := if neg then 2 ^ (f.ebits + f.mbits) else 0
  if q < 2 ^ f.mbits then s + q
  else s + ((u + f.mbits + f.bias).toNat) * 2 ^ f.mbits + (q - 2 ^ f.mbits)

/-- Round an exact value once to an IEEE format (R112, R113): overflow gives the infinity of the sign,
under stochastic rounding exactly when the neighbour beyond the largest finite value is chosen. -/
def FFmt.round (f : FFmt) (rd : Rnd) (v : XVal) : Nat :=
  match v with
  | .nan => f.cnan
  | .inf s => f.infp s
  | .num s 0 _ => f.pack s 0 0
  | .num s m e =>
    let u := f.unit m e
    let umax : Int := (2 ^ f.ebits - 2 : Nat) - (f.bias : Int) - f.mbits
    if u > umax then f.infp s
    else
      let (q, r, k) := onGrid m e u
      let q' := if roundsUp rd s q r k then q + 1 else q
      if u = umax ∧ q' ≥ 2 ^ (f.mbits + 1) then f.infp s else f.pack s q' u

/-- Round a value known to lie within an element's range to its grid (R116). -/
def FFmt.roundElem (f : FFmt) (rd : Rnd) (v : XVal) : Nat :=
  match v with
  | .num s 0 _ => f.pack s 0 0
  | .num s m e =>
    let u := f.unit m e
    let (q, r, k) := onGrid m e u
    f.pack s (if roundsUp rd s q r k then q + 1 else q) u
  | _ => 0

/-- FP32 value of a pattern. -/
def fpv (x : Fp) : XVal := fp32.decode x.toNat

/-- RNE rounding to FP32. -/
def fpr (v : XVal) : Fp := BitVec.ofNat 32 (fp32.round .rne v)

/-- A NaN becomes the canonical NaN (R104). -/
def canonFp (a : Fp) : Fp := if XVal.isNan (fpv a) then 0x7FC00000 else a

/-- True for a finite FP32 pattern. -/
def fpFinite (x : Fp) : Bool := (x.toNat >>> 23) % 256 != 255

/-! ### FP32 operations (Table 3.7, Table 5.8) -/

def fadd (a b : Fp) : Fp := fpr (XVal.add (fpv a) (fpv b))
def fsub (a b : Fp) : Fp := fpr (XVal.add (fpv a) (XVal.neg (fpv b)))
def fmul (a b : Fp) : Fp := fpr (XVal.mul (fpv a) (fpv b))
def ffma (a b d : Fp) : Fp := fpr (XVal.add (XVal.mul (fpv a) (fpv b)) (fpv d))

/-- IEEE 754-2019 maximum: NaN if either is NaN, +0 above -0 (VXOP 4). -/
def fmax (a b : Fp) : Fp :=
  match fpv a, fpv b with
  | .nan, _ => 0x7FC00000
  | _, .nan => 0x7FC00000
  | x, y =>
    if XVal.isZero x && XVal.isZero y then (if bit a 31 then b else a)
    else if XVal.lt x y then b else a

/-- IEEE 754-2019 minimum (VXOP 5). -/
def fmin (a b : Fp) : Fp :=
  match fpv a, fpv b with
  | .nan, _ => 0x7FC00000
  | _, .nan => 0x7FC00000
  | x, y =>
    if XVal.isZero x && XVal.isZero y then (if bit a 31 then a else b)
    else if XVal.lt x y then a else b

/-- Floor square root of x by bits, from bit k - 1 of the root downwards. -/
def isqrtGo (x : Nat) : Nat → Nat → Nat
  | 0, r => r
  | k + 1, r => let t := r + 2 ^ k; isqrtGo x k (if t * t ≤ x then t else r)

/-- Floor square root. -/
def isqrt (x : Nat) : Nat := isqrtGo x (Nat.log2 x / 2 + 1) 0

/-- An exact number just above q * 2^e when `sticky`, so that rounding sees an inexact remainder. -/
def withSticky (s : Bool) (q : Nat) (sticky : Bool) (e : Int) : XVal :=
  .num s (2 * q + (if sticky then 1 else 0)) (e - 1)

/-- Division of exact numbers, correct to 80 quotient bits with a sticky bit. -/
def xdiv (s : Bool) (m : Nat) (e : Int) (n : Nat) (d : Int) : XVal :=
  let sh := 80 + Nat.log2 n
  let q := (m <<< sh) / n
  withSticky s q ((m <<< sh) % n != 0) (e - d - sh)

/-- d = 1/a (VXOP 8). -/
def frecip (a : Fp) : Fp :=
  match fpv a with
  | .nan => 0x7FC00000
  | .inf s => if s then 0x80000000 else 0
  | .num s 0 _ => if s then 0xFF800000 else 0x7F800000
  | .num s m e => fpr (xdiv s 1 0 m e)

/-- Quotient of FP32 values, rounded once under RNE (R179). -/
def fdiv (a b : Fp) : Fp :=
  match fpv a, fpv b with
  | .nan, _ => 0x7FC00000
  | _, .nan => 0x7FC00000
  | .inf _, .inf _ => 0x7FC00000
  | .inf s, .num t _ _ => if s != t then 0xFF800000 else 0x7F800000
  | .num s _ _, .inf t => if s != t then 0x80000000 else 0
  | .num s m e, .num t n d =>
    if n = 0 then (if m = 0 then 0x7FC00000 else if s != t then 0xFF800000 else 0x7F800000)
    else if m = 0 then (if s != t then 0x80000000 else 0)
    else fpr (xdiv (s != t) m e n d)

/-- Square root of m * 2^e with 2^120 resolution and a sticky bit. -/
def xsqrt (m : Nat) (e : Int) : XVal :=
  let (m', e') := if e % 2 = 0 then (m, e) else (2 * m, e - 1)
  let x := m' <<< 120
  let q := isqrt x
  withSticky false q (q * q != x) (e' / 2 - 60)

/-- d = sqrt a (OPC 0x08): -0 gives -0, a < 0 gives NaN. -/
def fsqrt (a : Fp) : Fp :=
  match fpv a with
  | .nan => 0x7FC00000
  | .inf s => if s then 0x7FC00000 else 0x7F800000
  | .num s 0 _ => if s then 0x80000000 else 0
  | .num true _ _ => 0x7FC00000
  | .num false m e => fpr (xsqrt m e)

/-- d = 1/sqrt a (VXOP 7): -0 gives -infinity, +0 gives +infinity, a < 0 gives NaN. -/
def frsqrt (a : Fp) : Fp :=
  match fpv a with
  | .nan => 0x7FC00000
  | .inf s => if s then 0x7FC00000 else 0
  | .num s 0 _ => if s then 0xFF800000 else 0x7F800000
  | .num true _ _ => 0x7FC00000
  | .num false m e =>
    let (m', e') := if e % 2 = 0 then (m, e) else (2 * m, e - 1)
    -- 1/sqrt(m' 2^e') = sqrt(2^240 / m') * 2^(-e'/2 - 120)
    let x := 2 ^ 240 / m'
    let q := isqrt x
    fpr (withSticky false q (q * q != x || 2 ^ 240 % m' != 0) (-(e' / 2) - 120))

/-- The working precision, in bits, of the exponential functions (log 9). -/
def expPrec : Nat := 256

/-- The fixed-point product of 2^f, for the bits of f from 1/2 on: `root` is 2^(2^-i). -/
def exp2Go : List Bool → Nat → Nat → Nat
  | [], _, acc => acc
  | b :: r, root, acc =>
    let root' := isqrt (root <<< expPrec)
    exp2Go r root' (if b then (acc * root') >>> expPrec else acc)

/-- d = 2^a correctly rounded (VXOP 6): overflow gives +infinity, 2^(-infinity) = +0. -/
def fexp2 (a : Fp) : Fp :=
  match fpv a with
  | .nan => 0x7FC00000
  | .inf s => if s then 0 else 0x7F800000
  | .num s m e =>
    if m = 0 then 0x3F800000
    else if geMag m e 256 0 then (if s then 0 else 0x7F800000)
    else if !geMag m e 1 (-30) then
      -- 2^a lies strictly between 1 and its neighbour, nearer 1
      0x3F800000
    else
      let v : Int := (if s then -(m : Int) else m)
      let n : Int := if e ≥ 0 then v * 2 ^ e.toNat else v.fdiv (2 ^ (-e).toNat)
      let fr : Nat := if e ≥ 0 then 0 else (v.fmod (2 ^ (-e).toNat)).toNat
      let nb := (-e).toNat
      if fr = 0 then fpr (.num false 1 n)
      else
        let bs := (List.range nb).map fun i => (fr >>> (nb - 1 - i)) % 2 == 1
        let p := exp2Go bs (2 ^ (expPrec + 1)) (2 ^ expPrec)
        fpr (withSticky false p true (n - expPrec))

/-- Taylor terms of exp(-x) for a fixed-point x < 2^expPrec / 2: alternating sum, term by term. -/
def expGo (x : Nat) : Nat → Nat → Nat → Int → Int
  | 0, _, _, acc => acc
  | k + 1, i, t, acc =>
    let t' := ((t * x) >>> expPrec) / i
    expGo x k (i + 1) t' (if i % 2 = 1 then acc - t' else acc + t')

/-- Squared n times in fixed point. -/
def sqGo : Nat → Nat → Nat
  | 0, x => x
  | n + 1, x => sqGo n ((x * x) >>> expPrec)

/-- exp(d) correctly rounded to FP32 for d <= 0 or NaN (R179, where d = l - m is never positive). -/
def fexpNeg (d : Fp) : Fp :=
  match fpv d with
  | .nan => 0x7FC00000
  | .inf _ => 0
  | .num _ m e =>
    if m = 0 then 0x3F800000
    else if geMag m e 128 0 then 0
    else if !geMag m e 1 (-30) then 0x3F800000
    else
      -- x = |d| / 256 in fixed point
      let x := if e - 8 + expPrec ≥ 0 then m <<< (e - 8 + expPrec).toNat
               else m >>> (-(e - 8 + expPrec)).toNat
      let y := expGo x 70 1 (2 ^ expPrec) (2 ^ expPrec)
      fpr (withSticky false (sqGo 8 y.toNat) true (-(expPrec : Int)))

/-- d = |a|; NaN gives the canonical NaN (OPC 0x07). -/
def fabs (a : Fp) : Fp := if XVal.isNan (fpv a) then 0x7FC00000 else setFld a 31 31 0

/-- 1.0 where a is NaN or infinite, otherwise +0 (OPC 0x0D). -/
def fnfcls (a : Fp) : Fp := if fpFinite a then 0 else 0x3F800000

/-- Exact sum of a list of exact values, from +0 (R105: an exact zero is +0). -/
def xsum (vs : List XVal) : XVal :=
  match vs.foldl XVal.add (.num false 0 0) with
  | .num _ 0 e => .num false 0 e
  | v => v

/-- The TwoSum step of R121. -/
def accumulate (p : Fp × Fp) (g : Fp) : Fp × Fp :=
  let (s, c) := p
  let t := fadd s g
  if fpFinite t then
    let bb := fsub t s
    let e := fadd (fsub s (fsub t bb)) (fsub g bb)
    (t, fadd c e)
  else (t, 0)

/-- The exact value S + C of an accumulator pair; S stands alone when it is not finite. -/
def pairVal (p : Fp × Fp) : XVal :=
  match XVal.add (fpv p.1) (fpv p.2) with
  | .num _ 0 e => .num false 0 e
  | v => v

/-- S + C rounded once under RNE (R112, R205). -/
def pairRound (p : Fp × Fp) : Fp := fpr (pairVal p)

end Machine
end Sys2Proof
end

