-- ==== Sys2Proof/Machine/State.lean ====
section
/-! DEFINITION. The state of one package as plain data, the reasons a step can stop, and the state right
after a cold reset. Every record cites the rule that names it; INVENTORY.md lists them with reset values. -/

namespace Sys2Proof.Machine

/-- Faults. No command that the manual describes stops the block as a whole: every failure has a status,
a context stop, an event or a reset of its own. -/
inductive Fault where
  /-- Raised by no meaning: the manual gives the block no stop of its own. Safe. -/
  | none
  deriving DecidableEq, Repr

/-- Refusals. -/
inductive Refusal where
  /-- Raised by an arm of `exec` whose command has no meaning yet. Safe. -/
  | notModelled (mnemonic : String)
  deriving DecidableEq, Repr

/-- An active bank and a shadow bank (R37). -/
structure Bank (α : Type) where
  act : α
  sha : α
  deriving DecidableEq, Repr

/-! ### Clocks, pins, package -/

/-- Mast time and the plan slot counter (R308, R530). -/
structure Clk where
  mastNs   : Nat          -- Mast time since the most recent cold start
  boot     : BitVec 16    -- cold starts since manufacture (FB_HDR.BOOT)
  planSlot : BitVec 48    -- PLAN_SLOT
  deriving DecidableEq, Repr

/-- Pins (Table 14.7). True is the high level. -/
structure Pins where
  perstN     : Bool
  pwrgdMast  : Bool
  pwrgdAux   : Bool
  pwrgdCore  : Bool
  brakeN     : Bool
  testN      : Bool
  lcPresN    : Bool
  lcFaultN   : Bool         -- false from a fault until it has been high for 1 s (R519)
  thermtripN : Bool
  lcPwrEn    : Bool
  qspiRstN   : Bool         -- QSPI_RST_N (R522)
  plane      : CtxId      -- straps read at the last package reset (R517)
  deriving DecidableEq, Repr

/-- A restart of Halyard in progress (R428): its start, its cause of Table 11.10, and the Mast time from which Halyard serves again. -/
structure Restart where
  startNs : Nat
  cause   : Nat
  endNs   : Nat
  deriving DecidableEq, Repr

/-- Package status (Table 12.5) and the modes behind it. -/
structure Pkg where
  state      : BitVec 3   -- GSTAT.PKG_STATE
  bootStep   : BitVec 16  -- GSTAT.BOOT_STEP
  fenced     : Bool
  cartOk     : Bool
  numVfs     : CtxId      -- NumVFs (R444)
  linkUp     : Bool       -- PCIe link (R445)
  computeReset : Bool     -- compute domain in reset (R336)
  romService : Bool       -- the boot ROM serves the PF mailbox (R488, R489)
  halyardUp  : Bool       -- Halyard serves mailboxes (R480)
  hbmUp      : Bool       -- HBM out of self-refresh and trained
  tripped    : Bool       -- a thermal trip has stopped CCLK (R408)
  crCause    : Nat        -- cause of the compute reset in progress (Table 11.10)
  crStartNs  : Nat        -- Mast time of its entry
  crBusy     : Bool       -- a compute reset is in progress
  crFn       : Option CtxId -- function whose command waits for it
  crSelf     : Bool       -- RETURN_TO_SERVICE is running steps 5 to 8 (R427)
  restart    : Option Restart -- Halyard restarts (R428)
  brakeLatch : Bool       -- PWR_BRAKE_N asserted for 1 us (R394)
  aer        : BitVec 32  -- AER Uncorrectable Error Status of the PF (R442, log 5)
  ssIds      : BitVec 32  -- Subsystem ID and Subsystem Vendor ID of the board configuration block (R443)
  deriving DecidableEq, Repr

/-! ### Power (chapter 10) -/

structure Reef where
  pol       : Bank (BitVec 128)   -- REEF_POL
  polPend   : Bool
  bmcCap    : BitVec 32           -- BMC_CAP
  bmcForce  : BitVec 32           -- BMC_CAP as taken at the last interval boundary
  k         : Fp                  -- estimator factor k
  calStale  : Bool
  calOut    : Bool                -- inside a run of readings outside 0.90 to 1.10
  belowRun  : Nat
  rungC     : Nat                 -- power rung of compute
  rungM     : Nat                 -- rung of memory: 16 - cap
  rungL     : Nat                 -- rung of links: 16 - cap
  thermRung : Nat
  thermCool : Nat                 -- intervals at or below 103 °C since the last fall
  stackCap  : Tbl Nat             -- thermal cap of stack n, sixteenths; default 16
  stackCool : Tbl Nat             -- intervals at or below 93 °C since the last rise; default 0
  cHot      : Bool                -- THERMAL_REEF entered
  mHot      : Tbl Bool            -- HBM_THERMAL entered, per stack
  hHot      : Tbl Bool            -- Hertan die darkened by temperature (Table 10.7)
  dvfsStep  : Nat                 -- step in force
  dvfsWant  : Nat                 -- step the ladder asks for
  marginLow : Bool
  estHist   : List Nat            -- estimates of the last 488 intervals, newest first
  stat      : BitVec 64           -- PWR_STAT as of the last interval boundary (R413)
  level     : Nat                 -- reef level in force
  fastNs    : Option Nat          -- Mast time FAST_W was last exceeded
  partFloor : Option (Nat × Nat)  -- level and expiry (Mast ns), R412
  nbr       : List (Nat × Nat × Nat)  -- (port, level, Mast ns) of headers, R411
  stretch   : Nat                 -- sixteenths
  stretchDie : Tbl Nat            -- threshold crossed per die
  droopUp   : Bool                -- rise by 2 due at the next boundary (R402)
  droops    : Tbl Nat             -- droop events per die
  stretched : Tbl Nat             -- stretched cycles per die
  vtab      : Tbl (BitVec 64)     -- VTAB_Dd; default AGE 0, every step 0xFF
  trimNs    : Nat                 -- Mast time of the last margin trim
  hTemp     : Tbl Nat             -- hottest sensor of each Hertan die at the last interval
  deriving DecidableEq, Repr

/-! ### Contexts (chapters 2 to 5, 11) -/

/-- Context run states (Table 2.2); `none`: no context. -/
inductive RunState where
  | none | idle | running | stopped | resetting
  deriving DecidableEq, Repr

/-- Resources of a context (Table 11.1, R461). -/
structure Res where
  cols   : BitVec 32
  movers : BitVec 64
  upd    : BitVec 32
  ds     : BitVec 96
  hbm    : BitVec 576
  deriving DecidableEq, Repr

/-- A frame program base with its loop limits, and its header as checked at the swap request (R47, R48). -/
structure ProgBase where
  valid : Bool
  base  : BitVec 64
  lmax  : List (BitVec 32)
  hdr   : BitVec 256
  deriving DecidableEq, Repr

/-- What a context stop keeps beside its event: the location, class and reader of an uncorrectable read (R252), whether a board
peer reported it (R251), the source rank and both stamps of a version mismatch (R187), the source of a CLOSE (R418). -/
structure Why where
  mem    : Option (Nat × Nat × Nat)       -- local physical address, CLASS, SOURCE (Table 6.12)
  remote : Bool
  shard  : Option (Nat × BitVec 128 × BitVec 128)  -- source rank, own stamp, stamp received
  source : Option (BitVec 24 × CtxId)
  deriving DecidableEq, Repr

/-- A stop without further detail. -/
def Why.plain : Why := ⟨none, false, none, none⟩

/-- The detail of a CONTEXT_STOP event, which Table 11.22 has no field for (log 56). -/
structure StopNote where
  ctx    : CtxId
  frame  : BitVec 48
  status : BitVec 16
  why    : Why
  deriving DecidableEq, Repr

/-- Per-frame counts and frame state (R94 to R99). -/
structure Frame where
  num        : BitVec 48
  beats      : Nat         -- FRAME_BEATS
  overruns   : BitVec 32
  replayOver : BitVec 32
  redrain    : BitVec 32
  replayUsed : Nat
  overBeats  : Nat         -- overrun beats of this frame
  reefHolds  : Nat
  issueIdx   : Nat
  phase      : Nat
  runCyc     : Tbl Nat     -- run cycles by phase
  holdCyc    : Tbl Nat     -- hold cycles by phase
  lastBeats  : Nat         -- FRAME_BEATS of the last frame closed
  lastRec    : List Byte   -- last PHASE_REC, 576 bytes
  deriving DecidableEq, Repr

/-- An open counted loop (R89). -/
structure Loop where
  start  : Nat             -- address of the BEGIN bundle
  stop   : Nat             -- address after the matching END bundle
  count  : Nat             -- iterations
  iter   : Nat             -- iteration index
  deriving DecidableEq, Repr

/-- A request for a context reset that waits for the next beat boundary, or the reset in progress. -/
structure ResetInfo where
  cause  : Nat             -- CAUSE of Table 11.10
  fn     : Option CtxId    -- function whose command waits for it
  destroy : Bool           -- a CTX_DESTROY follows
  startNs : Nat
  frame  : BitVec 48       -- frame number before the reset
  deriving DecidableEq, Repr

/-- An issued beat kept for replay: its TILE slot words with the logical tiles they reached and their IDX (R91). -/
structure Hist where
  beat : Nat               -- issued-beat count of the context
  tag  : BitVec 16
  rep  : Nat
  iter : Nat
  cnt  : Tbl (BitVec 32)   -- count registers as captured at issue (R139)
  words : List (Nat × BitVec 128 × Nat)  -- logical tile, slot word, IDX
  deriving DecidableEq, Repr

/-- A replay report latched by a tile (R91), or the pass in progress. -/
structure Replay where
  tile  : Nat
  aset  : Nat
  start : Nat              -- issued-beat count at which the block's start word acted
  len   : Nat              -- BLK_BEATS
  due   : Nat              -- beat number at whose boundary it takes effect
  tag   : BitVec 16        -- TAG of the bundle whose slot word drained
  beats : Nat              -- beat count within the frame at the drain
  writes : List (Nat × List Byte)  -- the result that stands if the report is discarded (R534)
  deriving DecidableEq, Repr

/-- A mesh send in flight: landing beat and cycle in the receiving die's numbering (R66, R67). -/
structure MeshSend where
  cycle : Nat              -- 32 x beat + cycle
  src   : Nat              -- logical source tile
  dst   : Nat              -- logical destination tile
  addr  : Nat
  data  : List Byte
  deriving DecidableEq, Repr

/-- A drain in progress: the bytes it writes at its last cycle and what it reports then. -/
structure DrainPend where
  cycle : Nat
  tile  : Nat
  aset  : Nat
  writes : List (Nat × List Byte)
  cause : Option Nat       -- non-finite cause (Table 3.6)
  redrains : Nat
  replay : Bool
  tag   : BitVec 16
  beats : Nat              -- beat count within the frame at the drain
  deriving DecidableEq, Repr

/-- Issue position (R50 to R54, R86 to R100). -/
structure Issue where
  pc       : Nat           -- address of the current bundle
  rep      : Nat           -- next repeat index; 0: the bundle has not started
  cur      : List Byte     -- the bundle as validated, header and slot words
  cnt      : Tbl (BitVec 32) -- count registers after cycle 0 of its first beat (R84, R139)
  loops    : List Loop     -- open loops, innermost first
  loopBuf  : Option (Nat × List Byte)
  fetchBuf : Option (Nat × List Byte)   -- fetched from an address on, at most 64 KiB (R50)
  tickDue  : Bool
  endDue   : Bool
  fresh    : Bool          -- issue continues at ENTRY16 (R100, R459)
  stopReq  : Bool
  stopDue  : List (BitVec 16 × Why)     -- stops that act at the next beat boundary (Table 2.17)
  reset    : Option ResetInfo   -- a reset that waits for the next beat boundary
  tickIrq  : Bool
  lastTag  : BitVec 16
  k        : Nat           -- beat boundaries taken while RUNNING, mod 16 (R399)
  beatNo   : Nat           -- boundaries taken since creation
  issued   : Nat           -- issued beats since creation
  holdRun  : Nat           -- gate-hold beats in a row (R410)
  holds    : Nat           -- hold beats since the last issued beat (R439)
  lastHold : Nat           -- order of Table 2.15
  holdTok  : Nat
  holdVal  : Nat
  replays  : List Replay
  pass     : Option (List Replay × Nat)   -- reports replayed together, next beat
  hist     : List Hist
  mesh     : List MeshSend
  drains   : List DrainPend
  deriving DecidableEq, Repr

/-- The latest inbound raise of a token (R410). -/
structure Raise where
  token : Nat
  sta   : BitVec 24
  ctx   : CtxId
  reef  : Bool
  level : BitVec 4
  order : Nat
  deriving DecidableEq, Repr

/-- A leaf of the page tables (Table 6.4): VA, board address, page size and WR. -/
structure Leaf where
  va   : Nat
  addr : Nat               -- board address, 43 bits
  big  : Bool              -- true: 1 GiB
  wr   : Bool
  deriving DecidableEq, Repr

/-- An unmapped range whose response waits (R230). -/
structure Drain where
  fn     : CtxId
  leaves : List Leaf
  late   : Bool            -- range-busy already reported, or the command has ended otherwise: no answer is due
  startNs : Nat
  deriving DecidableEq, Repr

/-- Step-replay trace (R438). -/
structure Trace where
  on     : Bool
  buf    : Nat
  len    : Nat
  first  : Nat
  last   : Nat
  server : Bool
  wptr   : Nat
  full   : Bool
  deriving DecidableEq, Repr

/-- Where a server request stands. -/
inductive Phase where
  | queued    -- in its queue
  | serving   -- started: checks passed, credits taken
  | ready     -- the request has done its work and waits for its completion row
  deriving DecidableEq, Repr

/-- A number kept per piece of a collective: member rank, level, part, the number. -/
abbrev PieceNo := Nat × Nat × Nat × Nat

/-- A collective in service (chapter 9). -/
structure CollSt where
  hash   : BitVec 64
  seq    : Nat
  n      : Nat                    -- members
  rank   : Nat
  mbrs   : List (BitVec 64)
  levels : List (BitVec 32)       -- levels in use, innermost first
  crc    : BitVec 32              -- PERMUTE: CRC-32C of the table
  table  : List Nat               -- PERMUTE: the permutation
  src    : List Byte              -- the member's own input as read at the start
  held  : List (Nat × Nat × Nat × List Byte)   -- (level, source, part, bytes so far) of pieces held
  granted : List PieceNo          -- segments granted to this member
  sent   : List PieceNo           -- segments it has sent
  asked  : List PieceNo           -- segments it has granted to others
  wrote  : Bool                   -- reductions: its own chunk has been written
  stamps : List (Nat × BitVec 128)  -- stamps of the pieces held, by rank (R186)
  sends  : List Nat               -- ragged: send counts
  recvs  : List Nat               -- ragged: receive counts; none before the exchange
  filled : List Nat               -- PERMUTE: its slots that hold their final block
  led    : List Nat               -- PERMUTE: leaders that have been staged
  staged : List (Nat × Nat)       -- PERMUTE: (leader, staging slot)
  agreed : List Nat               -- PERMUTE: other members whose table has been compared with its own (R381)
  acked  : List (Nat × Nat × Nat) -- pieces it has sent whose receivers have acknowledged them (R363)
  spent  : List Nat               -- circuits that carry no further partial of it (R373)
  arrivals : Nat
  deriving DecidableEq, Repr

/-- A line in a write-combining stage: its bytes as far as they have come (R235). -/
abbrev PartLine := List (Option Byte)

/-- One REQ of a mover to a board peer (R260): the line, and its part. -/
structure PeerOp where
  line  : Nat                -- board address of the 64-byte line
  write : Bool
  bytes : PartLine           -- of a write: the bytes under the mask
  parts : List (Nat × Nat × Nat × Nat)  -- of a read: offset in the line, length, destination space (2: the index array), address
  deriving DecidableEq, Repr

/-- A server request (R68 to R73): queued or in service, with the banks captured at issue. -/
structure SrvReq where
  id      : Nat            -- 256 x issued beat + slot: tells requests of a context apart
  cls     : Nat            -- unit class of Table 2.5
  unit    : Nat            -- physical unit
  sw      : BitVec 128
  epoch   : BitVec 16      -- teardown epoch of the context at issue (R234)
  va      : Nat            -- descriptor address
  phase   : Phase
  recipes : List (BitVec 64)
  updp    : List Byte
  disp    : List (BitVec 256)
  ret     : BitVec 512
  frame   : BitVec 48
  issueIdx : Nat
  slot    : Nat
  tag     : BitVec 16
  desc    : BitVec 512
  xfer    : Nat            -- link: transfer number
  sentAll : Bool           -- link and collective: the last byte has been handed to the lanes
  sentNs  : Nat            -- link and collective: Mast time at which bytes last left (R323, R371)
  written : List (Nat × Nat)   -- (virtual address, bytes) written
  tab     : List Byte      -- update: the stream table as read at the start of service (R195); mover: the index array
  pending : List (Nat × List Byte)  -- update: lines not yet whole; dispatch: bytes staged
  wc      : Tbl PartLine   -- mover: the write-combining stage, by virtual address of the line over 64 (R235)
  holds   : List (Nat × Nat)   -- virtual ranges (address, bytes) whose translations the request holds (R230)
  counts  : List (Nat × BitVec 32)  -- dispatch: count registers written at completion
  nonfin  : Nat
  vdone   : Nat
  ipos    : Nat            -- update: instructions of the current vector pass already taken; mover: 1 while peers send the index array
  skip    : Nat
  accs    : List Fp
  origins : List (BitVec 64)   -- link: the context's ORIGIN records in the plan captured at issue (R331)
  resv    : List PeerOp    -- mover: peer REQs outstanding, oldest first (R321)
  todo    : List PeerOp    -- mover: peer REQs not yet sent
  coll    : Option CollSt
  deriving DecidableEq, Repr

/-- A group-sequence table entry (R357). -/
structure GroupEnt where
  hash : BitVec 64
  eng  : Nat
  next : Nat
  done : List Nat    -- sequence numbers of requests that have completed (R358)
  deriving DecidableEq, Repr

/-- One context. -/
structure Ctx where
  run      : RunState
  stop     : BitVec 16            -- stop status
  epoch    : BitVec 16            -- teardown epoch (R234)
  res      : Res
  srSeed   : BitVec 64
  spw      : List (BitVec 64)     -- SPW0 to SPW3
  prog     : Bank ProgBase
  lib      : Bank Cells           -- slot libraries: 32,768 x logical tile + offset
  recipes  : Bank (List (BitVec 64))
  ret      : Bank (BitVec 512)
  disp     : Bank (List (BitVec 256))
  updp     : Bank (List Byte)
  pend     : BitVec 8             -- swaps pending, as the SWAP MASK
  applied  : BitVec 8             -- took-effect flags (R43)
  tokens   : Tbl (BitVec 16)
  cap      : Tbl (BitVec 16)
  value    : Tbl (BitVec 16)
  cnt      : Tbl (BitVec 32)
  fr       : Frame
  is       : Issue
  raises   : List Raise
  slips    : List (BitVec 128)
  slipOther : BitVec 32
  groups   : List GroupEnt
  early    : List CollGrant        -- grants for collectives not yet started here
  maps     : List Leaf
  tables   : List (Nat × Nat)     -- level-2 tables held: 1 GiB of the virtual space, table of the pool (Table 6.2)
  drains   : List Drain
  expVa    : BitVec 64
  expN     : BitVec 32
  trace    : Trace
  queue    : List SrvReq          -- every server queue of the context, in issue order
  reset    : Option ResetInfo     -- the context reset in progress
  deriving DecidableEq, Repr

/-! ### Tiles and update units -/

/-- An accumulator set (3.4, R533). -/
structure ASet where
  started : Bool
  p       : Nat                   -- row-group pointer
  held    : Bool                  -- a drain runs (R125)
  recA    : BitVec 64             -- recipe of operand A, captured by the block start
  recB    : BitVec 64             -- recipe of operand B
  blk     : Nat                   -- BLK_BEATS
  start   : Nat                   -- issued beat of the block start
  inBad   : Bool                  -- a NaN or infinity entered the block
  tries   : Nat                   -- recomputes done
  pairs   : Tbl (Fp × Fp)         -- pair of row r, column c at 32 r + c; default (+0, +0)
  deriving DecidableEq, Repr

/-- A transpose region (R151 to R154). -/
structure Region where
  recB  : BitVec 64
  rows  : Nat
  taken : Nat                     -- rows already taken
  ready : Nat                     -- cycle (32 x beat + cycle) from which it can be streamed
  vals  : List XVal               -- decoded values, 32 per stored row
  deriving DecidableEq, Repr

structure Tile where
  set0    : ASet
  set1    : ASet
  regions : List Region           -- streaming region first
  deriving DecidableEq, Repr

/-- An update unit's registers (Table 5.1). -/
structure UpdUnit where
  v     : Tbl Fp                  -- lane l of Vn at 128 n + l
  p     : Tbl Fp
  a     : Tbl (Fp × Fp)
  ctx   : CtxId                   -- context of the request in service
  q     : Nat                     -- vector index
  deriving DecidableEq, Repr

/-! ### Memory side -/

/-- A tracked error location (Table 6.12). -/
structure ErrLoc where
  addr  : Nat
  cls   : Nat                     -- 0 CE, 1 UE, 2 ADDR
  count : Nat
  source : Nat
  unit  : Nat
  row   : Nat                     -- Field book row of its record
  deriving DecidableEq, Repr

structure Memory where
  bytes  : Cells                  -- canonical: rising addresses, no zero byte
  upset  : List (Nat × List (Nat × Byte))  -- stored symbols in error: line or byte address, (position, value)
  marked : List Leaf              -- pages marked by a compute reset (R422)
  errs   : List ErrLoc
  rowCe  : List (Nat × Nat × List Nat)  -- row, CEs since it was last written in full, its lines written since (R256)
  lineCe : List (Nat × Nat × Nat) -- line address, scrub passes with a CE, last pass
  remapQ : List (Nat × Nat)       -- (stack, row address)
  used   : List (Nat × Nat)       -- repaired rows: (row, bank key)
  cnt    : Tbl (Nat × Nat × Nat)  -- CE, UE, ADDR counts of unit u
  bwin   : Tbl (BitVec 64)        -- BWIN grants 0 to 63; default 0
  scrubH : Nat                    -- scrub period in hours (R253)
  lastUe : Option (Nat × Nat × Nat)  -- location, CLASS and SOURCE of the last uncorrectable read (R252)
  deriving DecidableEq, Repr

/-- An inbound transfer of which a part has been written, or which a CLOSE ended (R78, R418). -/
structure Inbound where
  srcSta : BitVec 24
  srcCtx : CtxId
  xfer   : Nat
  dstCtx : CtxId
  epoch  : BitVec 16              -- teardown epoch of the destination context at its start (R234)
  wc     : Tbl PartLine           -- lines not yet whole, by virtual address over 64 (R235, R240)
  closed : Bool
  deriving DecidableEq, Repr

/-! ### Optics and cartridge (chapter 7) -/

/-- Loop states (Table 7.4). -/
inductive LoopState where
  | sweep | acquire | verify | locked | hold | fault
  deriving DecidableEq, Repr

structure HLoop where
  st     : LoopState
  tone   : BitVec 6
  wrong  : BitVec 8
  heater : BitVec 12
  peaks  : List Nat               -- rejected since the last LOCKED
  cur    : Nat                    -- peak being acquired
  fails  : Nat                    -- failed VERIFYs in a row
  holdT  : Nat                    -- die temperature when HOLD began
  deriving DecidableEq, Repr

/-- What a packet of this package says beyond its header fields and bytes. -/
inductive Says where
  | data                                 -- a packet on its way through: its bytes alone
  | put (x : InXfer)                     -- a part of a PUT
  | ack (xfer cpool ctake : Nat)
  | nak (xfer kind : Nat)
    -- kind 0 refused (R78), 1 unreachable (R318), 2 context-closed (R337), 3 circuit-broken (R333)
  | close (xfer : Nat)
  | collNak (hash : BitVec 64) (seq kind : Nat)
    -- kind 0 refused (R377), 1 unreachable (R318), 2 context-closed (R374), 4 collective-mismatch (R358)
  | collAck (a : PieceAck)               -- a piece's last byte is written (R363)
  | piece (p : Piece)
  | grant (g : CollGrant)
  | sendCount (n : SendCount)            -- ragged (R377)
  | peerReq (q : PeerQ)
  | peerRsp (epoch : BitVec 16) (kind : Nat) (data : List Byte)
  | disc (rec : BitVec 256)
  | notice (tones : List (Nat × Nat)) (slot : Option (BitVec 48))
  | transect (rec : BitVec 2048)
  | event (body : BitVec 256)            -- fabric event to SVC_STATION (R352)
  deriving DecidableEq, Repr

/-- A packet that waits to leave by a port: `from_` is the input port and channel whose buffer it holds (R320). -/
structure OutPkt where
  p       : Packet
  carries : Says
  from_   : Option (Nat × Nat)
  deriving DecidableEq, Repr

/-- A header codeword sent (R265, R267, R308, R320, R333, R340, R409): lane, partition key, low bits of `PLAN_SLOT`, ns into the
slot, sequence number of the first payload byte, newly acknowledged bytes per sending lane, replays asked for per sending lane, the
credits returned per channel, the reef status, the HOLD marks of circuits that arrive by the port. -/
structure Head where
  lane    : Nat
  key     : BitVec 12
  slot    : BitVec 16
  phase   : Nat
  seq     : Nat
  acks    : List (Nat × Nat)
  asks    : List (Nat × Nat)
  credits : List Nat
  reef    : Bool
  level   : Nat
  holds   : List (Nat × Bool)
  deriving DecidableEq, Repr

/-- The origin of a circuit's bytes: station, context, transfer number. -/
abbrev Origin := BitVec 24 × CtxId × Nat

/-- What carries payload: a packet, or a chunk of a circuit. -/
inductive Load where
  | packet (o : OutPkt)
  | chunk (circuit : Nat) (src : Origin) (bytes : List Byte)
  deriving DecidableEq, Repr

/-- What a lane sends out, behind a preamble or a training burst: the block's outputs on the fabric. -/
inductive Tx where
  | sent (port : Nat) (h : Head) (burst : Bool) (x : Load)                    -- port 15: to this package itself
  | replay (port : Nat) (h : Head) (burst : Bool) (skip : Nat) (x : Load)     -- its payload from byte `skip` on (R266)
  | header (port : Nat) (h : Head) (burst : Bool)                             -- a header-only packet (R267, R329)
  deriving DecidableEq, Repr

/-- A transmit lane (R266, R278, R283). -/
structure Lane where
  point  : Option Nat             -- Shroud: peer pointed at; none: parked
  open_  : Bool                   -- Stay: shutter open
  lost   : Bool                   -- line lost (R299)
  retry  : List (Nat × Load × Nat)  -- (port, what was sent, its payload bytes not acknowledged), oldest first (R266)
  redo   : List (Nat × Nat)       -- (port, unacknowledged bytes already replayed): replays that go before new data (R266)
  lastTx : List (Nat × Nat)       -- (peer, Mast ns) of the last packet to each peer
  seqs   : List (Nat × Nat)       -- (port, sequence number of the next payload byte) (R266)
  freePs : Nat                    -- Mast time in ps at which its last codeword ends
  seen   : List Nat               -- peers it has pointed at in this slot (R327)
  prev   : List Nat               -- and in the slot before
  rr     : Nat                    -- channel served last (R324)
  burst  : List Nat               -- peers owed a training burst (R280)
  own    : List Nat               -- MSG codewords of this package that it started in FREE slots, this slot first, at most 16 (R387)
  deriving DecidableEq, Repr

/-- A laser line (Table 7.10). -/
structure Line where
  lc     : BitVec 128             -- LC_LINE
  warned : Bool                   -- FADE_WARN given
  wanted : Bool                   -- SWAP_WANTED or swap given
  warnNs : Option Nat             -- Mast time the warning level was crossed
  deriving DecidableEq, Repr

/-- A spare swap in progress (Table 7.13). -/
structure LSwap where
  role  : Nat
  spare : Nat
  step  : Nat                     -- 1 waits for the controller, 2 tuning, 4 waits for the slot
  now   : Bool                    -- no wait for a slot (R299)
  deriving DecidableEq, Repr

structure Optics where
  loops  : Tbl HLoop              -- loop m of die d at 1,024 d + m
  sp     : Bank (List (BitVec 64))  -- 24 LANE_SP
  lanes  : Tbl Lane
  fresh  : List (Nat × Nat)       -- equaliser states not stale: (peer code, lane)
  rot    : Nat
  pilot  : Tbl (List Nat)         -- expected tones (kHz) of receiver SIk.c at 4 (k - 1) + c
  dark   : Bool                   -- no transmitter may send light (R277, R292)
  lines  : Tbl Line
  swaps  : List LSwap
  due    : List (Nat × Nat × Nat)   -- fade triggers (role, value, limit) that wait for a plan epoch (R287)
  fibreFade : List Nat
  cartSerial : BitVec 64          -- 0: none
  cartSeen : List (BitVec 64)     -- cartridge serials authenticated in this package
  cartMap : List (BitVec 128)     -- line records as the cartridge stores them (R288)
  cartLife : List Byte            -- LC_LIFE, 544 bytes
  cartCtr : Nat                   -- counter of authenticated writes (R499)
  lcHold : Bool                   -- power removed by a load-switch fault (R518)
  lcWait : Bool                   -- a restoration waits for LC_FAULT_N (R519)
  spExh  : List Nat               -- roles whose triggers have raised SPARES_EXHAUSTED
  deriving DecidableEq, Repr

/-! ### Fabric (chapter 8) -/

/-- Discovery outcome of a port (Table 8.16). -/
inductive PortState where
  | down | held | up
  deriving DecidableEq, Repr

/-- Stay port states (Table 7.8). -/
inductive StayState where
  | dark | acquiring | trained | up | laserSwap
  deriving DecidableEq, Repr

/-- What a receiver keeps of a sending lane (R266, R267): the sequence number it takes next, bytes to acknowledge, whether it has
asked for a replay that has not begun. -/
structure Rx where
  next : Nat
  ack  : Nat
  ask  : Bool
  deriving DecidableEq, Repr

structure Port where
  st     : PortState
  stay   : StayState
  disc   : BitVec 256             -- last DISC_REC
  delay  : Nat                    -- measured one-way delay, ns
  d      : Nat                    -- D in slots
  seen   : Bool                   -- a neighbour has been found since the port came up
  ctr    : List Nat               -- TX_BYTES to NAKS since package reset
  base   : List Nat               -- the same at the last interval close
  credits : List Nat              -- codewords of each neighbour buffer
  seq    : Nat                    -- transect SEQ
  reefSeen : Bool
  slip   : Bool
  headNs : Nat                    -- Mast time of the last header codeword plus 1; 0: none
  found  : Nat                    -- row of Table 8.16 that the last record gave; 0: none since port-down
  owed   : List Nat               -- credits to return, per channel (R320)
  rx     : Tbl Rx                 -- by sending lane; 0 on Stay and Backstay
  swapAt : Option Nat             -- slot of the neighbour's laser swap (Table 7.13)
  retrain : Option Nat            -- slot from which the port re-acquires after it
  preFec : Nat                    -- 24 h mean of the pre-FEC error estimate, units of 10^-8 (R301, Table 11.17)
  deriving DecidableEq, Repr

/-- A collective's partial that travels as chunks of a circuit (R373): its origin, the piece, bytes already sent. -/
structure ColSend where
  src  : Origin
  p    : Piece
  sent : Nat
  deriving DecidableEq, Repr

/-- A circuit at this package (R332, R333). -/
structure Circ where
  buf    : Option (List Byte)     -- transit buffer of one chunk
  spill  : List (List Byte)       -- chunks parked in the overflow pool
  hold   : Bool                   -- HOLD marked towards the upstream hop
  held   : Bool                   -- HOLD seen from the downstream hop
  src    : Option Origin          -- origin of the chunk that came last
  out    : List ColSend           -- ORIGIN: partials that wait for its COL slots, oldest first
  broken : Bool
  deriving DecidableEq, Repr

/-- The fabric. -/
structure Fabric where
  planA  : Option (List Byte)     -- active plan image, 297,984 bytes
  planS  : Cells                  -- shadow plan image by byte offset
  pendT  : Option Nat             -- slot T of a pending swap
  nextPlan : Option (List Byte)   -- the plan accepted for slot T
  applied : Bool                  -- took-effect flag of the plan (R43)
  told   : Bool                   -- a withdrawal has reported the pending swap as having taken effect (R43, R312)
  epochT : Nat                    -- T of the active plan
  ports  : Tbl Port
  circs  : Tbl Circ
  leaseNs : Option Nat            -- Mast time the lease timer was restarted
  leaseSeq : Option (BitVec 32)   -- last accepted SEQ since the plan epoch
  leaseBad : Nat
  timeLost : Bool
  parent : Option Nat             -- port followed (R309)
  transectDrops : Nat
  transectNs : Nat
  trFrame : BitVec 48             -- frame number of TR_CTX at the last close (R351)
  mgtDrops : Nat
  parked : List (Nat × Origin × List Byte)  -- chunks handed back by disabled lanes: (circuit, origin, bytes) (R286, R339)
  inject : List OutPkt            -- this package's own packets that no router has taken yet
  outq   : List (Nat × OutPkt)    -- packets that wait for slots, credits or retry space, oldest first
  tx     : List Tx                -- newest first
  xferNo : Nat                    -- next transfer number
  inbound : List Inbound
  deriving DecidableEq, Repr

/-! ### Halyard: Field book, dumps, health, escalation -/

/-- The fields of an FB_EVENT body (Table 11.12) and where the event goes: the context or the function it
concerns; neither for a package event. -/
structure Event where
  code   : Nat
  kind   : Nat := 0
  subj   : Nat := 0
  v0     : Nat := 0
  v1     : Nat := 0
  status : Nat := 0
  aux0   : Nat := 0
  aux1   : Nat := 0
  ctx    : Option CtxId := none
  fn     : Option CtxId := none
  deriving DecidableEq, Repr

structure Hal where
  fb      : Cells                 -- Field book SRAM by byte offset
  flash   : Cells                 -- its flash copy
  dirty   : List Nat              -- first rows of records not yet copied to flash
  fbNext  : Nat                   -- next ring row
  fbSeq   : BitVec 32
  resets  : Tbl Nat               -- RESET_COUNT of domain d, cause c at 16 d + c
  escHist : List (Nat × Nat)      -- (cause, TIME_US), newest first
  escNext : Nat
  clean   : Tbl Nat               -- CLEAN_MIN of reason n
  tally   : Tbl (Nat × List Nat)  -- reason n: interval index and what was counted in it (R437, R530)
  stopOver : Nat
  hours   : Nat
  health  : BitVec 32
  escPol  : BitVec 32
  stopLog : Tbl (Nat × Nat)       -- context n: minute, records logged in it
  rate    : List (Nat × Nat × Nat)  -- (event code, subject, interval index) already raised
  dumps   : List (Nat × Nat × Nat)  -- (slot, order, bytes) of used slots
  dumpNo  : Nat
  evq     : List Event            -- events waiting through a restart, oldest first (R428)
  evDrop  : Nat                   -- events beyond its 256 entries
  alert   : BitVec 32             -- ALERT_SRC
  stopNotes : List StopNote       -- details of context stops, newest first (R187, R251, R252)
  smb     : BitVec 16             -- SMB_STATUS
  spareCart : BitVec 64           -- serial of the cartridge last short of spares (Table 11.17, reason 3)
  fbBad   : List Nat              -- Field book rows that read uncorrectable (R430)
  deriving DecidableEq, Repr

/-! ### Host interface -/

/-- What the answer of a command that has begun waits for. -/
inductive Wait where
  | posted                        -- posted through BAR0, not begun
  | unmap (c : CtxId)
  | reset (c : CtxId)
  | destroy (c : CtxId)
  | compute
  | service
  deriving DecidableEq, Repr

/-- Completions given to the host, the BMC or the tester (outputs). -/
inductive Cpl where
  | data (bs : List Byte)
  | unsupported
  | abort
  | nack
  | ack
  | jtag (bits : List Bool)
  | spdm (bs : List Byte)
  deriving DecidableEq, Repr

structure Func where
  req     : List Byte             -- request mailbox, 4 KiB
  resp    : List Byte             -- response mailbox
  post    : BitVec 32
  done    : BitVec 32
  busy    : Option Wait           -- a command is outstanding
  evtHead : BitVec 32
  evtTail : BitVec 32
  ringAddr : BitVec 64
  nent    : BitVec 32
  modUs   : BitVec 16
  scope   : BitVec 8
  evSeq   : BitVec 32
  lost    : BitVec 16
  annNs   : Option Nat            -- last announcement on vector 1
  annDue  : Bool                  -- an entry waits to be announced
  bar2Mode : Nat                  -- 0 off, 1 virtual, 2 physical
  bar2Base : BitVec 64
  bar2Log : Nat                   -- log2 of the BAR2 size
  hostErr : Bool
  msixTab : Cells                 -- MSI-X table bytes
  pba     : BitVec 64
  deriving DecidableEq, Repr

/-! ### Firmware and security (chapter 13) -/

structure Boot where
  dir     : Tbl (BitVec 512)      -- BOOT_DIR copies written so far
  slots   : Tbl Cells             -- bytes of slots A, B written so far
  erased  : List (Nat × Nat)      -- (slot, sector) erased since it was last as Config gives it
  sectors : List Nat              -- sectors of slot A erased since recovery began (R488)
  staging : Cells                 -- firmware staging buffer
  writing : Option (Nat × Nat)    -- slot and length of a write in progress
  slot    : Nat                   -- running slot
  image   : List Byte             -- verified image
  meas    : BitVec 256
  hasImage : Bool
  firstDone : List (BitVec 256)   -- measurements of images that have reached READY
  blown   : Nat                   -- ROLLBACK fuses blown by this model
  revoked : BitVec 4              -- KEY_REVOKE fuses blown by this model
  spdm    : Nat                   -- SPDM connection: 0 none, 1 version, 2 capabilities, 3 algorithms
  jtag    : Nat                   -- JTAG instruction: 0 IDCODE, 1 BYPASS, 2 SAMPLE/PRELOAD, 3 EXTEST
  lands   : List Bool             -- boundary cells
  deriving DecidableEq, Repr

/-- A context's section of the telemetry mirror as last updated (R472, R473, Table 12.15). -/
structure CtxSample where
  gen    : BitVec 64              -- GEN: even outside an update
  frame  : BitVec 48
  beats  : Nat                    -- last FRAME_BEATS
  run    : RunState
  stop   : BitVec 16
  overruns : BitVec 32
  replayOver : BitVec 32
  redrain : BitVec 32
  epoch  : BitVec 16
  full   : Bool                   -- TRACE_FULL
  rec_   : List Byte              -- last PHASE_REC
  slips  : List (BitVec 128)
  slipOther : BitVec 32
  tokens : Tbl (BitVec 16)
  cap    : Tbl (BitVec 16)
  value  : Tbl (BitVec 16)
  cnt    : Tbl (BitVec 32)
  deriving DecidableEq, Repr

/-- The sections of the telemetry mirror that begin with GEN, as last updated; one update takes all that are not a context's, and GEN
is theirs. -/
structure Mirror where
  gen    : BitVec 64
  pwr    : BitVec 64              -- PWR_STAT
  health : BitVec 32
  escPol : BitVec 32
  bmcCap : BitVec 32
  k      : Fp
  slot   : BitVec 48              -- PLAN_SLOT
  drops  : Nat                    -- TRANSECT_DROPS
  ports  : Tbl Port
  cnt    : Tbl (Nat × Nat × Nat)  -- CE, UE, ADDR counts of unit u
  droops : Tbl Nat
  stretched : Tbl Nat
  vtab   : Tbl (BitVec 64)
  ctxs   : Tbl CtxSample
  deriving DecidableEq, Repr

/-- The whole package, and the queue of waiting commands. -/
structure State where
  clk    : Clk
  pins   : Pins
  pkg    : Pkg
  reef   : Reef
  ctxs   : Tbl Ctx
  tiles  : Tbl Tile               -- physical tile
  units  : Tbl UpdUnit
  mem    : Memory
  host   : Cells                  -- host memory as written by the package or placed by a test
  optics : Optics
  fab    : Fabric
  hal    : Hal
  fns    : Tbl Func
  boot   : Boot
  mirror : Mirror
  turns  : Tbl Nat                -- shared server, 16 x class + unit: 1 + the context served last; default 0 (R72)
  msix   : List (Nat × Nat)       -- messages signalled: (function, vector), newest first
  cpl    : Option Cpl             -- completion of the last access
  freeCtr : Nat                   -- picks the next free value (log 1)
  pending : List Instr            -- commands waiting, first in first out
  deriving DecidableEq, Repr

/-! ### Reset values -/

/-- REEF_POL reset value (Table 10.4). -/
def reefPolReset : BitVec 128 :=
  BitVec.ofNat 128 (0x578 * 2 ^ 116 + 0x6D6 * 2 ^ 104 + 6 * 2 ^ 98 + 8 * 2 ^ 94 + 0 * 2 ^ 91 + 4 * 2 ^ 88
    + 4 * 2 ^ 83 + 8 * 2 ^ 78 + 1 * 2 ^ 74 + 0x14 * 2 ^ 65)

/-- VTAB_Dd reset value (Table 10.6). -/
def vtabReset : BitVec 64 := 0x000000FFFFFFFFFF

/-- Default recipe table (Table 3.9). -/
def recipeDefaults : List (BitVec 64) :=
  let r (fmt rule rnd step fx pair sc tc : Nat) : BitVec 64 :=
    BitVec.ofNat 64 (fmt * 2 ^ 60 + rule * 2 ^ 58 + rnd * 2 ^ 57 + step * 2 ^ 54 + fx * 2 ^ 46
      + pair * 2 ^ 41 + sc * 2 ^ 35 + tc * 2 ^ 29)
  [r 9 1 0 3 0 0 0 0, r 9 1 0 3 0 0 0 0, r 9 1 1 3 0 0 0 1, r 0 0 0 3 0 1 0 0, r 0 0 0 3 0 0 0 0,
   r 0 0 0 3 0 0 0 0, r 0 0 0 3 0 0 0 0, r 1 0 0 3 0 4 0 0, r 1 0 0 3 0 8 0 0, r 1 0 0 3 0 8 0 0,
   r 1 0 0 3 0 10 0 0, r 3 1 0 3 0 0 0 0, r 4 2 0 3 111 0 0 0] ++ List.replicate 19 0

/-- LANE_SP reset table (R284). -/
def laneSpReset : List (BitVec 64) :=
  List.replicate 16 3 ++ ([0, 2, 4, 6, 8, 10, 1, 3].map fun ch => BitVec.ofNat 64 (ch * 16 + 3))

def Res.none : Res := ⟨0, 0, 0, 0, 0⟩
def ProgBase.none : ProgBase := ⟨false, 0, List.replicate 16 0, 0⟩
def Frame.init : Frame := ⟨0, 0, 0, 0, 0, 0, 0, 0, 0, 0, [], [], 0, []⟩
def Issue.init : Issue :=
  { pc := 0, rep := 0, cur := [], cnt := [], loops := [], loopBuf := none, fetchBuf := none, tickDue := false, endDue := false,
    fresh := true, stopReq := false, stopDue := [], reset := none, tickIrq := false, lastTag := 0, k := 0, beatNo := 0, issued := 0,
    holdRun := 0, holds := 0, lastHold := 0, holdTok := 0, holdVal := 0, replays := [], pass := none, hist := [], mesh := [],
    drains := [] }
def Trace.off : Trace := ⟨false, 0, 0, 0, 0, false, 0, false⟩

/-- An update program image with 16 zero entries and no instructions (R207). -/
def updpReset : List Byte := List.replicate 64 0

/-- A context as R79, R137, R160, R175, R207 and Table 11.4 leave it, not existing. -/
def Ctx.init : Ctx :=
  { run := .none, stop := 0, epoch := 0, res := .none, srSeed := 0, spw := [0, 0, 0, 0],
    prog := ⟨.none, .none⟩, lib := ⟨[], []⟩, recipes := ⟨recipeDefaults, recipeDefaults⟩, ret := ⟨0, 0⟩,
    disp := ⟨List.replicate 64 0, List.replicate 64 0⟩, updp := ⟨updpReset, updpReset⟩, pend := 0,
    applied := 0, tokens := [], cap := [], value := [], cnt := [], fr := .init, is := .init, raises := [],
    slips := [], slipOther := 0, groups := [], early := [], maps := [], tables := [], drains := [], expVa := 0, expN := 0,
    trace := .off, queue := [], reset := none }

def ASet.init : ASet := ⟨false, 0, false, 0, 0, 0, 0, false, 0, []⟩
def Tile.init : Tile := ⟨.init, .init, []⟩
def UpdUnit.init : UpdUnit := ⟨[], [], [], 0, 0⟩
def HLoop.init : HLoop := ⟨.sweep, 0x3F, 0, 0, [], 0, 0, 0⟩
def Lane.init : Lane :=
  { point := none, open_ := false, lost := false, retry := [], redo := [], lastTx := [], seqs := [], freePs := 0, seen := [], prev := [], rr := 6,
    burst := [], own := [] }

/-- LC_LINE reset value (Table 7.10). -/
def lcLineReset : BitVec 128 :=
  BitVec.ofNat 128 (0xFF * 2 ^ 96 + 0xF * 2 ^ 88 + 0x8000 * 2 ^ 48 + 0x8000 * 2 ^ 32)
def Line.init : Line := ⟨lcLineReset, false, false, none⟩

/-- Input buffers of a port as its neighbour's credits, in payload codewords (Table 8.11): REQ, RSP, MSG VC0, MSG VC1, ACK VC0,
ACK VC1, MGT, and the COL staging of two chunks of 7 or 4 codewords. -/
def portCredits (port : Nat) : List Nat :=
  if port < 7 then [56, 112, 112, 0, 16, 0, 16, 14]
  else if port < 13 then [0, 0, 224, 224, 32, 32, 16, 8] else [0, 0, 112, 0, 16, 0, 16, 0]

def Port.init : Port :=
  { st := .down, stay := .dark, disc := 0, delay := 0, d := 0, seen := false, ctr := List.replicate 17 0, base := List.replicate 17 0,
    credits := [], seq := 0, reefSeen := false, slip := false, headNs := 0, found := 0, owed := List.replicate 8 0, rx := [],
    swapAt := none, retrain := none, preFec := 0 }
def Rx.init : Rx := ⟨0, 0, false⟩
def Circ.init : Circ := ⟨none, [], false, false, none, [], false⟩

/-- A function's registers after package reset and FLR (Table 12.7, R446). -/
def Func.init : Func :=
  ⟨[], [], 0, 0, none, 0, 0, 0, 0, 0, 0, 0, 0, none, false, 0, 0, 36, false, [], 0⟩

def Reef.init : Reef :=
  { pol := ⟨reefPolReset, reefPolReset⟩, polPend := false, bmcCap := 0x57800000, bmcForce := 0x57800000,
    k := 0x3F800000, calStale := false, calOut := false, belowRun := 0, rungC := 0, rungM := 0, rungL := 0,
    thermRung := 0, thermCool := 0, stackCap := [], stackCool := [], cHot := false, mHot := [], hHot := [],
    dvfsStep := 0, dvfsWant := 0, marginLow := false, estHist := [], stat := 0x0005780108000000, level := 0,
    fastNs := none, partFloor := none, nbr := [], stretch := 0, stretchDie := [],
    droopUp := false, droops := [], stretched := [], vtab := [], trimNs := 0, hTemp := [] }

def Memory.init : Memory :=
  { bytes := [], upset := [], marked := [], errs := [], rowCe := [], lineCe := [], remapQ := [], used := [], cnt := [], bwin := [],
    scrubH := 24, lastUe := none }

def Optics.init : Optics :=
  { loops := [], sp := ⟨laneSpReset, laneSpReset⟩, lanes := [], fresh := [], rot := 0, pilot := [],
    dark := true, lines := [], swaps := [], due := [], fibreFade := [], cartSerial := 0, cartSeen := [], cartMap := [], cartLife := [],
    cartCtr := 0, lcHold := false, lcWait := false, spExh := [] }

def Fabric.init : Fabric :=
  { planA := none, planS := [], pendT := none, nextPlan := none, applied := false, told := false, epochT := 0, ports := [],
    circs := [], leaseNs := none, leaseSeq := none, leaseBad := 0, timeLost := false, parent := none,
    transectDrops := 0, transectNs := 0, trFrame := 0, mgtDrops := 0, parked := [], inject := [], outq := [], tx := [], xferNo := 0,
    inbound := [] }

def Hal.init : Hal :=
  { fb := [], flash := [], dirty := [], fbNext := 5376, fbSeq := 0, resets := [], escHist := [],
    escNext := 0, clean := [], tally := [], stopOver := 0, hours := 0, health := 0, escPol := 0x32580000, stopLog := [],
    rate := [], dumps := [], dumpNo := 0, evq := [], evDrop := 0, alert := 0, stopNotes := [], smb := 0,
    spareCart := 0, fbBad := [] }

def CtxSample.init : CtxSample :=
  { gen := 0, frame := 0, beats := 0, run := .none, stop := 0, overruns := 0, replayOver := 0, redrain := 0, epoch := 0, full := false, rec_ := [],
    slips := [], slipOther := 0, tokens := [], cap := [], value := [], cnt := [] }

/-- The mirror before its first update: what it copies stands at its reset value. -/
def Mirror.init : Mirror :=
  { gen := 0, pwr := Reef.init.stat, health := 0, escPol := Hal.init.escPol, bmcCap := Reef.init.bmcCap, k := Reef.init.k, slot := 0, drops := 0,
    ports := [], cnt := [], droops := [], stretched := [], vtab := [], ctxs := [] }

def Boot.init : Boot :=
  ⟨[], [], [], [], [], none, 0, [], 0, false, [], 0, 0, 0, 0, []⟩

def Pkg.init : Pkg :=
  { state := 0, bootStep := 0, fenced := false, cartOk := false, numVfs := 0, linkUp := false,
    computeReset := true, romService := false, halyardUp := false, hbmUp := false, tripped := false,
    crCause := 8, crStartNs := 0, crBusy := false, crFn := none, crSelf := false, restart := none, brakeLatch := false, aer := 0, ssIds := 0 }

/-- Pins right after PWRGD_MAST asserts (Table 14.5, step 3; log 4). -/
def Pins.init : Pins :=
  { perstN := false, pwrgdMast := true, pwrgdAux := false, pwrgdCore := false, brakeN := true, testN := true, lcPresN := true,
    lcFaultN := true, thermtripN := true, lcPwrEn := false, qspiRstN := false, plane := Config.plane }

/-- The package right after a cold reset (R423): Mast domain running, PERST_N asserted, time 0, memory
with nothing listed, the queue empty. -/
def State.reset : State :=
  { clk := ⟨0, 0, 0⟩, pins := .init, pkg := .init, reef := .init, ctxs := [], tiles := [], units := [],
    mem := .init, host := [], optics := .init, fab := .init, hal := .init, fns := [], boot := .init, mirror := .init, turns := [],
    msix := [], cpl := none, freeCtr := 0, pending := [] }

end Sys2Proof.Machine
end

