-- ==== Sys2Proof/Machine/Flags.lean ====
section
/-! DEFINITION. Status codes, event codes, and the check codes the manual computes: CRC-32C, the HBM line
code and the on-chip byte code. -/

namespace Sys2Proof.Machine

/-! ### Status codes (Table 12.11) -/

abbrev Status := BitVec 16

def stOk : Status := 0x0000
def stSwapTook : Status := 0x0001
def stSequence : Status := 0x0010
def stReserved : Status := 0x0011
def stUnknownOp : Status := 0x0012
def stLength : Status := 0x0013
def stNotPermitted : Status := 0x0014
def stOutOfService : Status := 0x0015
def stNoContext : Status := 0x0016
def stCtxState : Status := 0x0017
def stHostDma : Status := 0x0018
def stRestarted : Status := 0x0019
def stVersion : Status := 0x001A
def stField : Status := 0x001B
def stWindow : Status := 0x0100
def stSwapPending : Status := 0x0101
def stBusy : Status := 0x0102
def stTableFull : Status := 0x0103
def stConflict : Status := 0x0104
def stRangeBusy : Status := 0x0105
def stTranslation : Status := 0x0106
def stOverlap : Status := 0x0107
def stLine : Status := 0x0108
def stPolicy : Status := 0x0109
def stSlotEmpty : Status := 0x010A
def stLibUnknown : Status := 0x010B
def stComputeReset : Status := 0x010C
def stBundle : Status := 0x0200
def stFetch : Status := 0x0201
def stLoopCount : Status := 0x0202
def stLoopStruct : Status := 0x0203
def stTileAddr : Status := 0x0204
def stRemote : Status := 0x0205
def stTokenOver : Status := 0x0206
def stCreditOver : Status := 0x0207
def stFrameExh : Status := 0x0208
def stAccState : Status := 0x0209
def stTranspose : Status := 0x020A
def stSparse : Status := 0x020B
def stHang : Status := 0x020C
def stHangAbort : Status := 0x020D
def stRecipe : Status := 0x0300
def stRetention : Status := 0x0301
def stWindowInv : Status := 0x0302
def stDispProg : Status := 0x0303
def stCountOver : Status := 0x0304
def stShardRec : Status := 0x0305
def stShardVer : Status := 0x0306
def stUpdProg : Status := 0x0400
def stUpdDesc : Status := 0x0401
def stWrongStack : Status := 0x0402
def stStreamMis : Status := 0x0403
def stStreamOver : Status := 0x0404
def stWalk : Status := 0x0405
def stLineAlign : Status := 0x0406
def stMemUe : Status := 0x0500
def stTrace : Status := 0x0501
def stSetPoint : Status := 0x0600
def stOpticsBusy : Status := 0x0601
def stOpticsNot : Status := 0x0602
def stNoSpare : Status := 0x0603
def stPlan : Status := 0x0700
def stRoute : Status := 0x0701
def stClassRule : Status := 0x0702
def stSwapSlot : Status := 0x0703
def stCircuit : Status := 0x0704
def stNeighbour : Status := 0x0705
def stEpochLate : Status := 0x0706
def stCircBroken : Status := 0x0707
def stLinkTimeout : Status := 0x0708
def stFenced : Status := 0x0709
def stCtxClosed : Status := 0x070A
def stLease : Status := 0x070B
def stGroup : Status := 0x0800
def stGroupEng : Status := 0x0801
def stGroupFull : Status := 0x0802
def stCollMis : Status := 0x0803
def stRecvOver : Status := 0x0804
def stPerm : Status := 0x0805
def stImage : Status := 0x0900
def stRollback : Status := 0x0901
def stCartAbsent : Status := 0x0902

/-! ### Event codes (Table 12.14) -/

def evContextStop := 0x0001
def evNonfinite := 0x0002
def evUpdNonfinite := 0x0003
def evCollNonfinite := 0x0004
def evFrameOverrun := 0x0005
def evReplayOverrun := 0x0006
def evSwapApplied := 0x0007
def evHostError := 0x0008
def evMergeFailed := 0x0009
def evCtxResetDone := 0x000A
def evTraceFull := 0x000B
def evMemUe := 0x000C
def evCtxDestroyed := 0x000D
def evPlanEpoch := 0x0010
def evReefApplied := 0x0011
def evFwCommitted := 0x0012
def evFadeWarn := 0x0100
def evSwapWanted := 0x0101
def evSwapStart := 0x0102
def evSwapDone := 0x0103
def evSwapFail := 0x0104
def evSparesExh := 0x0105
def evLineFailed := 0x0106
def evFibreFade := 0x0107
def evLoopFault := 0x0108
def evNoLock := 0x0109
def evCartRemoved := 0x010A
def evLcHot := 0x010B
def evPortUp := 0x0200
def evPortDown := 0x0201
def evNbrUnplanned := 0x0202
def evHashMismatch := 0x0203
def evDelayMismatch := 0x0204
def evPartDrop := 0x0205
def evFenced := 0x0206
def evLeaseExpired := 0x0207
def evTimeLost := 0x0208
def evCircuitSlip := 0x0209
def evCircuitBroken := 0x020A
def evUnfenced := 0x020B
def evCapUnmet := 0x0300
def evFastLimit := 0x0301
def evCalFault := 0x0302
def evCalStale := 0x0303
def evDroopSust := 0x0304
def evMarginLow := 0x0305
def evMarginSuspect := 0x0306
def evThermalReef := 0x0307
def evHbmThermal := 0x0308
def evThermalTrip := 0x0309
def evCrDone := 0x0400
def evHang := 0x0401
def evEscalation := 0x0402
def evOos := 0x0403
def evReturn := 0x0404
def evHealth := 0x0405
def evHalyard := 0x0406
def evTrim := 0x0407

/-! ### CRC-32C (Table 0.10) -/

/-- Bits of a reflected CRC register, n at a time. -/
def crcBits : Nat → Nat → Nat
  | 0, r => r
  | n + 1, r => crcBits n (if r % 2 = 1 then (r / 2) ^^^ 0x82F63B78 else r / 2)

/-- CRC-32C, Castagnoli polynomial 0x1EDC_6F41, reflected, register preset and inverted (log 7). -/
def crc32c (bs : List Byte) : BitVec 32 :=
  BitVec.ofNat 32 ((bs.foldl (fun r b => crcBits 8 (r ^^^ b.toNat)) 0xFFFFFFFF) ^^^ 0xFFFFFFFF)

/-! ### The HBM line code (R241 to R243) -/

/-- Multiplication by 0x02 in GF(2^8) modulo x^8 + x^4 + x^3 + x^2 + 1. -/
def gfX (a : Nat) : Nat := if a ≥ 128 then ((2 * a) % 256) ^^^ 0x1D else 2 * a

/-- Product in GF(2^8), by the bits of `b` from bit k - 1 down. -/
def gfMulGo (a b : Nat) : Nat → Nat → Nat
  | 0, r => r
  | k + 1, r => gfMulGo a b k (gfX r ^^^ (if (b >>> k) % 2 = 1 then a else 0))

/-- Product in GF(2^8). -/
def gfMul (a b : Nat) : Nat := gfMulGo a b 8 0

/-- alpha^n. -/
def gfPow : Nat → Nat
  | 0 => 1
  | n + 1 => gfX (gfPow n)

/-- Classes of a read (Tables 6.6 and 6.9). -/
inductive RdClass where
  | clean
  | ce (pos : Nat)
  | ue
  | addr
  deriving DecidableEq, Repr

/-- Syndrome S_i of an error pattern over positions 0 to 76: a codeword contributes 0 (R242, R243). -/
def lineSyn (pat : List (Nat × Byte)) (i : Nat) : Nat :=
  pat.foldl (fun acc p => acc ^^^ gfMul p.2.toNat (gfPow (i * p.1))) 0

/-- Class of a line whose stored and address symbols differ from a codeword by `pat` (Table 6.6). -/
def lineClass (pat : List (Nat × Byte)) : RdClass :=
  let s := (List.range 8).map (lineSyn pat)
  let s0 := s.headD 0
  if s.all (· == 0) then .clean
  else
    match (List.range 77).find? fun p => s0 != 0 &&
        (List.range 8).all fun i => s.getD i 0 == gfMul s0 (gfPow (i * p)) with
    | some p => if p < 72 then .ce p else .addr
    | none => .ue

/-- The SYNDROME field of MEM_ERR for a line: S7 in the top byte down to S0. -/
def lineSynField (pat : List (Nat × Byte)) : Nat :=
  (List.range 8).foldl (fun acc i => acc + lineSyn pat i * 2 ^ (8 * i)) 0

/-- The code symbols c0 to c76 of a line at an address: check bytes, data, address symbols (R241). -/
def addrSyms (a : Nat) : List Nat :=
  [(a >>> 6) % 256, (a >>> 14) % 256, (a >>> 22) % 256, (a >>> 30) % 256, (a >>> 38) % 4]

/-- One step of division by g(x): the register holds r7 to r0, lowest first. -/
def lfsrStep (g : List Nat) (r : List Nat) (m : Nat) : List Nat :=
  let fb := m ^^^ r.getD 7 0
  (List.range 8).map fun i => (if i = 0 then 0 else r.getD (i - 1) 0) ^^^ gfMul fb (g.getD i 0)

/-- Coefficients of g(x) = (x + 1)(x + alpha) ... (x + alpha^7), lowest first, without x^8. -/
def genPoly : List Nat :=
  ((List.range 8).foldl (fun p i =>
    (List.range (p.length + 1)).map fun j =>
      (if j = 0 then 0 else p.getD (j - 1) 0) ^^^ gfMul (p.getD j 0) (gfPow i)) [1]).take 8

/-- The check bytes C0 to C7 of a line (R242). -/
def lineCheck (a : Nat) (data : List Byte) : List Nat :=
  let ms := (data.map BitVec.toNat ++ addrSyms a).reverse
  ms.foldl (lfsrStep genPoly) (List.replicate 8 0)

/-! ### The on-chip byte code (R246 to R248) -/

/-- Check-matrix columns of d0 to d7 and c0 to c4, written c4 to c0. -/
def hsiaoCol (i : Nat) : Nat :=
  [0b00111, 0b01011, 0b01101, 0b01110, 0b10011, 0b10101, 0b10110, 0b11001,
   0b00001, 0b00010, 0b00100, 0b01000, 0b10000].getD i 0

/-- Address signature columns (Table 6.7). -/
def sigCol (k : Nat) : Nat :=
  [0b00011, 0b00101, 0b00110, 0b01001, 0b01010, 0b01100, 0b10001, 0b10010, 0b10100, 0b11000,
   0b01111, 0b10111, 0b11011, 0b11101, 0b11110].getD k 0

/-- Row signature of a row address (R247). -/
def rowSig (rho : Nat) : Nat :=
  (List.range 15).foldl (fun acc k => if (rho >>> k) % 2 = 1 then acc ^^^ sigCol k else acc) 0

/-- Check bits of a byte at a row address (R246). -/
def hsiaoCheck (d rho : Nat) : Nat :=
  (List.range 8).foldl (fun acc i => if (d >>> i) % 2 = 1 then acc ^^^ hsiaoCol i else acc) (rowSig rho)

/-- Syndrome of a byte whose bits at positions 0 to 12 are wrong, or whose row address differs in bit
k, written as position 13 + k. -/
def byteSyn (pat : List (Nat × Byte)) : Nat :=
  pat.foldl (fun acc p => acc ^^^ (if p.1 < 13 then hsiaoCol p.1 else sigCol (p.1 - 13))) 0

/-- True for the XOR of at most two signature columns. -/
def isAddrSyn (s : Nat) : Bool :=
  (List.range 15).any fun j => sigCol j == s || (List.range 15).any fun k => k != j && (sigCol j ^^^ sigCol k) == s

/-- Class of a byte read (Table 6.9). -/
def byteClass (pat : List (Nat × Byte)) : RdClass :=
  let s := byteSyn pat
  if s = 0 then .clean
  else match (List.range 13).find? fun i => hsiaoCol i == s with
    | some i => .ce i
    | none => if isAddrSyn s then .addr else .ue

end Sys2Proof.Machine
end

