-- ==== Sys2Proof/Machine/Ops.lean ====
section
/-! DEFINITION. Named operations over tables, byte cells and the parts of State that every family reads and
writes: contexts, functions, tiles, time, free values, the Field book, events and interrupts. -/

namespace Sys2Proof.Machine

/-! ### Tables -/

/-- Record k of a table, or the default. -/
def tget {α : Type} (d : α) : Tbl α → Nat → α
  | [], _ => d
  | (i, v) :: r, k => if i = k then v else tget d r k

/-- A table with record k set; indices stay rising. -/
def tput {α : Type} : Tbl α → Nat → α → Tbl α
  | [], k, v => [(k, v)]
  | (i, x) :: r, k, v =>
    if k < i then (k, v) :: (i, x) :: r else if k = i then (k, v) :: r else (i, x) :: tput r k v

/-- A table without record k. -/
def tdel {α : Type} (t : Tbl α) (k : Nat) : Tbl α := t.filter fun p => p.1 != k

/-- Element i of a list replaced. -/
def lput {α : Type} : List α → Nat → α → List α
  | [], _, _ => []
  | _ :: r, 0, v => v :: r
  | x :: r, n + 1, v => x :: lput r n v

/-! ### Byte cells -/

/-- The byte at an address, or the default. -/
def cget (d : Byte) : Cells → Nat → Byte
  | [], _ => d
  | (i, v) :: r, a => if i = a then v else cget d r a

/-- The cells of bytes laid from an address on, without those that are zero. -/
def cellsOf : Nat → List Byte → Cells
  | _, [] => []
  | a, b :: r => if b = 0 then cellsOf (a + 1) r else (a, b) :: cellsOf (a + 1) r

/-- Bytes written from an address on; a cell that becomes zero is not listed. -/
def cwrite (m : Cells) (a : Nat) (bs : List Byte) : Cells :=
  m.filter (fun c => decide (c.1 < a)) ++ cellsOf a bs ++ m.filter (fun c => decide (a + bs.length ≤ c.1))

/-- Every byte of [a, a + n) zero. -/
def cclear (m : Cells) (a n : Nat) : Cells := m.filter fun c => decide (c.1 < a) || decide (a + n ≤ c.1)

/-- n bytes from an address on; an unlisted byte is given by `d`. -/
def creadD (d : Nat → Byte) (m : Cells) (a n : Nat) : List Byte :=
  let w := m.filter fun c => decide (a ≤ c.1) && decide (c.1 < a + n)
  if w.isEmpty then (List.range n).map fun i => d (a + i)
  else (List.range n).map fun i => cget (d (a + i)) w (a + i)

/-- n bytes from an address on; an unlisted byte is zero. -/
def cread (m : Cells) (a n : Nat) : List Byte := creadD (fun _ => 0) m a n

/-- Bytes placed in host memory, where an unlisted byte is not zero: every cell is kept. -/
def hwrite (m : Cells) (a : Nat) (bs : List Byte) : Cells :=
  m.filter (fun c => decide (c.1 < a)) ++ (List.range bs.length).map (fun i => (a + i, bs.getD i 0))
    ++ m.filter (fun c => decide (a + bs.length ≤ c.1))

/-- The canonical form of memory: rising addresses, no zero byte. -/
def Cells.wf : Cells → Bool
  | [] => true
  | [(_, v)] => v != 0
  | (a, v) :: (b, w) :: r => v != 0 && decide (a < b) && Cells.wf ((b, w) :: r)

/-! ### Lists of bits -/

/-- Indices of the set bits among the n lowest of a number. -/
def bitsOf (n x : Nat) : List Nat := (List.range n).filter fun i => (x >>> i) % 2 == 1

/-- A number from the indices of its set bits. -/
def ofBits (is : List Nat) : Nat := is.foldl (fun acc i => acc ||| (1 <<< i)) 0

/-- 1 or 0. -/
def b2n (b : Bool) : Nat := if b then 1 else 0

/-! ### Parts of State -/

def getCtx (s : State) (c : CtxId) : Ctx := tget .init s.ctxs c.val
def setCtx (s : State) (c : CtxId) (x : Ctx) : State := { s with ctxs := tput s.ctxs c.val x }
def modCtx (s : State) (c : CtxId) (f : Ctx → Ctx) : State := setCtx s c (f (getCtx s c))
def getFn (s : State) (n : CtxId) : Func := tget .init s.fns n.val
/-- A context's section of the mirror. -/
def getSample (s : State) (c : CtxId) : CtxSample := tget .init s.mirror.ctxs c.val
def setFn (s : State) (n : CtxId) (x : Func) : State := { s with fns := tput s.fns n.val x }
def modFn (s : State) (n : CtxId) (f : Func → Func) : State := setFn s n (f (getFn s n))
def getTile (s : State) (t : Nat) : Tile := tget .init s.tiles t
def setTile (s : State) (t : Nat) (x : Tile) : State := { s with tiles := tput s.tiles t x }
def getUnit (s : State) (u : Nat) : UpdUnit := tget .init s.units u
def setUnit (s : State) (u : Nat) (x : UpdUnit) : State := { s with units := tput s.units u x }
def getLoop (s : State) (i : Nat) : HLoop := tget .init s.optics.loops i
def setLoop (s : State) (i : Nat) (x : HLoop) : State :=
  { s with optics := { s.optics with loops := tput s.optics.loops i x } }
def getLane (s : State) (i : Nat) : Lane := tget .init s.optics.lanes i
def setLane (s : State) (i : Nat) (x : Lane) : State :=
  { s with optics := { s.optics with lanes := tput s.optics.lanes i x } }
def getLine (s : State) (i : Nat) : Line := tget .init s.optics.lines i
def setLine (s : State) (i : Nat) (x : Line) : State :=
  { s with optics := { s.optics with lines := tput s.optics.lines i x } }
/-- Record of a port, with full credits while nothing has been sent (Table 8.11). -/
def getPort (s : State) (p : Nat) : Port := tget { Port.init with credits := portCredits p } s.fab.ports p
def setPort (s : State) (p : Nat) (x : Port) : State :=
  { s with fab := { s.fab with ports := tput s.fab.ports p x } }
def getCirc (s : State) (i : Nat) : Circ := tget .init s.fab.circs i
def setCirc (s : State) (i : Nat) (x : Circ) : State :=
  { s with fab := { s.fab with circs := tput s.fab.circs i x } }

def modPins (s : State) (f : Pins → Pins) : State := { s with pins := f s.pins }
def modPkg (s : State) (f : Pkg → Pkg) : State := { s with pkg := f s.pkg }
def modReef (s : State) (f : Reef → Reef) : State := { s with reef := f s.reef }
def modMem (s : State) (f : Memory → Memory) : State := { s with mem := f s.mem }
def modOpt (s : State) (f : Optics → Optics) : State := { s with optics := f s.optics }
def modFab (s : State) (f : Fabric → Fabric) : State := { s with fab := f s.fab }
def modHal (s : State) (f : Hal → Hal) : State := { s with hal := f s.hal }
def modBoot (s : State) (f : Boot → Boot) : State := { s with boot := f s.boot }
def modIs (x : Ctx) (f : Issue → Issue) : Ctx := { x with is := f x.is }
def modFr (x : Ctx) (f : Frame → Frame) : Ctx := { x with fr := f x.fr }

/-- An output on the fabric. -/
def send (s : State) (t : Tx) : State := modFab s fun f => { f with tx := t :: f.tx }

/-- A packet of this package for its router: class, source context, destination, transfer number, payload codewords and bytes, and
what it says. The router fills in station and key. -/
def post (s : State) (cls : TClass) (c : CtxId) (dst : BitVec 24) (dstCtx : CtxId) (xfer words : Nat) (bytes : List Byte) (carries : Says) :
    State :=
  let p : Packet := { cls := cls, src := 0, srcCtx := c, dst := dst, dstCtx := dstCtx, key := 0, vc := 0, words := words, fecOk := true,
                      lane := 0, burst := false, seq := 0, xfer := xfer, bytes := bytes }
  modFab s fun f => { f with inject := f.inject ++ [⟨p, carries, none⟩] }

/-- An ACK packet: one codeword. -/
def postAck (s : State) (c : CtxId) (dst : BitVec 24) (dstCtx : CtxId) (xfer : Nat) (carries : Says) : State :=
  post s .ack c dst dstCtx xfer 1 [] carries

/-- Does context c exist (R414)? -/
def ctxExists (s : State) (c : CtxId) : Bool := (getCtx s c).run != .none

def allCtxs : List CtxId := [0, 1, 2, 3, 4, 5, 6, 7]

/-- Contexts that exist, in ascending number. -/
def existing (s : State) : List CtxId := allCtxs.filter (ctxExists s)

/-! ### The telemetry mirror (R472, R473) -/

/-- Updates a context's section: GEN goes odd before the first change and even after the last, which are one step here. When that happens
is the model's choice but for tokens, credits and counts, which a beat boundary samples (log 36). -/
def sampleCtx (s : State) (c : CtxId) : State :=
  let x := getCtx s c
  let m : CtxSample :=
    { gen := (getSample s c).gen + 2, frame := x.fr.num, beats := x.fr.lastBeats, run := x.run, stop := x.stop, overruns := x.fr.overruns,
      replayOver := x.fr.replayOver, redrain := x.fr.redrain, epoch := x.epoch, full := x.trace.full, rec_ := x.fr.lastRec,
      slips := x.slips, slipOther := x.slipOther, tokens := x.tokens, cap := x.cap, value := x.value, cnt := x.cnt }
  if x.run = .none then s else { s with mirror := { s.mirror with ctxs := tput s.mirror.ctxs c.val m } }

/-- Updates every other section that begins with GEN. -/
def samplePkg (s : State) : State :=
  { s with mirror := { s.mirror with
    gen := s.mirror.gen + 2, pwr := s.reef.stat, health := s.hal.health, escPol := s.hal.escPol, bmcCap := s.reef.bmcCap, k := s.reef.k,
    slot := s.clk.planSlot, drops := s.fab.transectDrops, ports := s.fab.ports, cnt := s.mem.cnt, droops := s.reef.droops,
    stretched := s.reef.stretched, vtab := s.reef.vtab } }

/-- A free value of the manual's open choices (log 1). -/
def drawNat (s : State) : Nat × State := (Config.freeNat s.freeCtr, { s with freeCtr := s.freeCtr + 1 })

/-! ### Time (R10, R530) -/

/-- Mast time since cold start in microseconds (`FB_HDR.TIME_US`). -/
def timeUs (s : State) : Nat := s.clk.mastNs / 1000

/-- True when an event of this code and subject has not been raised in the current interval of the given
length (R530). -/
def onceIn (s : State) (code subj lenNs : Nat) : Bool :=
  !(s.hal.rate.any fun r => r.1 == code && r.2.1 == subj && r.2.2 == s.clk.mastNs / lenNs)

/-- Notes that it has been raised. -/
def noteOnce (s : State) (code subj lenNs : Nat) : State :=
  modHal s fun h => { h with rate := (code, subj, s.clk.mastNs / lenNs) ::
    (h.rate.filter fun r => !(r.1 == code && r.2.1 == subj)) }

/-! ### MSI-X (R470) -/

/-- A byte of a function's MSI-X table; every vector is masked at reset (log 5). -/
def msixByte (f : Func) (o : Nat) : Byte := cget (if o % 16 = 12 then 1 else 0) f.msixTab o

/-- Is vector v masked? -/
def msixMasked (f : Func) (v : Nat) : Bool := bit (msixByte f (16 * v + 12)) 0

/-- Signals vector v of function n: a masked vector is held in the pending bit array. -/
def msixSignal (s : State) (n : CtxId) (v : Nat) : State :=
  let f := getFn s n
  if msixMasked f v then setFn s n { f with pba := setFld f.pba v v 1 }
  else { s with msix := (n.val, v) :: s.msix }

/-! ### The Field book (R430 to R432, R535) -/

/-- The Field book as it reads: a row found uncorrectable reads as an empty one (R430). -/
def fbSeen (h : Hal) : Cells := h.fbBad.foldl (fun m r => cclear m (64 * r) 64) h.fb

/-- Rows of 64 bytes. -/
def fbRow (s : State) (r : Nat) : List Byte := cread (fbSeen s.hal) (64 * r) 64

/-- Rows from p up to q are written anew and read well again. -/
def fbMended (h : Hal) (p q : Nat) : List Nat := h.fbBad.filter fun r => decide (r < p) || decide (q ≤ r)

/-- A row is empty when its first 32 bytes are zero (R535). -/
def fbEmpty (s : State) (r : Nat) : Bool := (fbRow s r |>.take 32).all (· == 0)

/-- ROWS of the header at a row. -/
def fbRows (s : State) (r : Nat) : Nat := fld (recAt 256 (fbRow s r) 0) 175 168

/-- The first row at or after `limit` that no record found from row q on still reaches. -/
def fbSpan (s : State) (limit : Nat) : Nat → Nat → Nat
  | 0, q => q
  | n + 1, q =>
    if q ≥ limit then q
    else if fbEmpty s q then fbSpan s limit n (q + 1)
    else fbSpan s limit n (q + (if fbRows s q = 0 then 1 else fbRows s q))

/-- The header of a record (Table 11.8), with its CRC. -/
def fbHeader (s : State) (typ rows seq : Nat) (body : List Byte) (timeUsV boot : Nat) : List Byte :=
  let h (crc : Nat) : Nat := Config.serial.toNat * 2 ^ 192 + typ * 2 ^ 176 + rows * 2 ^ 168
    + boot * 2 ^ 144 + (timeUsV % 2 ^ 48) * 2 ^ 96 + (seq % 2 ^ 32) * 2 ^ 64 + crc * 2 ^ 32
  let _ := s
  leBytes 32 (h (crc32c (leBytes 32 (h 0) ++ body)).toNat)

/-- The body padded to whole rows. -/
def fbPad (rows : Nat) (body : List Byte) : List Byte :=
  body ++ List.replicate (64 * rows - 32 - body.length) 0

/-- Appends a record to the event ring (R535). -/
def fbAppend (s : State) (typ rows : Nat) (body0 : List Byte) : State :=
  let body := fbPad rows body0
  let p := s.hal.fbNext
  let s := if p + rows > 32768 then
      modHal s fun h => { h with fb := cclear h.fb (64 * p) (64 * (32768 - p)), fbBad := fbMended h p 32768, fbNext := 5376, dirty := h.dirty.filter fun r => decide (r < p) } else s
  let p := s.hal.fbNext
  let q := fbSpan s (p + rows) rows p
  let rec_ := fbHeader s typ rows s.hal.fbSeq.toNat body (timeUs s) s.clk.boot.toNat ++ body
  modHal s fun h => { h with
    fb := cwrite (cclear h.fb (64 * p) (64 * (q - p))) (64 * p) rec_
    fbBad := fbMended h p (max q (p + rows))
    fbSeq := h.fbSeq + 1
    fbNext := if p + rows = 32768 then 5376 else p + rows
    dirty := p :: (h.dirty.filter fun r => !(decide (p ≤ r) && decide (r < q))) }

/-- Writes a record in place at a row: SEQ stays once given, CRC is recomputed (R431). -/
def fbInPlace (s : State) (row typ rows : Nat) (body0 : List Byte) : State :=
  let body := fbPad rows body0
  let old := recAt 256 (fbRow s row) 0
  let isNew := fbEmpty s row
  let seq := if isNew then s.hal.fbSeq.toNat else fld old 95 64
  let t := if isNew then timeUs s else fld old 143 96
  let b := if isNew then s.clk.boot.toNat else fld old 159 144
  modHal s fun h => { h with
    fb := cwrite h.fb (64 * row) (fbHeader s typ rows seq body t b ++ body)
    fbBad := fbMended h row (row + rows)
    fbSeq := if isNew then h.fbSeq + 1 else h.fbSeq
    dirty := row :: h.dirty.filter (· != row) }

/-- The FB_COUNTERS body (Table 11.21). -/
def countersBody (s : State) : List Byte :=
  let h := s.hal
  let cap (n x : Nat) : Nat := if x < 2 ^ n then x else 2 ^ n - 1
  leBytes 4 (cap 32 h.hours) ++ leBytes 4 h.health.toNat ++ leBytes 1 h.escNext ++ leBytes 3 0
    ++ leBytes 4 (cap 32 h.stopOver)
    ++ (List.range 15).flatMap (fun n => leBytes 4 (cap 32 (tget 0 h.clean n))) ++ leBytes 4 0
    ++ (List.range 15).flatMap (fun j =>
        match h.escHist.find? fun e => e.1 / 16 == j with
        | some e => leBytes 8 (2 ^ 52 + (e.1 % 16) * 2 ^ 48 + e.2 % 2 ^ 48)
        | none => leBytes 8 0)
    ++ leBytes 24 0
    ++ (List.range 128).flatMap (fun i => leBytes 4 (cap 32 (tget 0 h.resets i)))
    ++ leBytes 256 0

/-- Rewrites the counters record at rows 1,024 to 1,039 (R536). -/
def fbCounters (s : State) : State := fbInPlace s 1024 2 16 (countersBody s)

/-! ### Events (R467 to R471, R537) -/

/-- The FB_EVENT body as 32 bytes. -/
def eventBody (e : Event) : List Byte :=
  leBytes 32 ((e.code % 2 ^ 16) * 2 ^ 240 + (e.kind % 16) * 2 ^ 236 + (e.subj % 2 ^ 12) * 2 ^ 224
    + (e.v0 % 2 ^ 64) * 2 ^ 160 + (e.v1 % 2 ^ 64) * 2 ^ 96 + (e.status % 2 ^ 16) * 2 ^ 80
    + (e.aux0 % 2 ^ 32) * 2 ^ 48 + (e.aux1 % 2 ^ 16) * 2 ^ 32)

/-- TYPE of the Field book record of an event, if it is logged (Tables 11.9, 7.14, 8.18, 10.10). -/
def eventType (code : Nat) : Option Nat :=
  if code = evContextStop then some 0x20
  else if code = evNonfinite ∨ code = evUpdNonfinite ∨ code = evCollNonfinite then some 0x21
  else if 0x100 ≤ code ∧ code ≤ 0x10B then some 0x30
  else if 0x200 ≤ code ∧ code ≤ 0x20A then some 0x40
  else if 0x300 ≤ code ∧ code ≤ 0x309 then some 0x50
  else if code = evEscalation ∨ code = evReturn then some 0x12
  else if code = evHealth then some 0x60
  else none

/-- Events whose table limits the Field book record to the first in an interval: its length in ns. -/
def eventLogOnce (code : Nat) : Option Nat :=
  if code = evLcHot ∨ code = evFastLimit ∨ code = evDroopSust then some 3600000000000
  else none

/-- Events marked as having no host interrupt (Tables 7.14 and 10.10). -/
def eventNoHost (code : Nat) : Bool :=
  code == evSwapStart || code == evNoLock || code == evFastLimit || code == evDroopSust

/-- Events marked "To BMC" (Table 10.10). -/
def eventToBmc (code : Nat) : Bool :=
  code == evCapUnmet || (decide (evCalFault ≤ code) && decide (code ≤ evCalStale))
    || (decide (evMarginLow ≤ code) && decide (code ≤ evThermalTrip))

/-- Events that signal vector 3 of the PF (Table 12.13). -/
def eventVec3 (code : Nat) : Bool :=
  code == evThermalTrip || code == evOos || code == evHalyard || code == evFenced || code == evLeaseExpired

/-- Does host address range [a, a + n) accept a DMA now (R445, R455)? -/
def hostOk (s : State) (a n : Nat) : Bool :=
  s.pkg.linkUp && decide (a + n ≤ 2 ^ 64) && (List.range ((n + 4095) / 4096 + 1)).all fun i =>
    !(decide (4096 * (a / 4096 + i) < a + n) && Config.hostRefuses (a / 4096 + i))

/-- Announces ring entries of function n on vector 1, once in each interval of MOD_US of Mast time (Table 12.13, R530). -/
def announce (s : State) (n : CtxId) : State :=
  let f := getFn s n
  let i (t : Nat) : Nat := t / (1000 * f.modUs.toNat)
  let free := f.modUs == 0 || (match f.annNs with | none => true | some t => i t != i s.clk.mastNs)
  if free then msixSignal (setFn s n { f with annNs := some s.clk.mastNs, annDue := false }) n 1
  else setFn s n { f with annDue := true }

/-- Writes one HOST_EVT entry to the ring of function n (R467, R469). -/
def ringWrite (s : State) (n : CtxId) (e : Event) : State :=
  let f := getFn s n
  if f.nent = 0 then s
  else
    let drop : State := setFn s n { f with lost := if f.lost = 0xFFFF then f.lost else f.lost + 1 }
    let nxt := (f.evtTail.toNat + 1) % f.nent.toNat
    let a := f.ringAddr.toNat + 64 * f.evtTail.toNat
    if nxt = f.evtHead.toNat then drop
    else if !hostOk s a 64 then drop
    else
      let top := (timeUs s % 2 ^ 48) * 2 ^ 208 + f.evSeq.toNat * 2 ^ 176 + f.lost.toNat * 2 ^ 160
        + (match e.ctx with | some c => c.val * 2 ^ 157 + 2 ^ 156 | none => 0)
      let s := { s with host := hwrite s.host a (eventBody e ++ leBytes 32 top) }
      let s := setFn s n { f with evtTail := BitVec.ofNat 32 nxt, evSeq := f.evSeq + 1, lost := 0 }
      let s := announce s n
      if n = 0 && eventVec3 e.code then msixSignal s 0 3 else s

/-- Functions whose ring an event reaches (R468). -/
def eventRings (s : State) (e : Event) : List CtxId :=
  allCtxs.filter fun n =>
    (match e.ctx with | some c => c == n | none => false) || (match e.fn with | some c => c == n | none => false)
      || (n == 0 && ((e.ctx.isNone && e.fn.isNone && bit (getFn s 0).scope 0)
                    || (e.ctx.isSome && bit (getFn s 0).scope 1)))

/-- Gives an event to the rings and to the BMC alert. -/
def eventOut (s : State) (e : Event) : State :=
  let s := if eventToBmc e.code then modHal s fun h => { h with alert := h.alert ||| 1 } else s
  if eventNoHost e.code then s else (eventRings s e).foldl (fun s n => ringWrite s n e) s

/-- Is the context-stop record of this minute's limit used up (R432)? -/
def stopLogFull (s : State) (c : CtxId) : Bool :=
  let r := tget (0, 0) s.hal.stopLog c.val
  r.1 == s.clk.mastNs / 60000000000 && decide (64 ≤ r.2)

/-- Writes the Field book record of an event, within the limits of its table and R432. -/
def eventLog (s : State) (e : Event) : State :=
  match eventType e.code with
  | none => s
  | some t =>
    if t = 0x20 then
      match e.ctx with
      | none => fbAppend s t 1 (eventBody e)
      | some c =>
        let m := s.clk.mastNs / 60000000000
        let r := tget (0, 0) s.hal.stopLog c.val
        if stopLogFull s c then fbCounters (modHal s fun h => { h with stopOver := h.stopOver + 1 })
        else fbAppend (modHal s fun h => { h with
               stopLog := tput h.stopLog c.val (m, if r.1 = m then r.2 + 1 else 1) }) t 1 (eventBody e)
    else
      match eventLogOnce e.code with
      | none => fbAppend s t 1 (eventBody e)
      | some len =>
        if onceIn s (0x10000 + e.code) e.subj len then
          fbAppend (noteOnce s (0x10000 + e.code) e.subj len) t 1 (eventBody e)
        else s

/-- The event as MGT to SVC_STATION when a Backstay port (13, 14) is UP (R352). -/
def eventMgt (s : State) (e : Event) : State :=
  if 0x200 ≤ e.code ∧ e.code ≤ 0x20A ∧ ((getPort s 13).st = .up ∨ (getPort s 14).st = .up) then
    post s .mgt 0 0 0 0 1 (eventBody e) (.event (recAt 256 (eventBody e) 0))
  else s

/-- Does Halyard restart at the moment (R428)? -/
def restarting (s : State) : Bool := s.pkg.restart.isSome

/-- Halyard takes an event: Field book, rings, alert, fabric manager. -/
def takeEvent (s : State) (e : Event) : State := eventMgt (eventOut (eventLog s e) e) e

/-- Raises an event. While Halyard restarts it waits in the queue of 256 entries, beyond which events are counted and dropped (R428). -/
def raise (s : State) (e : Event) : State :=
  if restarting s then
    modHal s fun h => if h.evq.length < 256 then { h with evq := h.evq ++ [e] } else { h with evDrop := h.evDrop + 1 }
  else takeEvent s e

/-- A context event (R537). -/
def ctxEvent (c : CtxId) (code : Nat) (v0 v1 : Nat) (status aux0 aux1 : Nat) : Event :=
  { code := code, kind := 7, subj := c.val, v0 := v0, v1 := v1, status := status, aux0 := aux0, aux1 := aux1,
    ctx := some c }

/-- A package event. -/
def pkgEvent (code kind subj : Nat) (v0 v1 : Nat) : Event :=
  { code := code, kind := kind, subj := subj, v0 := v0, v1 := v1 }

/-- A RESET record (Table 11.10), with the counters of its domain and cause. -/
def resetRecord (s : State) (domain cause ctxMask startNs escCount : Nat) (oos abandoned : Bool) : State :=
  let body := leBytes 32 (domain * 2 ^ 252 + cause * 2 ^ 248 + ctxMask * 2 ^ 240
    + (((s.clk.mastNs - startNs) / 1000) % 2 ^ 32) * 2 ^ 208 + (escCount % 16) * 2 ^ 204 + b2n oos * 2 ^ 203
    + b2n abandoned * 2 ^ 202)
  let i := 16 * domain + cause
  let s := modHal s fun h => { h with resets := tput h.resets i (tget 0 h.resets i + 1) }
  fbCounters (fbAppend s 0x10 1 body)

/-! ### Health (R436, R437) -/

/-- Class of each reason of Table 11.17. -/
def reasonClass (n : Nat) : Nat := [1, 1, 1, 1, 1, 1, 2, 2, 2, 2, 2, 2, 2, 3, 3].getD n 0

/-- The class of a set of active reasons. -/
def healthClass (reasons : Nat) : Nat := (bitsOf 15 reasons).foldl (fun m n => max m (reasonClass n)) 0

/-- HEALTH with the given active reasons; each change of class writes a record, raises HEALTH_CHANGE and sets
ALERT_SRC.HEALTH_CHG. -/
def setReasons (s : State) (reasons : Nat) : State :=
  let old := s.hal.health
  let cls := healthClass reasons
  let days := if cls = fld old 31 30 then fld old 14 0 else 0
  let s := modHal s fun h => { h with health := BitVec.ofNat 32 (cls * 2 ^ 30 + reasons * 2 ^ 15 + days) }
  let s := if old = s.hal.health then s else fbCounters s
  if cls = fld old 31 30 then s
  else raise (modHal s fun h => { h with alert := h.alert ||| 2 })
    { code := evHealth, v0 := cls, v1 := fld old 31 30, aux0 := reasons }

/-- Makes a reason active, at once (R437). -/
def reasonOn (s : State) (n : Nat) : State :=
  let s := modHal s fun h => { h with clean := tput h.clean n 0 }
  setReasons s (fld s.hal.health 29 15 ||| 2 ^ n)

/-- Makes a reason inactive. -/
def reasonOff (s : State) (n : Nat) : State :=
  let r := fld s.hal.health 29 15
  if (r >>> n) % 2 = 1 then setReasons s (r - 2 ^ n) else s

end Sys2Proof.Machine
end

