-- ==== Sys2Proof/Machine/Reef.lean ====
section
/-! DEFINITION. The Reef policy's fields, the compute ladder, the floors and the reef status that headers carry
(10.1, 10.3, 10.10). -/

namespace Sys2Proof.Machine

/-! ### REEF_POL (Table 10.4) -/

def rpCap (p : BitVec 128) : Nat := fld p 127 116
def rpFast (p : BitVec 128) : Nat := fld p 115 104
def rpReefMax (p : BitVec 128) : Nat := fld p 97 94
def rpDvfsMax (p : BitVec 128) : Nat := fld p 93 91
def rpDvfsMin (p : BitVec 128) : Nat := fld p 90 88
def rpMemMin (p : BitVec 128) : Nat := fld p 87 83
def rpLinkMin (p : BitVec 128) : Nat := fld p 82 78
def rpFlagLvl (p : BitVec 128) : Nat := fld p 77 74
def rpCoord (p : BitVec 128) : Bool := bit p 73
def rpHyst (p : BitVec 128) : Nat := fld p 72 65
/-- Class codes, first-served to last-served. -/
def rpOrder (p : BitVec 128) : List Nat := [fld p 103 102, fld p 101 100, fld p 99 98]

/-! ### The compute ladder (R385, Table 10.2) -/

def dvfsSpan (p : BitVec 128) : Nat := rpDvfsMin p - rpDvfsMax p
def topRung (p : BitVec 128) : Nat := 15 + dvfsSpan p
def rungLevel (p : BitVec 128) (r : Nat) : Nat :=
  if r ≤ rpReefMax p then r else if r ≤ rpReefMax p + dvfsSpan p then rpReefMax p else r - dvfsSpan p
def rungStep (p : BitVec 128) (r : Nat) : Nat :=
  if r ≤ rpReefMax p then rpDvfsMax p
  else if r ≤ rpReefMax p + dvfsSpan p then rpDvfsMax p + (r - rpReefMax p) else rpDvfsMin p

/-- The lowest rung whose level and step are each at least the given ones; the top rung always is one (R395). -/
def rungAt (p : BitVec 128) (level step : Nat) : Nat :=
  ((List.range (topRung p + 1)).find? fun r => decide (level ≤ rungLevel p r) && decide (step ≤ rungStep p r)).getD (topRung p)

/-! ### Floors (R407, R411, R412) -/

/-- The neighbour floor: the highest level heard in the last 100 µs, when COORD is set. -/
def nbrFloor (s : State) : Nat :=
  if rpCoord s.reef.pol.act then
    (s.reef.nbr.filter fun e => decide (s.clk.mastNs < e.2.2 + 100000)).foldl (fun m e => max m e.2.1) 0
  else 0

/-- The partition floor in force. -/
def partFloor (s : State) : Nat :=
  match s.reef.partFloor with
  | some (l, t) => if s.clk.mastNs < t then l else 0
  | none => 0

/-- floor_rung(compute): the highest of the thermal rung and the floors. -/
def floorC (s : State) : Nat :=
  let p := s.reef.pol.act
  max s.reef.thermRung (max (rungAt p (nbrFloor s) 0) (rungAt p (partFloor s) 0))

/-- The compute rung in force. -/
def rungC (s : State) : Nat := max s.reef.rungC (floorC s)

/-- The reef flag and level that this package's header codewords carry: from its power and thermal rungs alone (R409). -/
def reefStatus (s : State) : Bool × Nat :=
  let p := s.reef.pol.act
  let l := rungLevel p (max s.reef.rungC s.reef.thermRung)
  (decide (rpFlagLvl p ≤ l) || decide (rpDvfsMax p < s.reef.dvfsStep), l)

end Sys2Proof.Machine
end

