-- ==== Sys2Proof/Machine/Mem.lean ====
section
/-! DEFINITION. The local physical space, reads with their error classes, writes, the error log and the
translation of context virtual addresses (chapter 6). -/

namespace Sys2Proof.Machine

/-! ### The map (R221 to R224) -/

/-- Regions of Table 6.1 with the place inside. -/
inductive Place where
  | hbm (stack : Nat)
  | die (d off : Nat)
  | tile (t off : Nat)
  deriving DecidableEq, Repr

def hbmEnd : Nat := 0x9000000000
def stackSize : Nat := 0xC00000000
def dieBase (d : Nat) : Nat := 0xF000000000 + d * 0x10000000
def dieSize : Nat := 0x6000000
def tileSize : Nat := 786432
def halyardBase : Nat := 0x8FC0000000

/-- Local physical address of the store of a tile (R223). -/
def tileBase (t : Nat) : Nat :=
  0xF100000000 + (16 * (t / 128) + t % 16) * 0x800000 + (t % 128 / 16) * 0x100000

/-- Where a local physical address lies; none outside every region and in the holes of tile slots. -/
def place (a : Nat) : Option Place :=
  if a < hbmEnd then some (.hbm (a / stackSize))
  else if dieBase 0 ≤ a ∧ a < dieBase 0 + dieSize then some (.die 0 (a - dieBase 0))
  else if dieBase 1 ≤ a ∧ a < dieBase 1 + dieSize then some (.die 1 (a - dieBase 1))
  else if 0xF100000000 ≤ a ∧ a < 0xF110000000 then
    let o := a - 0xF100000000
    let col := o / 0x800000
    let off := o % 0x100000
    if off < tileSize then some (.tile (128 * (col / 16) + 16 * (o % 0x800000 / 0x100000) + col % 16) off)
    else none
  else none

/-- Does [a, a + n) lie inside one region that exists? -/
def physOk (a n : Nat) : Bool :=
  n == 0 || match place a, place (a + n - 1) with
    | some (.hbm _), some (.hbm _) => true
    | some (.die d _), some (.die e _) => d == e
    | some (.tile t _), some (.tile u _) => t == u
    | _, _ => false

def isHbm (a : Nat) : Bool := decide (a < hbmEnd)

/-- Stack of an HBM address. -/
def stackOf (a : Nat) : Nat := a / stackSize

/-- Pseudo-channel of the 256-byte unit at an HBM address (R222). -/
def pseudoChan (a : Nat) : Nat := ((a % stackSize) >>> 8) % 32 ^^^ ((a % stackSize) >>> 13) % 32

/-- The bank that holds a line, of 18,432 in the package: stack, pseudo-channel, bank of 48. -/
def bankOf (a : Nat) : Nat := (stackOf a * 32 + pseudoChan a) * 48 + (Config.dramPage (a / 64 * 64)).1.val

/-- The DRAM row that holds a line (R256), as one number: row of the bank, bank. -/
def rowOf (a : Nat) : Nat := (Config.dramPage (a / 64 * 64)).2 * 18432 + bankOf a

/-- Row address of a byte of a tile store or a die store (Table 6.8). -/
def rowAddr (a : Nat) : Nat :=
  match place a with
  | some (.tile _ o) => (o >>> 8) % 4096
  | some (.die _ o) => (o >>> 12) % 32768
  | _ => 0

/-- Row addresses of the Field book and of Halyard memory, by byte offset (Table 6.8). -/
def fbRowAddr (o : Nat) : Nat := (o >>> 6) % 32768
def halRowAddr (o : Nat) : Nat := (o >>> 5) % 32768

/-- The check bits that the structure holds with a byte of a tile store or a die store written without fault (R246). -/
def storedCheck (s : State) (a : Nat) : Nat := hsiaoCheck (cget 0 s.mem.bytes a).toNat (rowAddr a)

/-- Physical tile of a logical tile of a context (R57, R26); none beyond its columns. -/
def physTile (x : Ctx) (lt : Nat) : Option Nat :=
  ((bitsOf 32 x.res.cols.toNat)[lt / 8]?).map fun p => 128 * (p / 16) + 16 * (lt % 8) + p % 16

/-- Number of logical tiles. -/
def nTiles (x : Ctx) : Nat := 8 * (bitsOf 32 x.res.cols.toNat).length

/-! ### Error log (R250, R255, R256) -/

/-- Who reads: the SOURCE class of Table 6.12 (0 demand, 1 scrub, 2 host merge, 3 remap copy, 9 peer) and
the context whose request it is. -/
structure Reader where
  kind : Nat
  ctx  : Option CtxId
  deriving DecidableEq, Repr

/-- SOURCE and UNIT of MEM_ERR and the counter section of Table 12.15. -/
def errUnit (rd : Reader) (a : Nat) : Nat × Nat × Nat :=
  match place a with
  | some (.hbm m) => (if rd.kind = 0 then 0 else rd.kind, m, m)
  | some (.die d o) =>
    ((if rd.kind = 9 then 9 else if rd.kind = 1 then 6 else 5), 16 * d + (o >>> 8) % 16, 12 + d)
  | some (.tile t _) => (4, t, 14)
  | none => (8, 0, 16)

/-- Counts an item for a health reason in the fixed interval of R530; the reason becomes active when the
count passes `limit`. -/
def tallyAdd (s : State) (n lenNs limit item : Nat) (distinct : Bool) : State :=
  let i := s.clk.mastNs / lenNs
  let r := tget (0, []) s.hal.tally n
  let l := if r.1 = i then r.2 else []
  let l := if distinct && l.contains item then l else item :: l
  let s := modHal s fun h => { h with tally := tput h.tally n (i, l), clean := tput h.clean n 0 }
  if l.length > limit then reasonOn s n else s

def dayNs : Nat := 86400000000000

/-- A row enters its controller's remap queue; the REMAP code of Table 6.12. -/
def remapEnq (s : State) (row : Nat) : State × Nat :=
  let st := row % 18432 / 1536
  if s.mem.used.any fun u => u.1 == row then (s, 3)
  else if s.mem.remapQ.any fun q => q.2 == row then (s, 1)
  else if (s.mem.remapQ.filter fun q => q.1 == st).length ≥ 128 then (reasonOn s 8, 2)
  else (modMem s fun m => { m with remapQ := m.remapQ ++ [(st, row)] }, 1)

/-- Counts a CE for its row and, on a scrub pass, for its line; true when R256 queues the row. -/
def ceCount (s : State) (a : Nat) (pass : Option Nat) : State × Bool :=
  let row := rowOf a
  let was := match s.mem.rowCe.find? fun r => r.1 == row with | some r => r.2 | none => (0, [])
  let n := was.1 + 1
  let old := s.mem.lineCe.find? fun l => l.1 == a
  let k : Nat × Nat := match pass, old with
    | none, some l => (l.2.1, l.2.2)
    | none, none => (0, 0)
    | some p, none => (1, p)
    | some p, some l => if l.2.1 > 0 ∧ l.2.2 = p then (l.2.1, p) else (l.2.1 + 1, p)
  let s := modMem s fun m => { m with
    rowCe := (row, n, was.2) :: m.rowCe.filter (fun r => r.1 != row)
    lineCe := if pass.isNone then m.lineCe else (a, k.1, k.2) :: m.lineCe.filter (fun l => l.1 != a) }
  (s, decide (n ≥ 16) || decide (k.1 ≥ 3))

/-- The MEM_ERR body (Table 6.12). -/
def memErrBody (a count frameLo syn pos unit source cls remap : Nat) (ctx : Option CtxId) : List Byte :=
  leBytes 32 (a * 2 ^ 192 + (min count 0xFFFFFFFF) * 2 ^ 160 + frameLo % 2 ^ 32 * 2 ^ 128 + syn * 2 ^ 64 + pos * 2 ^ 56
    + unit * 2 ^ 48 + source * 2 ^ 44 + cls * 2 ^ 42 + remap * 2 ^ 40
    + (match ctx with | some c => 2 ^ 39 + c.val * 2 ^ 36 | none => 0))

/-- The row for a new MEM_ERR record: the next of 4,096; a UE or ADDR beyond them takes the place of the
oldest CE, and goes to the event ring where none is left (log 18). -/
def errSlot (s : State) (cls : Nat) : Option (Nat × List ErrLoc) :=
  let l := s.mem.errs
  if l.length < 4096 then some (1280 + l.length, l)
  else if cls = 0 then none
  else (l.find? fun e => e.cls == 0).map fun e => (e.row, l.filter fun f => f.row != e.row)

/-- Logs one error location (R255): counter, record once per class, remap queue (R256; the repair's own reads of a row are neither
demand nor scrub reads). -/
def logErr (s : State) (rd : Reader) (a : Nat) (cls pos syn : Nat) (pass : Option Nat) : State :=
  let (source, unit, sec) := errUnit rd a
  let c := tget (0, 0, 0) s.mem.cnt sec
  let c' := if cls = 0 then (c.1 + 1, c.2.1, c.2.2) else if cls = 1 then (c.1, c.2.1 + 1, c.2.2)
    else (c.1, c.2.1, c.2.2 + 1)
  let s := modMem s fun m => { m with cnt := tput m.cnt sec c' }
  let s := if cls = 0 ∧ !isHbm a then tallyAdd s 1 dayNs 64 a false else s
  let s := if cls ≠ 0 ∧ isHbm a then tallyAdd s 9 (7 * dayNs) 1 (rowOf a) true else s
  let (s, q) := if isHbm a ∧ cls = 0 then ceCount s a pass else (s, cls != 0 && isHbm a)
  let (s, remap) := if q && rd.kind != 3 then remapEnq s (rowOf a) else (s, 0)
  match s.mem.errs.find? fun e => e.addr == a && e.cls == cls with
  | some e =>
    let old := recAt 256 ((fbRow s e.row).drop 32) 0
    let s := modMem s fun m => { m with errs := m.errs.map fun f =>
      if f.addr == a && f.cls == cls then { f with count := f.count + 1 } else f }
    let rm := if remap = 0 then fld old 41 40 else remap
    fbInPlace s e.row 1 1 (leBytes 32
      (setFld (setFld old 191 160 (min (e.count + 1) 0xFFFFFFFF)) 41 40 rm).toNat)
  | none =>
    let fl := match rd.ctx with | some x => (getCtx s x).fr.num.toNat | none => 0
    let body := memErrBody a 1 fl syn pos unit source cls remap rd.ctx
    match errSlot s cls with
    | none => if cls = 0 then s else fbAppend s 1 1 body
    | some (row, rest) =>
      let s := if cls = 0 ∧ isHbm a then tallyAdd s 0 dayNs 256 a false else s
      let s := modMem s fun m => { m with errs := rest ++ [⟨a, cls, 1, source, unit, row⟩] }
      let s := if fbEmpty s row then s else modHal s fun h => { h with fb := cclear h.fb (64 * row) 64 }
      fbInPlace s row 1 1 body

/-! ### Reads and writes -/

/-- A failing read: address and class (1 UE, 2 ADDR). -/
abbrev MemBad := Nat × Nat

/-- Class code of Table 6.12 and POS. -/
def clsCode : RdClass → Option (Nat × Nat)
  | .clean => none
  | .ce p => some (0, p)
  | .ue => some (1, 0xFF)
  | .addr => some (2, 0xFF)

/-- Class of a stored pattern at an address. -/
def patClass (a : Nat) (pat : List (Nat × Byte)) : RdClass := if isHbm a then lineClass pat else byteClass pat

/-- The bits by which the delivered bytes differ from what was written: the stored error, less the
correction of a CE (R243, R248). -/
def patError (a : Nat) (pat : List (Nat × Byte)) (j : Nat) : Byte :=
  if isHbm a then
    let e := pat.foldl (fun acc p => if p.1 = j + 8 then acc ^^^ p.2 else acc) 0
    match lineClass pat with
    | .ce p => if p = j + 8 then e ^^^ BitVec.ofNat 8 (lineSyn pat 0) else e
    | _ => e
  else
    let e := pat.foldl (fun acc p => if p.1 < 8 then acc ^^^ BitVec.ofNat 8 (2 ^ p.1) else acc) (0 : Byte)
    match byteClass pat with
    | .ce p => if p < 8 then e ^^^ BitVec.ofNat 8 (2 ^ p) else e
    | _ => e

/-- Stored locations in error that a read of [a, a + n) meets: lines in HBM, bytes elsewhere. -/
def upsetIn (s : State) (a n : Nat) : List (Nat × List (Nat × Byte)) :=
  s.mem.upset.filter fun u =>
    if isHbm u.1 then decide (u.1 < a + n) && decide (a < u.1 + 64)
    else decide (u.1 < a + n) && decide (a ≤ u.1)

/-- Locations that a read cannot deliver. -/
def failing (us : List (Nat × List (Nat × Byte))) : Nat :=
  (us.filter fun u => match patClass u.1 u.2 with | .ue => true | .addr => true | _ => false).length

/-- Logs what a read of one stored location finds, and remembers the first uncorrectable one. A byte of an on-chip structure is of
class ADDR only where no other byte of the same access failed (Table 6.9): `many` says that one did. -/
def readLoc (rd : Reader) (many : Bool) (r : State × Option MemBad) (u : Nat × List (Nat × Byte)) :
    State × Option MemBad :=
  match clsCode (patClass u.1 u.2) with
  | none => r
  | some (cls0, pos) =>
    let cls := if cls0 = 2 ∧ many ∧ !isHbm u.1 then 1 else cls0
    let syn := if isHbm u.1 then lineSynField u.2 else byteSyn u.2
    (logErr r.1 rd u.1 cls pos syn none, if cls = 0 ∨ r.2.isSome then r.2 else some (u.1, cls))

/-- Reads n bytes at a local physical address: corrected data, or the first uncorrectable location, which is noted for the
event of a stop (R250 to R252). -/
def memRead (s : State) (rd : Reader) (a n : Nat) : State × Except MemBad (List Byte) :=
  let us := upsetIn s a n
  let bs := cread s.mem.bytes a n
  if us.isEmpty then (s, .ok bs)
  else
    let (s, bad) := us.foldl (readLoc rd (decide (1 < failing us))) (s, none)
    match bad with
    | some b => (modMem s fun m => { m with lastUe := some (b.1, b.2, (errUnit rd b.1).1) }, .error b)
    | none => (s, .ok ((List.range n).map fun i =>
        us.foldl (fun b u =>
          let p := a + i
          if isHbm u.1 then (if u.1 ≤ p ∧ p < u.1 + 64 then b ^^^ patError u.1 u.2 (p - u.1) else b)
          else if u.1 = p then b ^^^ patError u.1 u.2 0 else b) (bs.getD i 0)))

/-- Whole lines of [a, a + n). -/
def wholeLines (a n : Nat) : List Nat :=
  let l0 := (a + 63) / 64
  (List.range ((a + n) / 64 - l0)).map fun i => 64 * (l0 + i)

/-- The CE counts of rows after a write of [a, a + n): a row all of whose sixteen lines have been written since its count began has
been written in full, by one write or several, and its count starts again (R256; DEDUCED, log 60). -/
def rowsWritten (m : Memory) (a n : Nat) : List (Nat × Nat × List Nat) :=
  m.rowCe.filterMap fun r =>
    let ls := (r.2.2 ++ (wholeLines a n).filter fun l => rowOf l == r.1).eraseDups
    if ls.length < 16 then some (r.1, r.2.1, ls) else none

/-- Writes bytes at a local physical address: the stored symbols are a codeword again (R245). -/
def memWrite (s : State) (a : Nat) (bs : List Byte) : State :=
  modMem s fun m => { m with
    bytes := cwrite m.bytes a bs
    upset := m.upset.filter fun u =>
      if isHbm u.1 then !(decide (a ≤ u.1) && decide (u.1 + 64 ≤ a + bs.length))
      else !(decide (a ≤ u.1) && decide (u.1 < a + bs.length))
    rowCe := if m.rowCe.isEmpty then [] else rowsWritten m a bs.length }

/-- Writes zeros with correct check bits over [a, a + n). -/
def memZero (s : State) (a n : Nat) : State :=
  modMem s fun m => { m with
    bytes := cclear m.bytes a n
    upset := m.upset.filter fun u => decide (u.1 < a) || decide (a + n ≤ u.1)
    rowCe := if m.rowCe.isEmpty then [] else rowsWritten m a n }

/-! ### Translation (R226, R161) -/

def Leaf.size (l : Leaf) : Nat := if l.big then 0x40000000 else 0x200000

/-- The leaf that maps a virtual address. -/
def findLeaf (ls : List Leaf) (va : Nat) : Option Leaf :=
  ls.find? fun l => decide (l.va ≤ va) && decide (va < l.va + l.size)

/-- Where an address reaches: a board address, and whether it may be written. -/
structure Xlat where
  addr : Nat
  wr   : Bool
  deriving DecidableEq, Repr

/-- Length in bytes of the retention range of a RET_WIN record. -/
def retLen (r : BitVec 512) : Nat := fld r 351 344 * fld r 343 336 * fld r 383 368 * 4096

/-- Is a virtual address in the retention range? -/
def inRet (r : BitVec 512) (va : Nat) : Bool :=
  decide (0 < fld r 351 344) && decide (fld r 511 448 ≤ va) && decide (va < fld r 511 448 + retLen r)

/-- Local physical address of a retention address (R161). -/
def retAddr (r : BitVec 512) (va : Nat) : Nat :=
  let o := va - fld r 511 448
  let sl := fld r 383 368 * 4096
  let i := o / sl
  if i < fld r 367 352 then dieBase 0 + fld r 447 432 * 4096 + i * sl + o % sl
  else dieBase 1 + fld r 415 400 * 4096 + (i - fld r 367 352) * sl + o % sl

/-- This package's board window. -/
def ownWindow (s : State) : Nat := s.pins.plane.val * 0x10000000000

/-- Translates a virtual address of a context under a captured RET_WIN (R164). -/
def xlate (s : State) (x : Ctx) (ret : BitVec 512) (va : Nat) : Option Xlat :=
  if va ≥ 2 ^ 48 then none
  else if inRet ret va then some ⟨ownWindow s + retAddr ret va, true⟩
  else (findLeaf x.maps va).map fun l => ⟨l.addr + (va - l.va), l.wr⟩

/-- Is a board address local? -/
def isLocal (s : State) (b : Nat) : Bool := b / 0x10000000000 == s.pins.plane.val

/-- Local physical part of a board address. -/
def localPart (b : Nat) : Nat := b % 0x10000000000

/-- Length of the part of [va, va + n) up to the next 4 KiB boundary: every mapping, retention slot and
2 MiB page is a whole number of them. -/
def chunkLen (va n : Nat) : Nat := min n (4096 - va % 4096)

/-- Splits [va, va + n) at 4 KiB boundaries, at most `fuel` parts. -/
def chunks : Nat → Nat → Nat → List (Nat × Nat)
  | 0, _, _ => []
  | fuel + 1, va, n => if n = 0 then [] else (va, chunkLen va n) :: chunks fuel (va + chunkLen va n) (n - chunkLen va n)

/-- All parts of a range. -/
def parts (va n : Nat) : List (Nat × Nat) := chunks (n / 4096 + 2) va n

/-- Does every page of [va, va + n) translate, locally or (with `peers`) to a peer, writable when `wr`?
Ranges are checked leaf by leaf. -/
def rangeOkGo (s : State) (x : Ctx) (ret : BitVec 512) (wr peers : Bool) : Nat → Nat → Nat → Bool
  | 0, _, n => n == 0
  | fuel + 1, va, n =>
    if n = 0 then true
    else match xlate s x ret va with
      | none => false
      | some t =>
        let k := if inRet ret va then chunkLen va n
          else match findLeaf x.maps va with
            | some l => min n (l.va + l.size - va)
            | none => n
        (t.wr || !wr) && (isLocal s t.addr || peers) && rangeOkGo s x ret wr peers fuel (va + k) (n - k)

/-- As `rangeOkGo`, with enough fuel for any range of a context's space. -/
def rangeOk (s : State) (x : Ctx) (ret : BitVec 512) (wr peers : Bool) (va n : Nat) : Bool :=
  rangeOkGo s x ret wr peers (n / 4096 + 2) va n

/-- Does every byte of [va, va + n) exist in its package (R221, R223)? -/
def bytesOk (s : State) (x : Ctx) (ret : BitVec 512) (va n : Nat) : Bool :=
  (parts va n).all fun p => match xlate s x ret p.1 with
    | some t => physOk (localPart t.addr) p.2
    | none => false

/-- The lines of the translation tables that a walk for a virtual address reads (R226, Table 6.2). -/
def walkLines (x : Ctx) (c va : Nat) : List Nat :=
  let l1 := 0x8FC4000000 + c * 0x200000 + va / 0x40000000 * 8 / 64 * 64
  match findLeaf x.maps va with
  | some l =>
    if l.big then [l1]
    else match x.tables.find? fun t => t.1 == va / 0x40000000 with
      | some t => [l1, 0x8FC5000000 + t.2 * 4096 + va / 0x200000 % 512 * 8 / 64 * 64]
      | none => [l1]
  | none => [l1]

/-- A walk over its lines; false where one is uncorrectable: Halyard writes that line again from its mapping
records (R251; log 52). -/
def walkGo (rd : Reader) : List Nat → State → State × Bool
  | [], s => (s, true)
  | l :: r, s =>
    match memRead s rd l 64 with
    | (s, .ok _) => walkGo rd r s
    | (s, .error _) => (memWrite s l (cread s.mem.bytes l 64), false)

/-- The walk of a context's own access outside its retention range. -/
def walk (s : State) (rd : Reader) (x : Ctx) (ret : BitVec 512) (va : Nat) : State × Bool :=
  match rd.ctx with
  | none => (s, true)
  | some c => if s.mem.upset.isEmpty || inRet ret va then (s, true) else walkGo rd (walkLines x c.val va) s

/-- Reads [va, va + n) of a context's virtual space from local memory, part by part. -/
def virtReadGo (rd : Reader) (x : Ctx) (ret : BitVec 512) :
    List (Nat × Nat) → State → State × Except Status (List Byte)
  | [], s => (s, .ok [])
  | (va, n) :: r, s =>
    match xlate s x ret va with
    | none => (s, .error stTranslation)
    | some t =>
      if !isLocal s t.addr || !physOk (localPart t.addr) n then (s, .error stTranslation)
      else match walk s rd x ret va with
        | (s, false) => (s, .error stMemUe)
        | (s, true) =>
          match memRead s rd (localPart t.addr) n with
          | (s, .error _) => (s, .error stMemUe)
          | (s, .ok bs) =>
            match virtReadGo rd x ret r s with
            | (s, .ok cs) => (s, .ok (bs ++ cs))
            | e => e

def virtRead (s : State) (rd : Reader) (x : Ctx) (ret : BitVec 512) (va n : Nat) :
    State × Except Status (List Byte) := virtReadGo rd x ret (parts va n) s

/-- Writes bytes at a virtual address of local memory; parts that do not translate are not written. -/
def virtWrite (s : State) (x : Ctx) (ret : BitVec 512) (va : Nat) (bs : List Byte) : State :=
  (parts va bs.length).foldl (fun s p =>
    match xlate s x ret p.1 with
    | none => s
    | some t =>
      if isLocal s t.addr && t.wr && physOk (localPart t.addr) p.2
      then memWrite s (localPart t.addr) ((bs.drop (p.1 - va)).take p.2) else s) s

/-! ### The write-combining stage (R235, R237, R240) -/

/-- The parts of bytes at an address, one per 64-byte line. -/
def lineParts : Nat → Nat → List Byte → List (Nat × List Byte)
  | 0, _, _ => []
  | fuel + 1, a, bs =>
    if bs.isEmpty then [] else (a, bs.take (64 - a % 64)) :: lineParts fuel (a + (64 - a % 64)) (bs.drop (64 - a % 64))

/-- All of them. -/
def byLines (a : Nat) (bs : List Byte) : List (Nat × List Byte) := lineParts (bs.length / 64 + 2) a bs

/-- A line's part that has come so far, with bytes laid from an offset on. -/
def layIn (l : PartLine) (off : Nat) (bs : List Byte) : PartLine :=
  l.take off ++ bs.map some ++ l.drop (off + bs.length)

/-- A line of which nothing has come. -/
def noBytes : PartLine := List.replicate 64 none

/-- The bytes of a line that has come whole. -/
def wholeLine (l : PartLine) : Option (List Byte) :=
  if l.all (·.isSome) then some (l.map fun b => b.getD 0) else none

/-- A part of one line enters a stage: the line, when it is whole, leaves it. -/
def combine (t : Tbl PartLine) (a : Nat) (bs : List Byte) : Tbl PartLine × Option (Nat × List Byte) :=
  let l := layIn (tget noBytes t (a / 64)) (a % 64) bs
  match wholeLine l with
  | some whole => (tdel t (a / 64), some (a / 64 * 64, whole))
  | none => (tput t (a / 64) l, none)

/-- Is the page of a virtual address in local HBM? -/
def inHbm (s : State) (x : Ctx) (ret : BitVec 512) (va : Nat) : Bool :=
  match xlate s x ret va with
  | some t => isLocal s t.addr && isHbm (localPart t.addr)
  | none => false

/-- Bytes for a virtual address of local memory, through a stage: HBM is written in whole lines only, other memory at once. -/
def stageWrite (s : State) (x : Ctx) (ret : BitVec 512) (t : Tbl PartLine) (va : Nat) (bs : List Byte) : State × Tbl PartLine :=
  (byLines va bs).foldl (fun r p =>
    if inHbm s x ret p.1 then
      match combine r.2 p.1 p.2 with
      | (t, some l) => (virtWrite r.1 x ret l.1 l.2, t)
      | (t, none) => (r.1, t)
    else (virtWrite r.1 x ret p.1 p.2, r.2)) (s, t)

/-- Does any part of [va, va + n) lie in HBM (local or of a peer)? -/
def touchesHbm (s : State) (x : Ctx) (ret : BitVec 512) (va n : Nat) : Bool :=
  (parts va n).any fun p => match xlate s x ret p.1 with
    | some t => isHbm (localPart t.addr)
    | none => false

end Sys2Proof.Machine
end

