-- ==== Sys2Proof/Machine/Ctx.lean ====
section
/-! DEFINITION. Context operations that several families share: stops, the landing of writes in flight,
entry into a context reset, tokens, credits and count registers, and the end of a reset. -/

namespace Sys2Proof.Machine

/-- PROG_ID of the active header. -/
def progId (x : Ctx) : Nat := fld x.prog.act.hdr 127 64

/-- Frame limit in beats of the active header (Table 2.1). -/
def frameLimit (x : Ctx) : Nat := 64 * (fld x.prog.act.hdr 159 147 + 1)

/-- Physical columns of a context, ascending. -/
def colsOf (x : Ctx) : List Nat := bitsOf 32 x.res.cols.toNat

/-- Do the columns lie on both dies (R32)? -/
def twoDie (x : Ctx) : Bool := (colsOf x).any (· < 16) && (colsOf x).any (· ≥ 16)

/-- Die of a physical tile. -/
def dieOf (t : Nat) : Nat := t / 128

/-! ### Context stops (R101) -/

/-- The CONTEXT_STOP event (Table 11.22), and its detail where it has one (log 56). -/
def stopEvent (s : State) (c : CtxId) (st : Status) (why : Why) : State :=
  let x := getCtx s c
  let s := if why = .plain then s else modHal s fun h => { h with stopNotes := ⟨c, x.fr.num, st, why⟩ :: h.stopNotes }
  raise s (ctxEvent c evContextStop (x.fr.num.toNat) (progId x) st.toNat x.fr.beats x.is.lastTag.toNat)

/-- The detail of a stop for the uncorrectable location read last (R252). -/
def ueWhy (s : State) : Why := { Why.plain with mem := s.mem.lastUe }

/-- A non-finite-result event (Table 11.22). -/
def nonfiniteEvent (s : State) (c : CtxId) (tile aset cause : Nat) (beats : Nat) (tag : BitVec 16) : State :=
  let x := getCtx s c
  raise s (ctxEvent c evNonfinite (x.fr.num.toNat + tile * 2 ^ 48 + aset * 2 ^ 56 + cause * 2 ^ 57) (progId x) 0
    beats tag.toNat)

/-! ### Landing (R66, R125, R532, R534) -/

/-- A write in flight to a tile store. -/
inductive Land where
  | mesh (m : MeshSend)
  | drain (d : DrainPend)
  deriving DecidableEq, Repr

/-- Order of landing: cycle, mesh before drain, ascending source tile (R532). -/
def Land.key : Land → Nat × Nat × Nat
  | .mesh m => (m.cycle, 0, m.src)
  | .drain d => (d.cycle, 1, d.tile)

def keyLe (a b : Nat × Nat × Nat) : Bool :=
  decide (a.1 < b.1) || (a.1 == b.1 && (decide (a.2.1 < b.2.1) || (a.2.1 == b.2.1 && decide (a.2.2 ≤ b.2.2))))

def insLand (l : Land) : List Land → List Land
  | [] => [l]
  | a :: r => if keyLe a.key l.key then a :: insLand l r else l :: a :: r

/-- A tile-store write recorded for the trace of the beat (R439): logical tile, cycle, address, bytes. -/
abbrev TWrite := Nat × Nat × Nat × List Byte

/-- Writes bytes at an address of a physical tile's store. -/
def tileWrite (s : State) (t addr : Nat) (bs : List Byte) : State := memWrite s (tileBase t + addr) bs

def setOf (t : Tile) (a : Nat) : ASet := if a = 0 then t.set0 else t.set1
def putSet (t : Tile) (a : Nat) (x : ASet) : Tile := if a = 0 then { t with set0 := x } else { t with set1 := x }

/-- A drain's last cycle: its bytes land, its set is free, its report is latched or its event raised (R125,
R128, R131). `logical` is the tile number of the report. -/
def landDrain (s : State) (c : CtxId) (d : DrainPend) : State :=
  let x := getCtx s c
  match physTile x d.tile with
  | none => s
  | some t =>
    let tl := getTile s t
    let st := setOf tl d.aset
    let still := x.is.drains.any fun e => e.tile == d.tile && e.aset == d.aset
    let s := setTile s t (putSet tl d.aset { st with held := still, tries := if d.replay then st.tries + 1 else st.tries })
    let s := if d.replay then s else d.writes.foldl (fun s w => tileWrite s t w.1 w.2) s
    let s := modCtx s c fun x => { x with
      fr := { x.fr with redrain := x.fr.redrain + BitVec.ofNat 32 d.redrains }
      is := if d.replay then { x.is with replays := x.is.replays ++ [{
          tile := d.tile, aset := d.aset, start := st.start, len := st.blk,
          due := d.cycle / 32 + (if twoDie x then 2 else 1), tag := d.tag, beats := d.beats,
          writes := d.writes }] } else x.is }
    match d.cause with
    | some k => if d.replay then s else nonfiniteEvent s c t d.aset k d.beats d.tag
    | none => s

/-- One landing, with the tile-store writes it makes. -/
def landOne (c : CtxId) (r : State × List TWrite) (l : Land) : State × List TWrite :=
  match l with
  | .mesh m =>
    match physTile (getCtx r.1 c) m.dst with
    | none => r
    | some t => (tileWrite r.1 t m.addr m.data, r.2 ++ [(m.dst, m.cycle % 32, m.addr, m.data)])
  | .drain d =>
    (landDrain r.1 c d, r.2 ++ (if d.replay then [] else d.writes.map fun w => (d.tile, d.cycle % 32, w.1, w.2)))

/-- Everything in flight that lands at or before a cycle, in order. -/
def landUntil (s : State) (c : CtxId) (cycle : Nat) : State × List TWrite :=
  let x := getCtx s c
  let ms := x.is.mesh.filter fun m => decide (m.cycle ≤ cycle)
  let ds := x.is.drains.filter fun d => decide (d.cycle ≤ cycle)
  if ms.isEmpty && ds.isEmpty then (s, [])
  else
    let s := modCtx s c fun x => modIs x fun i => { i with
      mesh := i.mesh.filter (fun m => decide (cycle < m.cycle))
      drains := i.drains.filter (fun d => decide (cycle < d.cycle)) }
    let ls := (ms.map Land.mesh ++ ds.map Land.drain).foldl (fun acc l => insLand l acc) []
    ls.foldl (landOne c) (s, [])

/-- A latched report that no replay follows: the result stands and its event carries NOT_REPLAYABLE (R534). -/
def dropReport (c : CtxId) (s : State) (r : Replay) : State :=
  match physTile (getCtx s c) r.tile with
  | none => s
  | some t =>
    let s := r.writes.foldl (fun s w => tileWrite s t w.1 w.2) s
    nonfiniteEvent s c t r.aset 1 r.beats r.tag

/-- Issue ends (R534): every write in flight lands, and reports latched since are discarded. A report latched in or before the
last issued beat that no replay has taken up is discarded in the same way, and a pass in progress ends without a result or an
event (DESIGN CHOICE, log 57). The fetch buffer is emptied. -/
def endIssue (s : State) (c : CtxId) : State :=
  let x := getCtx s c
  let last := x.is.mesh.foldl (fun a m => max a m.cycle) (x.is.drains.foldl (fun a d => max a d.cycle) 0)
  let s := (landUntil s c last).1
  let rs := (getCtx s c).is.replays
  let s := modCtx s c fun x => modIs x fun i => { i with replays := [], pass := none, fetchBuf := none }
  rs.foldl (dropReport c) s

/-! ### Context reset (R417 to R420) -/

/-- Station and context of a member of a collective (Table 9.3). -/
def mbrStation (k : CollSt) (r : Nat) : BitVec 24 := BitVec.ofNat 24 (fld (k.mbrs.getD r 0) 63 40)
def mbrCtx (k : CollSt) (r : Nat) : CtxId := Fin.ofNat 8 (fld (k.mbrs.getD r 0) 39 37)


/-- Grants owned by a context cleared (R263). -/
def clearGrants (s : State) (c : CtxId) : State :=
  modMem s fun m => { m with bwin := m.bwin.filter (fun g => !(bit g.2 0 && fld g.2 9 7 == c.val)) }

/-- CLOSE for each transfer of a context that is not acknowledged (Table 11.2, step 4), whose ACK entries are free from then on;
context-closed to the members of each collective in service (Table 11.3). -/
def closeRequests (s : State) (c : CtxId) (x : Ctx) : State :=
  x.queue.foldl (fun s q =>
    if q.phase = .queued then s
    else if q.cls = 6 then postAck s c (BitVec.ofNat 24 (fld q.desc 23 0)) (Fin.ofNat 8 (fld q.desc 76 74)) q.xfer (.close q.xfer)
    else match q.coll with
      | some k => (List.range k.n).foldl (fun s r =>
          if r = k.rank then s else postAck s c (mbrStation k r) (mbrCtx k r) 0 (.collNak k.hash k.seq 2)) s
      | none => s) s

/-- Open accumulator sets and transpose regions of the context's tiles dropped (Table 11.3). -/
def clearTiles (s : State) (x : Ctx) : State :=
  (List.range (nTiles x)).foldl (fun s lt => match physTile x lt with
    | some t => if (s.tiles.any fun p => p.1 == t) then { s with tiles := tdel s.tiles t } else s
    | none => s) s

/-- Is an update request in service between two quiesce points (R219)? -/
def midVector (q : SrvReq) : Bool := q.cls == 3 && q.phase == .serving && (q.vdone % 32 != 0 || q.ipos != 0)

/-- Entry into RESETTING (Table 11.2, steps 1 to 4): from here no beat of the context issues. Stops that were due raise their
events first. An update request between two quiesce points stays until the reset is done, which it reaches the next one before
(R219). -/
def enterReset (s : State) (c : CtxId) (info : ResetInfo) : State :=
  let s := (getCtx s c).is.stopDue.foldl (fun s d => stopEvent s c d.1 d.2) s
  let s := endIssue s c
  let x := getCtx s c
  let s := closeRequests s c x
  let s := clearGrants s c
  let r := some { info with frame := x.fr.num, startNs := s.clk.mastNs }
  let i := { x.is with stopReq := false, stopDue := [], reset := none }
  setCtx s c { x with run := .resetting, pend := 0, epoch := x.epoch + 1, queue := x.queue.filter midVector, groups := [], reset := r, is := i }

/-! ### Stops take effect (R101, Table 2.17) -/

/-- A context stop with its status. A context already stopped keeps its first status, and the further cause raises its own
event; a context that does not exist or is being reset has nothing to stop. Stops that were due at the next boundary follow at
once, and a reset that waited for the boundary is entered. -/
def stopCtxW (s : State) (c : CtxId) (st : Status) (why : Why) : State :=
  match (getCtx s c).run with
  | .none => s
  | .resetting => s
  | .stopped => stopEvent s c st why
  | _ =>
    let due := (getCtx s c).is.stopDue
    let s := modCtx (stopEvent s c st why) c fun x => { x with run := .stopped, stop := st, is := { x.is with stopDue := [] } }
    let s := endIssue (due.foldl (fun s d => stopEvent s c d.1 d.2) s) c
    match (getCtx s c).is.reset with
    | some info => enterReset s c info
    | none => s

/-- A stop without further detail. -/
def stopCtx (s : State) (c : CtxId) (st : Status) : State := stopCtxW s c st .plain

/-- A stop that Table 2.17 places at the next beat boundary: it waits for it while the context is RUNNING, and acts at once in
any other state. -/
def dueStopW (s : State) (c : CtxId) (st : Status) (why : Why) : State :=
  if (getCtx s c).run = .running then modCtx s c fun x => modIs x fun i => { i with stopDue := i.stopDue ++ [(st, why)] }
  else stopCtxW s c st why

def dueStop (s : State) (c : CtxId) (st : Status) : State := dueStopW s c st .plain

/-- The stops that are due, at the boundary: the first stops the context, the others raise their own events (R101). -/
def takeStops (s : State) (c : CtxId) : State :=
  match (getCtx s c).is.stopDue with
  | [] => s
  | d :: r => stopCtxW (modCtx s c fun x => modIs x fun i => { i with stopDue := r }) c d.1 d.2

/-! ### Tokens, credits, counts (R79 to R84) -/

/-- A token counter raised by n, or a stop at the next boundary (R80). -/
def raiseToken (s : State) (c : CtxId) (k n : Nat) : State :=
  let x := getCtx s c
  let v := (tget 0 x.tokens k).toNat + n
  if v > 65535 then dueStop s c stTokenOver
  else setCtx s c { x with tokens := tput x.tokens k (BitVec.ofNat 16 v) }

def setToken (s : State) (c : CtxId) (k n : Nat) : State :=
  modCtx s c fun x => { x with tokens := tput x.tokens k (BitVec.ofNat 16 n) }

def tokenVal (x : Ctx) (k : Nat) : Nat := (tget 0 x.tokens k).toNat

/-- Credits returned to a pool, or a stop at the next boundary (R82). -/
def returnCredit (s : State) (c : CtxId) (p n : Nat) : State :=
  let x := getCtx s c
  let v := (tget 0 x.value p).toNat + n
  if v > (tget 0 x.cap p).toNat then dueStop s c stCreditOver
  else setCtx s c { x with value := tput x.value p (BitVec.ofNat 16 v) }

def setCredit (s : State) (c : CtxId) (p cap v : Nat) : State :=
  modCtx s c fun x => { x with cap := (tput x.cap p (BitVec.ofNat 16 cap)), value := (tput x.value p (BitVec.ofNat 16 v)) }

def setCount (s : State) (c : CtxId) (n : Nat) (v : BitVec 32) : State :=
  modCtx s c fun x => { x with cnt := tput x.cnt n v }

def countVal (x : Ctx) (n : Nat) : Nat := (tget 0 x.cnt n).toNat

/-! ### Reset requests (R417) -/

/-- A reset request (R417): a RUNNING context enters at its next beat boundary, any other at once; while
RESETTING the request raises no second epoch (R420). -/
def requestReset (s : State) (c : CtxId) (info : ResetInfo) : State :=
  let x := getCtx s c
  match x.run with
  | .none => s
  | .resetting =>
    match x.reset with
    | some r => setCtx s c { x with reset := some { r with destroy := r.destroy || info.destroy } }
    | none => s
  | .running =>
    setCtx s c (modIs x fun i => { i with reset := some (match i.reset with
      | some r => { r with destroy := r.destroy || info.destroy }
      | none => info) })
  | _ => enterReset s c info

/-- The state of Table 11.4; the boundary count of R399 starts only at creation. -/
def reinit (x : Ctx) : Ctx :=
  { Ctx.init with
    run := .idle, epoch := x.epoch, res := x.res, prog := x.prog, lib := x.lib, maps := x.maps, tables := x.tables, drains := x.drains,
    expVa := x.expVa, expN := x.expN, applied := x.applied,
    is := { Issue.init with beatNo := x.is.beatNo, k := x.is.k } }

/-! ### Mapped pages and their zero-fill (R231) -/

/-- Pages that other contexts map, or that they have unmapped and requests still hold: a page reaches a second context only
after its zero-fill (R231; log 60). -/
def otherLeaves (s : State) (c : CtxId) : List Leaf :=
  (allCtxs.filter (· != c)).flatMap fun d => (getCtx s d).maps ++ (getCtx s d).drains.flatMap (·.leaves)

/-- Do two ranges overlap? -/
def overlap (a n b m : Nat) : Bool := decide (a < b + m) && decide (b < a + n)

/-- Is any byte of the leaf's page still mapped by one of the given leaves? -/
def stillMapped (ls : List Leaf) (l : Leaf) : Bool := ls.any fun k => overlap k.addr k.size l.addr l.size

/-- The 2 MiB pages of a leaf. -/
def subPages (l : Leaf) : List Leaf :=
  if l.big then (List.range 512).map fun i => ⟨l.va + i * 0x200000, l.addr + i * 0x200000, false, l.wr⟩ else [l]

/-- Zero-fill of the 2 MiB pages whose last mapping went: local HBM and die-store units (R231). -/
def zeroFill (s : State) (gone : List Leaf) : State :=
  let left := allCtxs.flatMap fun d => (getCtx s d).maps
  (gone.flatMap subPages).foldl (fun s l =>
    let a := localPart l.addr
    if isLocal s l.addr && !stillMapped left l && (isHbm a || (match place a with | some (.die ..) => true | _ => false))
    then memZero s a l.size else s) s

/-! ### Translation tables (R226 to R228, Tables 6.2 and 6.4) -/

/-- An `XPTE` in use: board address, WR and TYPE (0 pointer, 1 leaf of 2 MiB, 2 leaf of 1 GiB). -/
def xpte (b : Nat) (wr : Bool) (typ : Nat) : BitVec 64 := BitVec.ofNat 64 (b + b2n wr * 16 + typ * 2 + 1)

/-- Local physical addresses of the entries of a context's level-1 table and of a level-2 table of the pool. -/
def l1Entry (c va : Nat) : Nat := 0x8FC4000000 + c * 0x200000 + va / 0x40000000 * 8
def l2Entry (t va : Nat) : Nat := 0x8FC5000000 + t * 4096 + va / 0x200000 % 512 * 8

/-- Halyard writes an entry: the whole line, from its own records. -/
def putEntry (s : State) (a : Nat) (e : BitVec 64) : State :=
  let l := a / 64 * 64
  let old := cread s.mem.bytes l 64
  memWrite s l (old.take (a - l) ++ leBytes 8 e.toNat ++ old.drop (a - l + 8))

/-- Tables of the pool that no context holds. -/
def freeTables (s : State) : List Nat :=
  (List.range 16384).filter fun t => !(allCtxs.any fun c => (getCtx s c).tables.any fun p => p.2 == t)

/-- The level-2 table for a virtual address: the one held, or one that Halyard takes from the pool, where the manual leaves the
choice open (log 60). -/
def takeTable (s : State) (c : CtxId) (va : Nat) : State × Nat :=
  match (getCtx s c).tables.find? fun t => t.1 == va / 0x40000000 with
  | some t => (s, t.2)
  | none =>
    let (r, s) := drawNat s
    let free := freeTables s
    let t := free.getD (r % free.length) 0
    let s := putEntry s (l1Entry c.val va) (xpte (ownWindow s + 0x8FC5000000 + t * 4096) false 0)
    (modCtx s c fun x => { x with tables := x.tables ++ [(va / 0x40000000, t)] }, t)

/-- A page enters the context's mapping: Halyard's record and the entry of its table. -/
def addLeaf (c : CtxId) (s : State) (l : Leaf) : State :=
  let s := modCtx s c fun x => { x with maps := x.maps ++ [l] }
  if l.big then putEntry s (l1Entry c.val l.va) (xpte l.addr l.wr 2)
  else
    let (s, t) := takeTable s c l.va
    putEntry s (l2Entry t l.va) (xpte l.addr l.wr 1)

/-- A page leaves it; a table without a valid entry returns to the pool. -/
def dropLeaf (c : CtxId) (s : State) (l : Leaf) : State :=
  let s := modCtx s c fun x => { x with maps := x.maps.filter (· != l) }
  if l.big then putEntry s (l1Entry c.val l.va) 0
  else
    let x := getCtx s c
    match x.tables.find? fun t => t.1 == l.va / 0x40000000 with
    | none => s
    | some t =>
      let s := putEntry s (l2Entry t.2 l.va) 0
      if x.maps.any fun m => !m.big && m.va / 0x40000000 == t.1 then s
      else putEntry (modCtx s c fun x => { x with tables := x.tables.filter (· != t) }) (l1Entry c.val l.va) 0

/-- Every page leaves. -/
def dropAll (s : State) (c : CtxId) : State := (getCtx s c).maps.foldl (dropLeaf c) s

/-- Ends a context: mappings removed under R231, columns and die-store units zeroed, resources released
(R416). -/
def destroyCtx (s : State) (c : CtxId) : State :=
  let x := getCtx s c
  let s := setCtx (clearGrants (dropAll s c) c) c { Ctx.init with run := .none }
  let s := zeroFill s (x.maps ++ x.drains.flatMap (·.leaves))
  let s := (List.range (nTiles x)).foldl (fun s lt => match physTile x lt with
    | some t => memZero s (tileBase t) tileSize | none => s) s
  let s := (bitsOf 96 x.res.ds.toNat).foldl (fun s u =>
    memZero s (dieBase (u / 48) + (u % 48) * 0x200000) 0x200000) s
  { s with ctxs := tdel s.ctxs c.val }

end Sys2Proof.Machine
end

