-- ==== Sys2Proof/Machine/Mailbox.lean ====
section
/-! DEFINITION. The Halyard mailbox: posting, the order of checks, answers (12.3), and the checks of payload
fields. Each mailbox command is a row of Table 12.10 given as a `Cmd` with a body. -/

namespace Sys2Proof.Machine

/-- The "Context state" column of Table 12.10. -/
inductive Need where
  | any | exists_ | absent | idle | running | idleOrRunning | live
  deriving DecidableEq, Repr

/-- A row of Table 12.10: opcode, payload length, "Own", required state of the target context. -/
structure Cmd where
  op   : Nat
  len  : Nat
  own  : Bool
  need : Need
  deriving DecidableEq, Repr

/-- Every opcode of Table 12.10. -/
def knownOps : List Nat :=
  [0x0101, 0x0102, 0x0103, 0x0104, 0x0105, 0x0106, 0x0107, 0x0201, 0x0202, 0x0203, 0x0204, 0x0205, 0x0206,
   0x0301, 0x0302, 0x0303, 0x0304, 0x0305, 0x0306, 0x0401, 0x0402, 0x0403, 0x0404, 0x0405, 0x0406,
   0x0501, 0x0502, 0x0503, 0x0504, 0x0505, 0x0506, 0x0507, 0x0508, 0x0601, 0x0602, 0x0603, 0x0701,
   0x0801, 0x0802, 0x0803, 0x0804, 0x0805, 0x0806, 0x0901, 0x0902, 0x0903, 0x0A01, 0x0A02,
   0x0B01, 0x0B02, 0x0B03, 0x0B04, 0x0C01, 0x0C02]

/-- An answer: status, DETAIL, response payload. -/
structure Ans where
  st     : Status
  detail : Nat
  pay    : List Byte
  deriving DecidableEq, Repr

def noField : Nat := 0xFFFFFFFF
def Ans.ok : Ans := ⟨stOk, noField, []⟩
def Ans.pay_ (bs : List Byte) : Ans := ⟨stOk, noField, bs⟩
def Ans.fail (st : Status) (detail : Nat) : Ans := ⟨st, detail, []⟩
/-- A failing field of a referenced record or image (Table 12.9). -/
def Ans.failRec (st : Status) (pos : Nat) : Ans := ⟨st, 2 ^ 31 + pos, []⟩

/-- How a command ends: answered at once, or waiting. -/
inductive Reply where
  | now (a : Ans)
  | later (w : Wait)
  deriving DecidableEq, Repr

/-- The body of a command: state, issuing function, target context, payload bytes. -/
abbrev Body := State → CtxId → CtxId → List Byte → State × Reply

/-! ### Package state (R427, R480, R481, R488, R489) -/

/-- Groups served in OUT_OF_SERVICE: fences, telemetry, diagnostics, firmware, attestation, cartridge,
retrieval (log 20). -/
def oosGroup (op : Nat) : Bool := decide (6 ≤ op / 256) && decide (op / 256 ≤ 12)

/-- Is the opcode served in this package state? -/
def opServed (s : State) (op : Nat) : Bool :=
  if s.pkg.romService then op == 0x0901 || op == 0x0902 || op == 0x0903
  else if s.pkg.state = 3 then oosGroup op
  else if s.pkg.state = 0 then oosGroup op && op != 0x0806
  else true

/-- Is a post of function n taken: PCIe up, the function enabled, a server present (R489)? -/
def mbxReached (s : State) (n : CtxId) : Bool :=
  s.pkg.linkUp && s.pins.perstN && decide (n.val ≤ s.pkg.numVfs.val) && (s.pkg.romService || s.pkg.halyardUp)

/-- Is it served: by the boot ROM only the PF's, by Halyard while it does not restart (R428, R488, R489)? -/
def mbxServed (s : State) (n : CtxId) : Bool :=
  mbxReached s n && (if s.pkg.romService then n == 0 else !restarting s)

/-! ### Header and state checks (R454, R457) -/

def hdrOp (h : BitVec 128) : Nat := fld h 15 0
def hdrSeq (h : BitVec 128) : Nat := fld h 63 32
def hdrLen (h : BitVec 128) : Nat := fld h 95 64

/-- The target context: CTX with CTX_EN = 1, else the function's own. -/
def hdrCtx (n : CtxId) (h : BitVec 128) : CtxId := if bit h 27 then Fin.ofNat 8 (fld h 26 24) else n

/-- Is a reserved header bit set? CTX without CTX_EN counts as one (log 21). -/
def hdrReserved (h : BitVec 128) : Bool :=
  fld h 127 96 != 0 || fld h 31 28 != 0 || fld h 23 16 != 0 || (!bit h 27 && fld h 26 24 != 0)

/-- The "Context state" check: no-context or context-state. -/
def needFail (need : Need) (run : RunState) : Option Status :=
  match need with
  | .any => none
  | .absent => if run = .none then none else some stCtxState
  | .exists_ => if run = .none then some stNoContext else none
  | .idle => if run = .none then some stNoContext else if run = .idle then none else some stCtxState
  | .running => if run = .none then some stNoContext else if run = .running then none else some stCtxState
  | .idleOrRunning =>
    if run = .none then some stNoContext
    else if run = .idle ∨ run = .running then none else some stCtxState
  | .live => if run = .none then some stNoContext else if run = .resetting then some stCtxState else none

/-- Steps 1 to 7 of R454 for a known opcode. -/
def checkReq (s : State) (n : CtxId) (cmd : Cmd) (h : BitVec 128) : Option Status :=
  if hdrSeq h ≠ (getFn s n).post.toNat then some stSequence
  else if hdrReserved h then some stReserved
  else if hdrLen h ≠ cmd.len then some stLength
  else if n ≠ 0 ∧ (!cmd.own ∨ bit h 27) then some stNotPermitted
  else if !opServed s cmd.op then some stOutOfService
  else needFail cmd.need (getCtx s (hdrCtx n h)).run

/-! ### Answers (R451, R453, R460) -/

/-- Writes a response, then MBX_DONE, then signals vector 0. -/
def answerHdr (s : State) (n : CtxId) (h : BitVec 128) (a : Ans) : State :=
  let f := getFn s n
  let hd := leBytes 16 (a.detail * 2 ^ 96 + a.pay.length * 2 ^ 64 + hdrSeq h * 2 ^ 32 + a.st.toNat * 2 ^ 16 + hdrOp h)
  msixSignal (setFn s n { f with resp := hd ++ a.pay, done := f.post, busy := none }) n 0

/-- Answers the outstanding command of a function. -/
def answer (s : State) (n : CtxId) (a : Ans) : State := answerHdr s n (recAt 128 (getFn s n).req 0) a

/-- Answers a function, if its command waits as given. -/
def answerTo (s : State) (n : Option CtxId) (w : Wait) (a : Ans) : State :=
  match n with
  | none => s
  | some k => if (getFn s k).busy = some w then answer s k a else s

/-- The unmaps of a function whose command has ended: their drains go on and no answer is due (R458). -/
def lateDrains (s : State) (n : CtxId) : State :=
  allCtxs.foldl (fun s c =>
    if (getCtx s c).drains.any fun d => d.fn == n && !d.late then
      modCtx s c fun x => { x with drains := x.drains.map fun d => if d.fn = n then { d with late := true } else d }
    else s) s

/-- Executes the posted request of function n as this command. -/
def execReq (cmd : Cmd) (body : Body) (s : State) (n : CtxId) : State :=
  let f := getFn s n
  let h := recAt 128 f.req 0
  match checkReq s n cmd h with
  | some st => answer s n (.fail st noField)
  | none =>
    let p := (f.req.drop 16).take cmd.len
    match body s n (hdrCtx n h) (p ++ List.replicate (cmd.len - p.length) 0) with
    | (s, .now a) => answer s n a
    | (s, .later w) => modFn s n fun f => { f with busy := some w }

/-- Bytes laid over a buffer from its start. -/
def overlay (buf bs : List Byte) : List Byte := bs ++ buf.drop bs.length

/-- A posted request with an opcode that Table 12.10 lacks is answered; any other waits for its row. -/
def answerUnknown (s : State) (n : CtxId) : State :=
  let f := getFn s n
  let h := recAt 128 f.req 0
  if f.busy ≠ some .posted ∨ knownOps.contains (hdrOp h) ∨ !mbxServed s n then s
  else answer s n (.fail (if hdrSeq h ≠ f.post.toNat then stSequence else if hdrReserved h then stReserved else stUnknownOp) noField)

/-- A write of MBX_POST that is not ignored (R452). -/
def postSeq (s : State) (n : CtxId) (v : BitVec 32) : State :=
  answerUnknown (modFn s n fun f => { f with post := v, busy := some .posted }) n

/-- Begins the posted request of function n when it is this command and a server takes it. -/
def beginReq (cmd : Cmd) (body : Body) (s : State) (n : CtxId) : State :=
  let f := getFn s n
  if f.busy = some .posted ∧ mbxServed s n ∧ hdrOp (recAt 128 f.req 0) = cmd.op then execReq cmd body s n else s

/-- A mailbox command (R451, R452). With no command outstanding the row is the whole post: request written, then MBX_POST, whose write
is ignored when the value equals MBX_DONE. With a command posted and not begun the row begins that one. In any other case
request and post are lost. -/
def mailbox (cmd : Cmd) (body : Body) (r : Req) (s : State) : State :=
  let n := r.fn
  if !mbxReached s n then s
  else match (getFn s n).busy with
    | some _ => beginReq cmd body s n
    | none =>
      let s := modFn s n fun f => { f with req := overlay f.req (leBytes 16 r.header.toNat ++ r.payload) }
      if r.post = (getFn s n).done then s else beginReq cmd body (postSeq s n r.post) n

/-! ### Payload fields (R17, R25, R453) -/

/-- A field of bytes at an offset, as a number. -/
def pf (p : List Byte) (off n : Nat) : Nat := leNat ((p.drop off).take n)

/-- One check: bit position of its field, whether it fails, status. -/
abbrev Chk := Nat × Bool × Status

/-- Reserved bytes [a, b) of a payload. -/
def rsv (p : List Byte) (a b : Nat) : Chk := (8 * a, pf p a (b - a) != 0, stReserved)

/-- A field check failing with field-invalid. -/
def bad (off : Nat) (b : Bool) : Chk := (8 * off, b, stField)

/-- The first failing check, as an answer. -/
def firstBad (cs : List Chk) : Option Ans := (cs.find? fun c => c.2.1).map fun c => .fail c.2.2 c.1

/-- Runs a body after its checks. -/
def checked (s : State) (cs : List Chk) (k : State × Reply) : State × Reply :=
  match firstBad cs with
  | some a => (s, .now a)
  | none => k

/-- Reads a host buffer whole (R455). -/
def hostRead (s : State) (a n : Nat) : Option (List Byte) :=
  if hostOk s a n then some (creadD Config.hostByte s.host a n) else none

/-- Writes a host buffer, or nothing. -/
def hostWriteTo (s : State) (a : Nat) (bs : List Byte) : Option State :=
  if hostOk s a bs.length then some { s with host := hwrite s.host a bs } else none

def unit (s : State) (a : Ans) : State × Reply := (s, .now a)

/-- Result of a total meaning. -/
abbrev Res_ := Host.Outcome State Fault Refusal

end Sys2Proof.Machine
end

