-- ==== Sys2Proof/Machine/Server.lean ====
section
/-! DEFINITION. What every server request shares: its place in the queue, the credits and descriptor with which
service starts, its completion or failure, and the trace records (R68 to R73, R438 to R441). -/

namespace Sys2Proof.Machine

/-! ### Slot word fields (Tables 2.4 and 2.11) -/

def swClass (w : BitVec 128) : Nat := fld w 127 124
def swBcast (w : BitVec 128) : Nat := fld w 123 121
def swRep (w : BitVec 128) : Bool := bit w 120
def swTarget (w : BitVec 128) : Nat := fld w 119 108
def swDoneTok (w : BitVec 128) : Nat := fld w 107 98
def swDoneEn (w : BitVec 128) : Bool := bit w 97
def swCpool (w : BitVec 128) : Nat := fld w 95 88
def swCtake (w : BitVec 128) : Nat := fld w 87 80
def swIstride (w : BitVec 128) : Nat := fld w 79 64
def swDescVa (w : BitVec 128) : Nat := fld w 47 0

/-! ### Trace (R438 to R441) -/

/-- Is frame number f traced? -/
def traced (x : Ctx) (f : Nat) : Bool := x.trace.on && decide (x.trace.first ≤ f) && decide (f ≤ x.trace.last)

/-- Writes one 64-byte record as a whole line of the buffer; the write that fills it ends tracing. -/
def traceWrite (s : State) (c : CtxId) (rec_ : List Byte) : State :=
  let x := getCtx s c
  if !x.trace.on then s
  else
    let s := virtWrite s x x.ret.act (x.trace.buf + x.trace.wptr) rec_
    let w := x.trace.wptr + 64
    if w < x.trace.len then setCtx s c { x with trace := { x.trace with wptr := w } }
    else
      let s := setCtx s c { x with trace := { x.trace with wptr := w, on := false, full := true } }
      raise s (ctxEvent c evTraceFull x.fr.num.toNat x.trace.len 0 0 0)

/-- Insertion of an address range by start. -/
def insRange (r : Nat × Nat) : List (Nat × Nat) → List (Nat × Nat)
  | [] => [r]
  | a :: l => if a.1 ≤ r.1 then a :: insRange r l else r :: a :: l

/-- Bytes written by a request, read back in ascending virtual address. -/
def readBack (s : State) (x : Ctx) (q : SrvReq) : List Byte :=
  (q.written.foldl (fun acc r => insRange r acc) []).flatMap fun r =>
    match (virtRead s ⟨0, none⟩ x q.ret r.1 r.2).2 with
    | .ok bs => bs
    | .error _ => []

/-- Insertion of a count register write by register number. -/
def insCount (r : Nat × BitVec 32) : List (Nat × BitVec 32) → List (Nat × BitVec 32)
  | [] => [r]
  | a :: l => if a.1 ≤ r.1 then a :: insCount r l else r :: a :: l

/-- The completion record of a request (Table 11.20), when its issuing frame is traced with server records.
SERVICE_CYCLES is a free value: the model keeps no cycle count of a service (log 1). -/
def traceSrv (s : State) (c : CtxId) (q : SrvReq) (st : Status) : State :=
  let x := getCtx s c
  if !(traced x q.frame.toNat && x.trace.server) then s
  else
    let (cyc, s) := drawNat s
    let bytes := (q.written.map (·.2)).sum
    let crcD := if q.written.isEmpty then 0 else (crc32c (readBack s x q)).toNat
    let cnts := q.counts.foldl (fun acc r => insCount r acc) []
    let crcC := if q.cls = 4 then (crc32c (cnts.flatMap fun r => leBytes 4 r.2.toNat)).toNat else 0
    traceWrite s c (leBytes 64 (2 * 2 ^ 508 + q.cls * 2 ^ 504 + q.frame.toNat * 2 ^ 456 + q.issueIdx % 2 ^ 32 * 2 ^ 424
      + q.slot % 256 * 2 ^ 416 + swTarget q.sw * 2 ^ 404 + st.toNat * 2 ^ 388 + crcD * 2 ^ 352 + bytes % 2 ^ 64 * 2 ^ 288
      + crcC * 2 ^ 256 + s.clk.mastNs % 2 ^ 48 * 2 ^ 208 + cyc % 2 ^ 32 * 2 ^ 176))

/-! ### The queue of a unit -/

/-- Requests of one unit, oldest first. -/
def unitQueue (x : Ctx) (cls u : Nat) : List SrvReq := x.queue.filter fun q => q.cls == cls && q.unit == u

/-- Is p the entry of request q? -/
def sameReq (q p : SrvReq) : Bool := p.id == q.id && p.cls == q.cls && p.unit == q.unit

/-- The first entry that satisfies a test replaced, or removed. -/
def editReq (hit : SrvReq → Bool) (f : SrvReq → Option SrvReq) : List SrvReq → List SrvReq
  | [] => []
  | q :: r => if hit q then (match f q with | some q' => q' :: r | none => r) else q :: editReq hit f r

/-- Replaces the entry of a request. -/
def putHead (s : State) (c : CtxId) (q : SrvReq) : State :=
  modCtx s c fun x => { x with queue := editReq (sameReq q) (fun _ => some q) x.queue }

/-- Removes the entry of a request. -/
def popHead (s : State) (c : CtxId) (q : SrvReq) : State :=
  modCtx s c fun x => { x with queue := editReq (sameReq q) (fun _ => none) x.queue }

/-- The event of a reduction that has written non-finite elements, whether it completes or fails (R367, Table 11.22). -/
def collNonfinite (s : State) (c : CtxId) (q : SrvReq) : State :=
  let x := getCtx s c
  if q.cls ≠ 5 ∨ q.nonfin = 0 then s
  else raise s (ctxEvent c evCollNonfinite (x.fr.num.toNat + q.unit * 2 ^ 48) (progId x) 0 q.nonfin q.tag.toNat)

/-- A request fails: no token, the context stops with the status at the next boundary (R73, Table 2.17). -/
def failHeadW (s : State) (c : CtxId) (q : SrvReq) (st : Status) (why : Why) : State :=
  dueStopW (popHead (traceSrv (collNonfinite s c q) c q st) c q) c st why

/-- A failure by the status alone; an uncorrectable read keeps its location (R252). -/
def failHead (s : State) (c : CtxId) (q : SrvReq) (st : Status) : State :=
  failHeadW s c q st (if st = stMemUe then ueWhy s else .plain)

/-- A request completes: its record, its place in the queue freed, DONE_TOKEN raised (R68, R80). -/
def finishHead (s : State) (c : CtxId) (q : SrvReq) : State :=
  let s := popHead (traceSrv s c q 0) c q
  if swDoneEn q.sw then raiseToken s c (swDoneTok q.sw) 1 else s

/-- Do servers take requests of the context: it exists, is not being reset, and compute runs (Table 2.2)? -/
def srvRuns (s : State) (c : CtxId) : Bool :=
  let r := (getCtx s c).run
  r != .none && r != .resetting && !s.pkg.computeReset

/-- The head of a unit's queue in the given phase. -/
def headIn (s : State) (c : CtxId) (cls u : Nat) (ph : Phase) : Option SrvReq :=
  match unitQueue (getCtx s c) cls u with
  | q :: _ => if q.phase = ph then some q else none
  | [] => none

/-- How the start of a head request comes out before its class's own checks. -/
inductive Start where
  | idle                              -- nothing to start, or the request waits for credits
  | bad (s : State) (q : SrvReq) (st : Status)
  | go (s : State) (q : SrvReq)       -- descriptor read; credits suffice and are not yet taken
  deriving DecidableEq, Repr

/-- Is a COLL descriptor an ALL_GATHER in PINNED mode (Table 9.4, R188)? -/
def pinnedDesc (d : BitVec 512) : Bool := fld d 63 60 == 3 && fld d 34 33 == 3

/-- Collectives of one context that move data in service at one engine (R371). -/
def collInService (x : Ctx) (e : Nat) : Nat :=
  (x.queue.filter fun q => q.cls == 5 && q.unit == e && q.phase != .queued && !pinnedDesc q.desc).length

/-- The descriptor of a waiting request as memory holds it. -/
def peekDesc (s : State) (c : CtxId) (q : SrvReq) : BitVec 512 :=
  match (virtRead s ⟨0, none⟩ (getCtx s c) q.ret q.va 64).2 with
  | .ok bs => recAt 512 bs 0
  | .error _ => 0

/-- ACK entries of a link engine that are in use: one per transfer in service (R322). -/
def ackInUse (s : State) (e : Nat) : Nat :=
  (allCtxs.map fun c => ((getCtx s c).queue.filter fun q => q.cls == 6 && q.unit == e && q.phase != .queued).length).sum

/-- The request that stands at the head of a unit's queue and waits to start: the first of the queue; at a link engine the
first that waits, once the last byte of every one before it has left and an ACK entry is free (DEDUCED from the 1,024 entries of
R322, log 32); at a collective engine the first that waits while fewer than four are in service, or a PINNED one, which takes
no such place (R188, R371). -/
def waiting (s : State) (c : CtxId) (cls u : Nat) : Option SrvReq :=
  let x := getCtx s c
  let qs := unitQueue x cls u
  let w := qs.find? fun q => q.phase == .queued
  if cls = 6 then (if (qs.any fun q => q.phase != .queued && !q.sentAll) || decide (ackInUse s u ≥ 1024) then none else w)
  else if cls = 5 then
    (if collInService x u < 4 then w else w.filter fun q => pinnedDesc (peekDesc s c q))
  else headIn s c cls u .queued

/-- May the head of a context start at a shared engine: its pool covers CTAKE, or CAP does not and it fails (R72)? -/
def mayStart (s : State) (c : CtxId) (cls u : Nat) : Bool :=
  srvRuns s c && match waiting s c cls u with
    | none => false
    | some q =>
      let x := getCtx s c
      let n := swCtake q.sw
      decide (n ≤ (tget 0 x.value (swCpool q.sw)).toNat) || decide (n > (tget 0 x.cap (swCpool q.sw)).toNat)

/-- The context whose turn it is at a shared engine: in ascending number after the one served last, among those whose head
may start (R72). -/
def turnOf (s : State) (cls u : Nat) : Option CtxId :=
  let last := tget 0 s.turns (16 * cls + u)
  let order := allCtxs.drop last ++ allCtxs.take last
  order.find? fun c => mayStart s c cls u

/-- Is it the context's turn? A mover and an update unit serve one context alone. -/
def turnOk (s : State) (c : CtxId) (cls u : Nat) : Bool := decide (cls < 4) || turnOf s cls u == some c

/-- Notes the context a shared engine has served last. -/
def noteTurn (s : State) (c : CtxId) (q : SrvReq) : State :=
  if q.cls < 4 then s else { s with turns := tput s.turns (16 * q.cls + q.unit) (c.val + 1) }

/-- Takes a request into service as far as R72 and the descriptor read: CTAKE against CAP, VALUE against CTAKE, what the
class checks of the descriptor's address (`pre`), its page, its 64 bytes. -/
def startReq (pre : State → CtxId → SrvReq → Option Status) (s : State) (c : CtxId) (r : Option SrvReq) : Start :=
  match r with
  | none => .idle
  | some q =>
    let x := getCtx s c
    let p := swCpool q.sw
    let n := swCtake q.sw
    let s := noteTurn s c q
    if n > (tget 0 x.cap p).toNat then .bad s q stWindow
    else if n > (tget 0 x.value p).toNat then .idle
    else match pre s c q with
    | some st => .bad s q st
    | none => match virtRead s ⟨0, some c⟩ x q.ret q.va 64 with
      | (s, .error st) => .bad s q st
      | (s, .ok bs) => .go s { q with desc := recAt 512 bs 0 }

/-- No check before the descriptor is read. -/
def noPre (_ : State) (_ : CtxId) (_ : SrvReq) : Option Status := none

/-- Takes the head of a unit's queue into service, in the context's turn. -/
def startHead (pre : State → CtxId → SrvReq → Option Status) (s : State) (c : CtxId) (cls u : Nat) : Start :=
  if !srvRuns s c || !turnOk s c cls u then .idle else startReq pre s c (waiting s c cls u)

/-- A waiting head whose CTAKE its pool's CAP no longer covers (R72). -/
def overCap (s : State) (c : CtxId) : Option SrvReq :=
  let x := getCtx s c
  x.queue.find? fun q => decide (swCtake q.sw > (tget 0 x.cap (swCpool q.sw)).toNat) && waiting s c q.cls q.unit == some q

/-- Such heads fail at once, at most `n` of them. -/
def capFail (c : CtxId) : Nat → State → State
  | 0, s => s
  | n + 1, s => match overCap s c with
    | none => s
    | some q => capFail c n (failHead s c q stWindow)

/-- Takes the credits of a request and marks it as in service (R72). -/
def takeCredits (s : State) (c : CtxId) (q : SrvReq) : State :=
  let p := swCpool q.sw
  let s := modCtx s c fun x => { x with value := (tput x.value p (tget 0 x.value p - BitVec.ofNat 16 (swCtake q.sw))) }
  putHead s c { q with phase := .serving }

/-- The first failing check of a descriptor: its status. -/
def firstSt (cs : List Chk) : Option Status := (cs.find? fun c => c.2.1).map fun c => c.2.2

/-- Serves a request that `startReq` took: `own` says whether the descriptor is of this row's kind, `check` gives the first failing
descriptor check, `spans` the virtual ranges it holds from then on (R230), `work` does the request's work after the credits are
taken. -/
def serveReq (own : BitVec 512 → Bool) (check : State → CtxId → SrvReq → State × Option Status)
    (spans : State → CtxId → SrvReq → List (Nat × Nat)) (work : State → CtxId → SrvReq → State) (s : State) (c : CtxId) : Start → State
  | .idle => s
  | .bad s q st => failHead s c q st
  | .go s1 q =>
    if !own q.desc then s
    else match check s1 c q with
      | (s, some st) => failHead s c q st
      | (s, none) =>
        let q := { q with phase := .serving, holds := spans s c q }
        work (takeCredits s c q) c q

/-- Starts the head request of a unit. -/
def serve (cls u : Nat) (own : BitVec 512 → Bool) (check : State → CtxId → SrvReq → State × Option Status)
    (spans : State → CtxId → SrvReq → List (Nat × Nat)) (work : State → CtxId → SrvReq → State) (s : State) (c : CtxId) : State :=
  serveReq own check spans work s c (startHead noPre s c cls u)

/-- Every request of a context that satisfies a test fails with a status; each is a stop of its own at the next boundary. -/
def failAll (s : State) (c : CtxId) (hit : SrvReq → Bool) (st : Status) : State :=
  let qs := (getCtx s c).queue.filter hit
  let s := qs.foldl (fun s q => traceSrv (collNonfinite s c q) c q st) s
  let s := if qs.isEmpty then s else modCtx s c fun x => { x with queue := x.queue.filter fun q => !hit q }
  qs.foldl (fun s _ => dueStop s c st) s

end Sys2Proof.Machine
end

