-- ==== Sys2Proof/Machine/FabBase.lean ====
section
/-! DEFINITION. The active plan's records, lanes and their loops, ports going down, plan-time parents, the output
queues with credits, and the fence: what the optics, plan and fabric commands share (chapters 7 and 8). -/

namespace Sys2Proof.Machine

/-! ### Plan records (Tables 8.4, 8.5, 8.8, 8.9, 8.12, 8.13) -/

def planSize : Nat := 297984

def phHash (h : BitVec 512) : Nat := fld h 511 448
def phStation (h : BitVec 512) : Nat := fld h 447 424
def phKey (h : BitVec 512) : Nat := fld h 423 412
def phShape (h : BitVec 512) : Nat := fld h 411 410
def phPeriod (h : BitVec 512) : Nat := fld h 409 390 + 1
def phTime (h : BitVec 512) : Nat := fld h 389 386
def phTime2 (h : BitVec 512) : Nat := fld h 385 382
def phDateline (h : BitVec 512) : Nat := fld h 381 376
def phPresent (h : BitVec 512) (p : Nat) : Bool := bit h (361 + p) && decide (p < 15)
def phRequired (h : BitVec 512) (p : Nat) : Bool := bit h (346 + p) && decide (p < 15)
def phNseg (h : BitVec 512) : Nat := fld h 345 330
def phNcirc (h : BitVec 512) : Nat := fld h 329 317
def phNmatch (h : BitVec 512) : Nat := fld h 316 308
def phSvc (h : BitVec 512) : Nat := fld h 307 284
def phTrMode (h : BitVec 512) : Nat := fld h 283 282
def phTrUs (h : BitVec 512) : Nat := fld h 281 266
def phTrCtx (h : BitVec 512) : Nat := fld h 265 263

def planHdr (pl : List Byte) : BitVec 512 := recAt 512 pl 0
def nbrRec (pl : List Byte) (p : Nat) : BitVec 128 := recAt 128 pl (64 + 16 * p)
def nbSerial (r : BitVec 128) : Nat := fld r 127 64
def nbStation (r : BitVec 128) : Nat := fld r 63 40
def nbPort (r : BitVec 128) : Nat := fld r 39 36
def nbDelay (r : BitVec 128) : Nat := fld r 35 24
def dimEnt (pl : List Byte) (d i : Nat) : Nat := (recAt 8 pl (512 + 64 * d + i)).toNat
def matchEnt (pl : List Byte) (i : Nat) : BitVec 64 := recAt 64 pl (1024 + 8 * i)
def circRec (pl : List Byte) (i : Nat) : BitVec 64 := recAt 64 pl (3072 + 8 * i)
def crId (r : BitVec 64) : Nat := fld r 63 48
def crRole (r : BitVec 64) : Nat := fld r 47 45
def crIn (r : BitVec 64) : Nat := fld r 44 41
def crOut (r : BitVec 64) : Nat := fld r 40 37
def crCtx (r : BitVec 64) : Nat := fld r 36 34
def segRec (pl : List Byte) (i : Nat) : BitVec 64 := recAt 64 pl (35840 + 8 * i)
def sgLane (r : BitVec 64) : Nat := fld r 63 59
def sgKind (r : BitVec 64) : Nat := fld r 58 56
def sgStart (r : BitVec 64) : Nat := fld r 55 36
def sgLen (r : BitVec 64) : Nat := fld r 35 24 + 1
def sgCirc (r : BitVec 64) : Nat := fld r 23 8
def sgPeer (r : BitVec 64) : Nat := fld r 7 5

/-- Circuit records of a plan in use. -/
def circs (pl : List Byte) : List (BitVec 64) := (List.range (phNcirc (planHdr pl))).map (circRec pl)
/-- Segments of a plan in use. -/
def segs (pl : List Byte) : List (BitVec 64) := (List.range (phNseg (planHdr pl))).map (segRec pl)
/-- The record of a circuit ID. -/
def findCirc (pl : List Byte) (id : Nat) : Option (BitVec 64) := (circs pl).find? fun r => crId r == id && bit r 0

/-- The active plan's bytes; none listed while no plan is active. -/
def planA (s : State) : List Byte := s.fab.planA.getD []
/-- The active plan's header; zero while no plan is active (R303). -/
def hdrA (s : State) : BitVec 512 := match s.fab.planA with | some pl => planHdr pl | none => 0
def ownStation (s : State) : Nat := phStation (hdrA s)
def partKey (s : State) : Nat := phKey (hdrA s)

/-! ### Stations (Table 0.9) -/

def stZ (w : Nat) : Nat := w / 2 ^ 18 % 64
def stY (w : Nat) : Nat := w / 2 ^ 12 % 64
def stX (w : Nat) : Nat := w / 2 ^ 6 % 64
def stP (w : Nat) : Nat := w % 8

/-! ### Lanes, lines and loops (Tables 7.2, 7.3, 7.9) -/

def spEn (r : BitVec 64) : Bool := bit r 0
def spAuto (r : BitVec 64) : Bool := bit r 1
def spCh (r : BitVec 64) : Nat := fld r 7 4
/-- Active set-point of a lane: 0 to 15 ST, 16 to 21 F, 22 and 23 B. -/
def laneSp (s : State) (n : Nat) : BitVec 64 := s.optics.sp.act.getD n 0
/-- Port of a Stay or Backstay lane. -/
def lanePort (n : Nat) : Nat := n - 9
/-- Transmit loops of a lane, at 1,024 x die + loop. -/
def laneLoops (n : Nat) : List Nat :=
  if n < 16 then [n] ++ (List.range 3).map (16 + 3 * n + ·) ++ (List.range 7).map (64 + 7 * n + ·)
  else let i := n - 16; [1024 + i] ++ (List.range 6).map (1024 + 8 + 6 * i + ·) ++ [1024 + 56 + i]
/-- Receive loops of SIk.c. -/
def recvLoops (k c : Nat) : List Nat := [176 + 4 * (k - 1) + c, 204 + 4 * (k - 1) + c]
/-- Every loop of the package. -/
def allLoops : List Nat := List.range 232 ++ (List.range 64).map (1024 + ·)
/-- The transmit lane of a loop, if it belongs to one. -/
def loopLane (i : Nat) : Option Nat :=
  if i < 16 then some i else if i < 64 then some ((i - 16) / 3) else if i < 176 then some ((i - 64) / 7)
  else if i < 1024 then none
  else let m := i - 1024
    if m < 8 then some (16 + m) else if m < 56 then some (16 + (m - 8) / 6) else some (16 + (m - 56))
/-- Does the loop check a pilot tone in VERIFY (Table 7.3)? -/
def loopPilot (i : Nat) : Bool := decide (i < 16) || (decide (176 ≤ i) && decide (i < 204)) || (decide (1024 ≤ i) && decide (i < 1032))
/-- Is a lane usable: no loop in FAULT, its line not lost (R273, R299)? -/
def laneUsable (s : State) (n : Nat) : Bool :=
  !(getLane s n).lost && (laneLoops n).all fun i => (getLoop s i).st != .fault
/-- May a lane carry traffic now: enabled, its loops locked, light allowed (R277)? -/
def laneReady (s : State) (n : Nat) : Bool :=
  spEn (laneSp s n) && laneUsable s n && !s.optics.dark && !tget false s.reef.hHot (if n < 16 then 0 else 1)
    && ((laneLoops n).all fun i => (getLoop s i).st == .locked) && (decide (n < 16) || (getLane s n).open_)

/-! ### Counters of Table 8.17 -/

def ctTxBytes := 0
def ctRxBytes := 1
def ctTxPkts := 2
def ctRxPkts := 3
def ctColUsed := 4
def ctColPlanned := 5
def ctRetries := 12
def ctFecUncorr := 14
def ctPartDrops := 15
def ctNaks := 16

/-- Adds to a counting field of a port. -/
def count (s : State) (p i n : Nat) : State :=
  let x := getPort s p
  setPort s p { x with ctr := lput x.ctr i (x.ctr.getD i 0 + n) }

/-- One packet received or sent on a port, with its payload bytes. -/
def countRx (s : State) (p n : Nat) : State := count (count s p ctRxBytes n) p ctRxPkts 1
def countTx (s : State) (p n : Nat) : State := count (count s p ctTxBytes n) p ctTxPkts 1

/-! ### Ports going down, plan time (R309, R338) -/

/-- Does the package hear header codewords on a port? -/
def hears (s : State) (p : Nat) : Bool :=
  let x := getPort s p
  if p < 7 then x.headNs != 0 && decide (s.clk.mastNs < x.headNs + 50000)
  else match x.stay with | .dark => false | .acquiring => false | _ => true

/-- The time parent (R309): of the active plan, else of the accepted shadow, else the lowest port that hears a
neighbour with a plan. `some none`: the time root. -/
def timeParent (s : State) : Option Nat :=
  let pick (h : BitVec 512) (up : Nat → Bool) : Option Nat :=
    if phTime h = 15 then none
    else if up (phTime h) then some (phTime h)
    else if phTime2 h ≠ 15 ∧ up (phTime2 h) then some (phTime2 h) else none
  match s.fab.planA, s.fab.nextPlan with
  | some pl, _ => pick (planHdr pl) fun p => (getPort s p).st == .up
  | none, some pl => pick (planHdr pl) (hears s)
  | none, none => (List.range 15).find? fun p => hears s p && fld (getPort s p).disc 191 128 != 0

/-- Does the package count without a parent because neither parent port is up, and is it not the time root? -/
def timeOrphan (s : State) : Bool :=
  let alone (pl : List Byte) : Bool := phTime (planHdr pl) != 15 && (timeParent s).isNone
  match s.fab.planA, s.fab.nextPlan with
  | some pl, _ => alone pl
  | none, some pl => alone pl
  | none, none => false

/-- The parent is chosen anew; TIME_LOST is raised when neither is up. -/
def retime (s : State) : State :=
  let lost := timeOrphan s
  let was := s.fab.timeLost
  let h := match s.fab.planA, s.fab.nextPlan with | some pl, _ => planHdr pl | none, some pl => planHdr pl | none, none => 0
  let s := modFab s fun f => { f with parent := timeParent s, timeLost := lost }
  if lost && !was then raise s (pkgEvent evTimeLost 1 (phTime h) 0 0) else s

/-- Marks every circuit that leaves by a port HOLD (R338, R333). -/
def holdCircuits (s : State) (p : Nat) : State :=
  ((circs (planA s)).filter fun r => crRole r == 2 && crOut r == p).foldl (fun s r =>
    setCirc s (crId r) { getCirc s (crId r) with hold := true }) s

/-! ### Routing (R316, R317) -/

/-- Outcomes of the router. -/
inductive Hop where
  | local_
  | port (p : Nat)
  | unreachable
  deriving DecidableEq, Repr

def firstMatch (pl : List Byte) (dst : Nat) : Hop :=
  match (List.range (phNmatch (planHdr pl))).find? fun i =>
      let e := matchEnt pl i
      bit e 0 && (dst &&& fld e 39 16) == fld e 63 40 with
  | some i => .port (fld (matchEnt pl i) 15 12)
  | none => .unreachable

/-- One dimension: the port, or none when the coordinate is reached. -/
def dimHop (pl : List Byte) (d c plus minus : Nat) : Option Hop :=
  match dimEnt pl d c / 64 with
  | 1 => some (.port plus)
  | 2 => some (.port minus)
  | 3 => some .unreachable
  | _ => none

/-- The next port of a packet to `dst` that arrived on `arr` (15: local). -/
def nextPort (s : State) (dst arr : Nat) : Hop :=
  let pl := planA s
  let own := ownStation s
  if s.fab.planA.isNone then .unreachable
  else if dst = own then .local_
  else if stZ dst = 63 then firstMatch pl dst
  else if stP dst ≠ stP own then .port ((stP dst + 8 - stP own) % 8 - 1)
  else if phShape (hdrA s) = 2 then
    match firstMatch pl dst with
    | .port p => if arr = phTime (hdrA s) ∧ p = phTime (hdrA s) then .unreachable else .port p
    | h => h
  else match dimHop pl 0 (stX dst) 7 8 with
    | some h => h
    | none => match dimHop pl 1 (stY dst) 9 10 with
      | some h => h
      | none => match dimHop pl 2 (stZ dst) 11 12 with
        | some h => h
        | none => .unreachable

/-- Virtual channel of an MSG or ACK packet leaving by a port (R317). -/
def leaveVc (s : State) (p : Packet) (arr out : Nat) : Nat :=
  let h := hdrA s
  if out < 7 ∨ out > 12 ∨ phShape h ≠ 0 ∨ !(p.cls == .msg || p.cls == .ack) then 0
  else if (phDateline h >>> (out - 7)) % 2 = 1 then 1
  else if p.vc = 1 ∧ 7 ≤ arr ∧ arr ≤ 12 ∧ (arr - 7) / 2 = (out - 7) / 2 then 1 else 0

/-! ### Packets that cannot go on (R318, R322) -/

/-- Credits of a PUT returned to its pool; a CSEND is COL traffic, and its credits return by CREDIT_RETURN alone (R82,
R322). -/
def creditBack (s : State) (c : CtxId) (q : SrvReq) : State :=
  if q.cls ≠ 6 ∨ swCtake q.sw = 0 ∨ fld q.desc 31 28 ≠ 0 then s else returnCredit s c (swCpool q.sw) (swCtake q.sw)

/-- A transfer in service of either link engine, or a collective, by its number. -/
def xferOf (s : State) (c : CtxId) (xfer : Nat) : Option SrvReq :=
  (getCtx s c).queue.find? fun q => (q.cls == 6 || q.cls == 5) && q.phase != .queued && q.xfer == xfer

/-- A collective in service of either engine, by its group and sequence number. -/
def collOf (s : State) (c : CtxId) (hash : BitVec 64) (seq : Nat) : Option SrvReq :=
  (getCtx s c).queue.find? fun q => q.cls == 5
    && match q.coll with | some k => k.hash == hash && k.seq == seq | none => false

/-- A NAK for a transfer of this package: the request fails, and a PUT gets its credits back (R322). -/
def xferFail (s : State) (c : CtxId) (xfer : Nat) (st : Status) : State :=
  match xferOf s c xfer with
  | some q => failHead (creditBack s c q) c q st
  | none => s

/-- Codewords of a buffer of an input port free: they are owed to its neighbour as credits (R320). -/
def owe (s : State) (port ch n : Nat) : State :=
  let x := getPort s port
  setPort s port { x with owed := lput x.owed ch (x.owed.getD ch 0 + n) }

/-- What a packet held of an input buffer frees. -/
def release (s : State) (o : OutPkt) : State :=
  match o.from_ with
  | none => s
  | some (port, ch) => owe s port ch o.p.words

/-- A packet whose next port is unreachable, down, held or fenced (R318): an MSG or COL packet is answered by a NAK to its
source, which is this package's own request where it comes from here; any other is discarded. It is counted on the port that it
arrived by, or would have left by. -/
def undeliverable (s : State) (port : Nat) (o : OutPkt) : State :=
  let s := release (if port < 15 then count s port ctNaks 1 else s) o
  if o.p.cls ≠ .msg ∧ o.p.cls ≠ .col then s
  else match o.carries with
    | .put x => xferFail s o.p.srcCtx x.xfer stRemote
    | .piece p => (match collOf s o.p.srcCtx p.hash p.seq with | some q => failHead s o.p.srcCtx q stRemote | none => s)
    | .data => postAck s 0 o.p.src o.p.srcCtx o.p.xfer (.nak o.p.xfer 1)
    | _ => s

/-- What waits for a port that carries it no longer is undeliverable (R318); a HELD port still carries discovery records (R348). -/
def dropWaiting (s : State) (p : Nat) (held : Bool) : State :=
  let goes (e : Nat × OutPkt) : Bool := e.1 == p && !(held && match e.2.carries with | .disc _ => true | _ => false)
  let gone := (s.fab.outq.filter goes).map (·.2)
  let s := modFab s fun f => { f with outq := f.outq.filter fun e => !goes e }
  gone.foldl (fun s o => undeliverable s p o) s

/-- A port goes down: PORT_DOWN unless it was down, its waiting packets undeliverable, its circuits held, the time parent chosen
anew. `v` is the measure that its rule tests: 50 (µs) on Shroud, 10 (µs) without light, 100 (ms) at discovery. -/
def portDown (s : State) (p v : Nat) : State :=
  let x := getPort s p
  let was := x.st
  let s := setPort s p { x with st := .down, stay := .dark, found := 0, seen := false, swapAt := none, retrain := none }
  if was = .down then s
  else
    let s := dropWaiting s p false
    let s := (List.range 24).foldl (fun s n => let y := getLane s n
      if y.redo.isEmpty then s else setLane s n { y with redo := y.redo.filter fun e => e.1 != p }) s
    retime (holdCircuits (raise s (pkgEvent evPortDown 1 p v v)) p)

/-! ### Slots of a lane (R319, R325 to R328) -/

/-- Place of the current slot in the plan's period (Table 8.7). -/
def slotIndex (s : State) : Nat := (((s.clk.planSlot.toNat : Int) - s.fab.epochT) % (phPeriod (hdrA s) : Int)).toNat

/-- Segments of the active plan; none while no plan is active, when every slot is FREE (R329). -/
def planSegs (s : State) : List (BitVec 64) := if s.fab.planA.isSome then segs (planA s) else []

/-- The segment of some lane's that covers the slot k after the current one. -/
def laneSeg (s : State) (ss : List (BitVec 64)) (l k : Nat) : Option (BitVec 64) :=
  let i := (slotIndex s + k) % phPeriod (hdrA s)
  ss.find? fun g => sgLane g == l && decide (sgStart g ≤ i) && decide (i < sgStart g + sgLen g)

/-- Is a laser swap due in the lane's next swap slot? -/
def swapDue (s : State) (l : Nat) : Bool := s.optics.swaps.any fun w => w.role == l && w.step == 4

/-- Mast time in ps at which the current slot began. -/
def nowPs (s : State) : Nat := 1000 * s.clk.mastNs

/-- May the lane send packets of a class for a port in the slot k after the current one (Table 8.10, R328, R333)? A COL slot of a
lane that sends no chunk in it carries MGT to its peer alone. -/
def slotCarries (s : State) (ss : List (BitVec 64)) (l port : Nat) (cls : TClass) (k : Nat) : Bool :=
  match laneSeg s ss l k with
  | none => true
  | some g => match sgKind g with
    | 2 => !swapDue s l
    | 3 => cls == .mgt
    | _ => k == 0 && cls == .mgt && (decide (16 ≤ l) || sgPeer g == port + 1) && decide ((getLane s l).freePs ≤ nowPs s)

/-- Time in ps from the start of the current slot in which the lane may send such packets. -/
def roomPs (s : State) (l port : Nat) (cls : TClass) : Nat :=
  let ss := planSegs s
  128000 * ((List.range 32).takeWhile fun k => slotCarries s ss l port cls k).length

/-- Does another lane of the class have a COL segment that points at peer j in one of the next n slots? -/
def colAhead (s : State) (l j n : Nat) : Bool :=
  let ss := (planSegs s).filter fun g => sgKind g == 1 && sgPeer g == j && sgLane g / 4 == l / 4 && sgLane g != l && decide (sgLane g < 16)
  !ss.isEmpty && (List.range n).any fun k => (List.range 16).any fun m => (laneSeg s ss m k).isSome

/-- May ST lane n point at peer j in this slot and for n slots on (R279, R327): no other lane of its class points there now, did so
in this slot or the one before, or must do so for a COL segment? -/
def mayPoint (s : State) (l j n : Nat) : Bool :=
  ((List.range 4).all fun i =>
    let m := l / 4 * 4 + i
    m == l || (let y := getLane s m
      y.point != some j && !y.seen.contains j && !y.prev.contains j)) && !colAhead s l j (n + 1)

/-! ### Lanes (R265 to R267, R278, R280) -/

/-- Payload bytes of a packet: those it carries, or its codewords where its content is a few fields (R265). -/
def payLen (p : Packet) : Nat := if p.bytes.isEmpty then 600 * p.words else p.bytes.length

/-- Payload bytes of what a lane sends. -/
def loadLen : Load → Nat
  | .packet o => payLen o.p
  | .chunk _ _ bs => bs.length

/-- Payload codewords of n bytes. -/
def codewords (n : Nat) : Nat := (n + 599) / 600

/-- The retry buffer after a peer acknowledges n more bytes of those sent to it. -/
def ackRetry (port : Nat) : Nat → List (Nat × Load × Nat) → List (Nat × Load × Nat)
  | _, [] => []
  | n, t :: r =>
    if t.1 ≠ port then t :: ackRetry port n r
    else if t.2.2 ≤ n then ackRetry port (n - t.2.2) r
    else (t.1, t.2.1, t.2.2 - n) :: r

/-- Payload bytes that a lane holds unacknowledged. -/
def unacked (y : Lane) : Nat := (y.retry.map fun t => t.2.2).sum

/-- What a lane holds unacknowledged for a port, in the order sent. -/
def unackedFor (y : Lane) (port : Nat) : List (Nat × Load × Nat) := y.retry.filter fun t => t.1 == port

/-- Its bytes. -/
def owedTo (y : Lane) (port : Nat) : Nat := ((unackedFor y port).map fun t => t.2.2).sum

/-- What n of a port's unacknowledged bytes come before: the entry in which byte n lies, and its bytes before that. -/
def redoAt : Nat → List (Nat × Load × Nat) → Option (Load × Nat × Nat)
  | _, [] => none
  | n, (_, x, k) :: r => if n < k then some (x, loadLen x - k + n, k - n) else redoAt (n - k) r

/-- Lane n replays to a port from its unacknowledged byte k on, before it sends new data (R266). -/
def redoFrom (s : State) (n port k : Nat) : State :=
  let y := getLane s n
  if k < owedTo y port then setLane s n { y with redo := y.redo.filter (fun e => e.1 != port) ++ [(port, k)] } else s

/-- Sequence number of the next payload byte of a lane for a port: counted per lane and peer (log 61). -/
def seqFor (y : Lane) (port : Nat) : Nat := match y.seqs.find? fun p => p.1 == port with | some p => p.2 | none => 0

/-- Does a lane owe a peer a training burst (R280)? -/
def owesBurst (s : State) (port l : Nat) : Bool :=
  let y := getLane s l
  decide (port < 7) && (y.burst.contains port
    || (match y.lastTx.find? fun t => t.1 == port with | some t => decide (t.2 + 90000000 ≤ s.clk.mastNs) | none => true))

/-- Codeword time in ps (Table 7.1). -/
def wordPs (port : Nat) : Nat := if port < 7 then 12800 else 22858

/-- The guard before a packet: a re-point, with its preamble or a training burst (Table 7.7, R280). -/
def guardPs (s : State) (port l : Nat) : Nat :=
  let turn := decide (port < 7) && (getLane s l).point != some (port + 1)
  (if turn then 4000 else 0) + (if owesBurst s port l then 2000000 else if turn then 8000 else 0)

/-- When a packet of n payload codewords that the lane starts next would begin, guard included, and end. -/
def startPs (s : State) (l : Nat) : Nat := max (getLane s l).freePs (nowPs s)
def endPs (s : State) (port l n : Nat) : Nat := startPs s l + guardPs s port l + (1 + n) * wordPs port

/-- May the lane start a packet of a class for a port in this slot: ready, pointing where it may, and done before the lane's next
segment (R279, R327)? -/
def laneMay (s : State) (port l n : Nat) (cls : TClass) : Bool :=
  laneReady s l && decide (startPs s l < nowPs s + 128000) && decide (endPs s port l n ≤ nowPs s + roomPs s l port cls)
    && (decide (7 ≤ port) || mayPoint s l (port + 1) ((endPs s port l n - nowPs s) / 128000 + 1))

/-- A lane has sent to a port: where it points, and until when it is busy. -/
def useLane (s : State) (port l n : Nat) : State :=
  let y := getLane s l
  setLane s l { y with
    point := if port < 7 then some (port + 1) else y.point
    seen := if port < 7 then (port + 1) :: y.seen.filter (· != port + 1) else y.seen
    lastTx := (port, s.clk.mastNs) :: y.lastTx.filter (fun t => t.1 != port)
    burst := y.burst.filter (· != port)
    freePs := endPs s port l n }

/-- The header codeword of what a lane sends to a port next; acknowledgements, replays asked for and credits leave with it. -/
def takeHead (s : State) (port l : Nat) : Head × State :=
  let x := getPort s port
  let r := reefStatus s
  let h : Head :=
    { lane := l, key := BitVec.ofNat 12 (partKey s), slot := BitVec.ofNat 16 s.clk.planSlot.toNat
      phase := (startPs s l + guardPs s port l - nowPs s) / 1000, seq := seqFor (getLane s l) port
      acks := (x.rx.filter fun e => e.2.ack != 0).map fun e => (e.1, e.2.ack)
      asks := (x.rx.filter fun e => e.2.ask).map fun e => (e.1, e.2.next)
      credits := x.owed, reef := r.1, level := r.2
      holds := ((circs (planA s)).filter fun c => crRole c == 2 && crIn c == port).map fun c => (crId c, (getCirc s (crId c)).hold) }
  (h, setPort s port { x with owed := List.replicate 8 0, rx := x.rx.map fun e => (e.1, { e.2 with ack := 0, ask := false }) })

/-- A packet or chunk leaves by a lane: its bytes are kept for replay and counted (R266). -/
def laneSend (s : State) (port l n : Nat) (x : Load) : State :=
  let burst := owesBurst s port l
  let (h, s) := takeHead s port l
  let s := useLane s port l n
  let y := getLane s l
  let k := loadLen x
  let s := setLane s l { y with
    retry := y.retry ++ [(port, x, k)]
    seqs := (port, seqFor y port + k) :: y.seqs.filter (fun p => p.1 != port) }
  send (count (count s port ctTxBytes k) port ctTxPkts 1) (.sent port h burst x)

/-- The next packet of a replay leaves by its lane: the payload from its first unacknowledged byte on. -/
def sendReplay (s : State) (l port : Nat) : State :=
  let y := getLane s l
  match y.redo.find? fun e => e.1 == port with
  | none => s
  | some (_, k) => match redoAt k (unackedFor y port) with
    | none => setLane s l { y with redo := y.redo.filter fun e => e.1 != port }
    | some (x, skip, n) =>
      let burst := owesBurst s port l
      let (h, s) := takeHead s port l
      let s := useLane s port l (codewords n)
      let y := getLane s l
      let rest := y.redo.filter fun e => e.1 != port
      let s := setLane s l { y with redo := if k + n < owedTo y port then (port, k + n) :: rest else rest }
      send s (.replay port { h with seq := seqFor y port - owedTo y port + k } burst skip x)

/-- A header-only packet (R267, R329). -/
def sendHeader (s : State) (port l : Nat) : State :=
  let burst := owesBurst s port l
  let (h, s) := takeHead s port l
  send (useLane s port l 0) (.header port h burst)

/-- A lane that may send a header codeword to a port now: in a FREE or MGT slot, on Shroud one that owes the peer a training burst
first (log 61). -/
def headerLane (s : State) (port : Nat) : Option Nat :=
  let ok (l : Nat) : Bool := laneMay s port l 0 .mgt
  if port ≥ 7 then (if ok (port + 9) then some (port + 9) else none)
  else match (List.range 16).find? fun l => owesBurst s port l && ok l with
    | some l => some l
    | none => (List.range 16).find? ok

/-! ### Output queues (R320, R324) -/

/-- Channel of a packet in the order of Table 8.11. -/
def chanOf (p : Packet) : Nat :=
  match p.cls with
  | .req => 0
  | .rsp => 1
  | .msg => if p.vc = 1 then 3 else 2
  | .ack => if p.vc = 1 then 5 else 4
  | .mgt => 6
  | .col => 7

/-- Service order of R324, as channels. -/
def serveOrder : List Nat := [1, 4, 5, 0, 3, 2, 6]

/-- Is a packet a discovery record? -/
def isDisc : Says → Bool
  | .disc _ => true
  | _ => false

/-- May the package send a class on a port: not under a fence, and not with partition key 0, but MGT on Backstay (R341,
R342)? -/
def mayClass (s : State) (port : Nat) (cls : TClass) : Bool :=
  (!s.pkg.fenced && partKey s != 0) || (decide (13 ≤ port) && cls == .mgt)

/-- Does a port carry a packet now: UP, or from TRAINED on a discovery record, which partition key 0 does not stop (R341, R348)? -/
def portCarries (s : State) (port : Nat) (o : OutPkt) : Bool :=
  let x := getPort s port
  if isDisc o.carries then (decide (port < 7) || x.stay == .trained || x.stay == .up) && !(s.pkg.fenced && decide (port < 13))
  else x.st == .up && (decide (port < 7) || x.stay == .up) && mayClass s port o.p.cls

/-- Is a packet one that this package's link or collective engines inject? -/
def isOwnMsg (o : OutPkt) : Bool :=
  match o.carries with
  | .put _ => true
  | .piece _ => true
  | _ => false

/-- The link cap (R387): does the lane's last 16 FREE slots, this one among them, leave room for the codewords of a packet of this
package? A packet's codewords count in the slot in which it starts (log 61). -/
def linkCapOk (s : State) (l port : Nat) (o : OutPkt) : Bool :=
  !isOwnMsg o || decide ((getLane s l).own.sum + o.p.words ≤ (16 - s.reef.rungL) * (if port < 7 then 160 else 89) / 16)

/-- Adds to what the lane has started in this slot. -/
def addOwn (n : Nat) : List Nat → List Nat
  | [] => [n]
  | a :: r => (a + n) :: r

/-- May a lane send a waiting packet of a port now? -/
def mayGo (s : State) (l port : Nat) (o : OutPkt) : Bool :=
  portCarries s port o && linkCapOk s l port o && decide (o.p.words ≤ (getPort s port).credits.getD (chanOf o.p) 0)
    && decide (unacked (getLane s l) + payLen o.p ≤ 65536) && (getLane s l).redo.isEmpty && laneMay s port l o.p.words o.p.cls

/-- Ports that a lane serves. -/
def lanePorts (l : Nat) : List Nat := if l < 16 then List.range 7 else [lanePort l]

/-- The packet that a lane sends next: the channels in the order of R324 after the one served last, of each port the packet that
has waited longest. Among peers the manual leaves the choice to the router (log 22). -/
def nextFor (s : State) (l : Nat) : Option (Nat × OutPkt) :=
  let i := (serveOrder.findIdx? (· == (getLane s l).rr)).getD 6
  (serveOrder.drop (i + 1) ++ serveOrder.take (i + 1)).findSome? fun ch =>
    (lanePorts l).findSome? fun port =>
      match s.fab.outq.find? fun e => e.1 == port && chanOf e.2.p == ch with
      | some e => if mayGo s l port e.2 then some e else none
      | none => none

/-- Removes the first entry of a list equal to x. -/
def dropFirst {α : Type} [DecidableEq α] (x : α) : List α → List α
  | [] => []
  | a :: r => if a = x then r else a :: dropFirst x r

/-- The record that a port sends (Table 8.15). -/
def discRec (s : State) (port : Nat) : BitVec 256 :=
  let h := hdrA s
  BitVec.ofNat 256 (Config.serial.toNat * 2 ^ 192 + phHash h * 2 ^ 128 + phStation h * 2 ^ 104 + phKey h * 2 ^ 92
    + port * 2 ^ 88 + b2n s.pkg.fenced * 2 ^ 87 + b2n s.pkg.computeReset * 2 ^ 86 + 1 * 2 ^ 80
    + s.clk.planSlot.toNat * 2 ^ 32)

/-- Bytes of a collective have left: its time-out counts from here (R323, R371). -/
def pieceSent (s : State) (c : CtxId) (hash : BitVec 64) (seq : Nat) : State :=
  match collOf s c hash seq with
  | some q => putHead s c { q with sentNs := s.clk.mastNs }
  | none => s

/-- The last part of a PUT has left: its last byte is with the lanes (R323). -/
def lastSent (s : State) (o : OutPkt) : State :=
  match o.carries with
  | .put x => if !x.last then s else match xferOf s o.p.srcCtx x.xfer with
      | some q => putHead s o.p.srcCtx { q with sentAll := true, sentNs := s.clk.mastNs }
      | none => s
  | .piece p => pieceSent s o.p.srcCtx p.hash p.seq
  | _ => s

/-- Sends a waiting packet by a lane: credits are taken, the buffer it held is free. -/
def goPacket (s : State) (l port : Nat) (o : OutPkt) : State :=
  let s := modFab s fun f => { f with outq := dropFirst (port, o) f.outq }
  let x := getPort s port
  let ch := chanOf o.p
  let s := setPort s port { x with credits := lput x.credits ch (x.credits.getD ch 0 - o.p.words) }
  let s := setLane s l { getLane s l with rr := ch, own := if isOwnMsg o then addOwn o.p.words (getLane s l).own else (getLane s l).own }
  let p : Packet := { o.p with lane := l, burst := owesBurst s port l, seq := seqFor (getLane s l) port, key := BitVec.ofNat 12 (partKey s) }
  let carries : Says := if isDisc o.carries then .disc (discRec s port) else o.carries
  lastSent (release (laneSend s port l p.words (.packet { o with p := p, carries := carries })) o) o

/-- Lanes send waiting packets while any may, lane by lane. -/
def serveLanes : Nat → State → State
  | 0, s => s
  | n + 1, s =>
    match (List.range 24).findSome? fun l => (nextFor s l).map fun e => (l, e) with
    | none => s
    | some (l, e) => serveLanes n (goPacket s l e.1 e.2)

/-- May a lane send the next packet of its replay to a port now? A replay uses the slots of other traffic (log 61). -/
def mayRedo (s : State) (l port k : Nat) : Bool :=
  let x := getPort s port
  x.st == .up && (decide (port < 7) || x.stay == .up) && !(s.pkg.fenced && decide (port < 13))
    && match redoAt k (unackedFor (getLane s l) port) with
      | some (_, _, n) => laneMay s port l (codewords n) .msg
      | none => true

/-- Lanes send the packets of their replays while they may. -/
def serveRedo : Nat → State → State
  | 0, s => s
  | n + 1, s =>
    match (List.range 24).findSome? fun l => (getLane s l).redo.findSome? fun e => if mayRedo s l e.1 e.2 then some (l, e.1) else none with
    | none => s
    | some (l, port) => serveRedo n (sendReplay s l port)

/-- A packet joins the output queue of a port. -/
def emitOn (s : State) (port : Nat) (o : OutPkt) : State := modFab s fun f => { f with outq := f.outq ++ [(port, o)] }

/-- A packet of a kind on a port: what goes one hop, or by a port that its rule names. -/
def emitTo (s : State) (port : Nat) (cls : TClass) (c : CtxId) (dstCtx : CtxId) (words : Nat) (bytes : List Byte) (carries : Says) : State :=
  let p : Packet := { cls := cls, src := BitVec.ofNat 24 (ownStation s), srcCtx := c, key := 0, vc := 0, words := words, fecOk := true
                      dst := BitVec.ofNat 24 (nbStation (nbrRec (planA s) port)), dstCtx := dstCtx, lane := 0, burst := false
                      seq := 0, xfer := 0, bytes := bytes }
  emitOn s port ⟨p, carries, none⟩

/-- Is a packet a context-closed NAK (R337)? An unreachable one has been counted where its packet was discarded. -/
def closedNak : Says → Bool
  | .nak _ k => k == 2
  | .collNak _ _ k => k == 2
  | _ => false

/-- A packet to the fabric manager by B0, or by B1 when B0 is not UP (R351, R352); none when neither is. -/
def emitService (s : State) (bytes : List Byte) (carries : Says) : Option State :=
  ([13, 14].find? fun b => (getPort s b).st == .up).map fun b =>
    let p : Packet := { cls := .mgt, src := BitVec.ofNat 24 (ownStation s), srcCtx := 0, dst := BitVec.ofNat 24 (phSvc (hdrA s)), dstCtx := 0
                        key := 0, vc := 0, words := 1, fecOk := true, lane := 0, burst := false, seq := 0, xfer := 0, bytes := bytes }
    emitOn s b ⟨p, carries, none⟩

/-- The router takes one of this package's own packets (R316, R317). -/
def routeOwn (s : State) (o : OutPkt) : State :=
  let p : Packet := { o.p with src := BitVec.ofNat 24 (ownStation s) }
  match o.carries with
  | .event _ => (emitService s o.p.bytes o.carries).getD s
  | _ => match nextPort s p.dst.toNat 15 with
    | .local_ => lastSent (send s (.sent 15 (takeHead s 15 24).1 false (.packet { o with p := { p with key := BitVec.ofNat 12 (partKey s) } }))) o
    | .unreachable => undeliverable s 15 { o with p := p }
    | .port q =>
      let s := if closedNak o.carries then count s q ctNaks 1 else s
      if (getPort s q).st = .up ∧ mayClass s q p.cls then emitOn s q { o with p := { p with vc := leaveVc s p 15 q } }
      else undeliverable s q { o with p := p }

/-- Every own packet that waits for the router goes into an output queue. -/
def routeAll (s : State) : State :=
  let os := s.fab.inject
  os.foldl routeOwn (modFab s fun f => { f with inject := [] })

/-- A port owes its neighbour something that only a header codeword carries (R266, R267, R320). -/
def owesHeader (s : State) (port : Nat) : Bool :=
  let x := getPort s port
  x.owed.any (· != 0) || x.rx.any fun e => e.2.ack != 0 || e.2.ask

/-- A header-only packet where a port owes one and no packet waits for it (R267). -/
def ackOnly (s : State) (port : Nat) : State :=
  if !owesHeader s port || (s.pkg.fenced && decide (port < 13)) || (s.fab.outq.any fun e => e.1 == port) then s
  else match headerLane s port with
    | some l => sendHeader s port l
    | none => s

/-- The service of a slot: own packets are routed, the lanes send, and what is owed goes with header codewords. -/
def serveOut (s : State) : State :=
  let s := routeAll s
  let s := serveRedo ((List.range 24).map fun l => (getLane s l).retry.length).sum s
  (List.range 15).foldl ackOnly (serveLanes s.fab.outq.length s)

/-! ### Fences (R342, R343) -/

/-- Requests that a fence fails: LINK and COLL, and movers with peer REQs outstanding. -/
def fenceHits (q : SrvReq) : Bool := q.cls == 5 || q.cls == 6 || (q.cls == 2 && q.phase != .queued && !(q.resv.isEmpty && q.todo.isEmpty))

/-- A Shroud or Stay port dark: down without an event. -/
def darkPort (s : State) (p : Nat) : State :=
  setPort s p { getPort s p with st := .down, stay := .dark, found := 0, seen := false }

/-- The effects of a fence; none on a package that is already fenced. -/
def fence (s : State) : State :=
  if s.pkg.fenced then s
  else
    let s := modPkg s fun p => { p with fenced := true }
    let s := (List.range 24).foldl (fun s n =>
      let y := getLane s n
      if n < 16 then setLane s n { y with point := none } else if n < 22 then setLane s n { y with open_ := false } else s) s
    let s := (List.range 13).foldl darkPort s
    let s := modFab s fun f => { f with outq := f.outq.filter fun q => decide (13 ≤ q.1) && q.2.p.cls == .mgt }
    let s := raise s (pkgEvent evFenced 0 0 0 0)
    (existing s).foldl (fun s c => failAll s c fenceHits stFenced) s

end Sys2Proof.Machine
end

