-- ==== Sys2Proof/Machine/Crypto.lean ====
section
/-! DEFINITION. SHA-256 (FIPS 180-4) and ECDSA P-256 verification (FIPS 186-5), which the manual names for images,
measurements and reports. -/

namespace Sys2Proof.Machine

/-! ### SHA-256 -/

abbrev W32 := BitVec 32

/-- The largest integer whose k-th power is at most x, found bit by bit from bit n - 1 down. -/
def rootBits (k x : Nat) : Nat → Nat → Nat
  | 0, acc => acc
  | n + 1, acc => rootBits k x n (if (acc + 2 ^ n) ^ k ≤ x then acc + 2 ^ n else acc)

/-- The first 32 bits of the fraction of the k-th root of p. -/
def rootFrac (k p : Nat) : W32 := BitVec.ofNat 32 (rootBits k (p * 2 ^ (32 * k)) 40 0)

/-- The first primes: those below 312 are 64. -/
def shaPrimes : List Nat := (List.range 312).filter fun n => decide (2 ≤ n) && (List.range n).all fun d => decide (d < 2) || n % d != 0

/-- The round constants come from the cube roots of the primes, the start value from the square roots of the first eight. -/
def roundConst (i : Nat) : W32 := rootFrac 3 (shaPrimes.getD i 0)

/-- The variables of a round as the histories they are shifted through: a to d are the last four values of one, e to h of the
other, newest first; between blocks the eight words of the hash value stand in the same places. -/
structure ShaVars where
  as : List W32
  es : List W32
  deriving DecidableEq, Repr

def shaStart : ShaVars :=
  ⟨(shaPrimes.take 4).map (rootFrac 2), ((shaPrimes.drop 4).take 4).map (rootFrac 2)⟩

/-- Exclusive or of a word turned right by three amounts. -/
def turn3 (x : W32) (i j k : Nat) : W32 := x.rotateRight i ^^^ (x.rotateRight j ^^^ x.rotateRight k)

/-- The two mixing functions of the schedule: two turns and a shift. -/
def mixTurn (x : W32) (i j k : Nat) : W32 := (x >>> k) ^^^ (x.rotateRight i ^^^ x.rotateRight j)

/-- A big-endian word of a block. -/
def blockWord (bs : List Byte) (i : Nat) : W32 := BitVec.ofNat 32 (leNat ((bs.drop (4 * i)).take 4).reverse)

/-- The next word of the schedule from the last sixteen, newest first. -/
def nextWord (w : List W32) : W32 :=
  let back (k : Nat) : W32 := w.getD (k - 1) 0
  mixTurn (back 2) 17 19 10 + back 7 + mixTurn (back 15) 7 18 3 + back 16

/-- One round: a new value enters each history. -/
def shaTurn (kw : W32) (v : ShaVars) : ShaVars :=
  let a (k : Nat) : W32 := v.as.getD k 0
  let e (k : Nat) : W32 := v.es.getD k 0
  let choose := e 2 ^^^ (e 0 &&& (e 1 ^^^ e 2))
  let most := (a 0 &&& (a 1 ||| a 2)) ||| (a 1 &&& a 2)
  let t := kw + e 3 + choose + turn3 (e 0) 6 11 25
  ⟨(t + most + turn3 (a 0) 2 13 22) :: v.as.take 3, (t + a 3) :: v.es.take 3⟩

/-- The rounds from i on, `n` of them, over the last sixteen words of the schedule, newest first: the oldest is used next. -/
def shaRounds : Nat → Nat → List W32 → ShaVars → ShaVars
  | 0, _, _, v => v
  | n + 1, i, w, v => shaRounds n (i + 1) (nextWord w :: w.take 15) (shaTurn (roundConst i + w.getD 15 0) v)

/-- The compression of one 64-byte block. -/
def shaBlock (h : ShaVars) (bs : List Byte) : ShaVars :=
  let v := shaRounds 64 0 ((List.range 16).map fun i => blockWord bs (15 - i)) h
  ⟨List.zipWith (· + ·) h.as v.as, List.zipWith (· + ·) h.es v.es⟩

/-- Blocks of 64 bytes, at most `n` of them. -/
def shaGo : Nat → List Byte → ShaVars → ShaVars
  | 0, _, h => h
  | n + 1, bs, h => if bs.isEmpty then h else shaGo n (bs.drop 64) (shaBlock h (bs.take 64))

/-- The 32 digest bytes. -/
def sha256 (m : List Byte) : List Byte :=
  let n := m.length
  let pad := 0x80 :: List.replicate ((55 + 64 - n % 64) % 64) 0
  let m := m ++ pad ++ (leBytes 8 (8 * n)).reverse
  let h := shaGo (n / 64 + 2) m shaStart
  (h.as ++ h.es).flatMap fun w => (leBytes 4 w.toNat).reverse

/-- The digest as a record of 256 bits, byte 0 lowest (R9). -/
def shaRec (m : List Byte) : BitVec 256 := recAt 256 (sha256 m) 0

/-- The digest as an integer, its first byte highest, as ECDSA takes it. -/
def shaInt (m : List Byte) : Nat := leNat (sha256 m).reverse

/-! ### P-256 -/

def p256p : Nat := 0xffffffff00000001000000000000000000000000ffffffffffffffffffffffff
def p256n : Nat := 0xffffffff00000000ffffffffffffffffbce6faada7179e84f3b9cac2fc632551
def p256b : Nat := 0x5ac635d8aa3a93e7b3ebbd55769886bc651d06b0cc53b0f63bce3c3e27d2604b
def p256G : Nat × Nat :=
  (0x6b17d1f2e12c4247f8bce6e563a440f277037d812deb33a0f4a13945d898c296,
   0x4fe342e2fe1a7f9b8ee7eb4a7c0f9e162bce33576b315ececbb6406837bf51f5)

/-- x^e mod m by the bits of e from bit k - 1 down. -/
def powMod (x e m : Nat) : Nat → Nat → Nat
  | 0, acc => acc
  | k + 1, acc =>
    let a := acc * acc % m
    powMod x e m k (if (e >>> k) % 2 = 1 then a * x % m else a)

/-- Inverse modulo a prime. -/
def invMod (x m : Nat) : Nat := powMod (x % m) (m - 2) m 256 1

/-- Addition on the curve; none is the point at infinity. -/
def ecAdd (a b : Option (Nat × Nat)) : Option (Nat × Nat) :=
  match a, b with
  | none, q => q
  | q, none => q
  | some (x1, y1), some (x2, y2) =>
    let p := p256p
    if x1 = x2 ∧ (y1 + y2) % p = 0 then none
    else
      let l := if x1 = x2 then (3 * x1 * x1 + (p - 3)) * invMod (2 * y1) p % p else (y2 + p - y1) * invMod (x2 + p - x1) p % p
      let x3 := (l * l + 2 * p - x1 - x2) % p
      some (x3, (l * (x1 + p - x3) + p - y1) % p)

/-- Scalar multiplication by the bits of k from bit n - 1 down. -/
def ecMul (k : Nat) (q : Option (Nat × Nat)) : Nat → Option (Nat × Nat) → Option (Nat × Nat)
  | 0, acc => acc
  | n + 1, acc =>
    let a := ecAdd acc acc
    ecMul k q n (if (k >>> n) % 2 = 1 then ecAdd a q else a)

/-- Is (x, y) a point of the curve? -/
def onCurve (x y : Nat) : Bool :=
  decide (x < p256p) && decide (y < p256p) && (y * y) % p256p == (x * x * x + (p256p - 3) * x + p256b) % p256p

/-- ECDSA verification of (r, s) over a digest integer by the key (x, y). -/
def ecdsaVerify (z r s x y : Nat) : Bool :=
  let n := p256n
  if r = 0 ∨ n ≤ r ∨ s = 0 ∨ n ≤ s ∨ !onCurve x y then false
  else
    let w := invMod s n
    match ecAdd (ecMul (z * w % n) (some p256G) 256 none) (ecMul (r * w % n) (some (x, y)) 256 none) with
    | none => false
    | some (px, _) => px % n == r

end Sys2Proof.Machine
end

