-- ==== Sys2Proof/Machine/Firmware.lean ====
section
/-! DEFINITION. Boot flash, boot directory, fuses, the checks of an image, and the firmware-update commands (13.1, 13.2, 13.4,
13.5). -/

namespace Sys2Proof.Machine

/-! ### Fuses (R477) -/

/-- The anti-rollback counter. -/
def rollback (s : State) : Nat := min 32 (Config.rollbackFused.val + s.boot.blown)
/-- KEY_REVOKE. -/
def revoked (s : State) : BitVec 4 := Config.revokeFused ||| s.boot.revoked

/-! ### Flash slots (Table 13.1) -/

/-- A byte of a slot that nothing has written since power was first applied: as given, or erased. -/
def slotDefault (s : State) (slot off : Nat) : Byte :=
  if s.boot.erased.contains (slot, off / 65536) then 0xFF else Config.flashByte (Fin.ofNat 2 slot) off

/-- n bytes of a slot. -/
def slotRead (s : State) (slot off n : Nat) : List Byte := creadD (slotDefault s slot) (tget [] s.boot.slots slot) off n

/-- Erases a sector of a slot. -/
def eraseSector (s : State) (slot sec : Nat) : State :=
  modBoot s fun b => { b with
    slots := tput b.slots slot (cclear (tget [] b.slots slot) (65536 * sec) 65536)
    erased := if b.erased.contains (slot, sec) then b.erased else (slot, sec) :: b.erased }

/-- Writes bytes of an erased part of a slot. -/
def slotWrite (s : State) (slot off : Nat) (bs : List Byte) : State :=
  modBoot s fun b => { b with slots := tput b.slots slot (hwrite (tget [] b.slots slot) off bs) }

/-! ### The boot directory (R476, Table 13.2) -/

def dirCopy (s : State) (k : Nat) : BitVec 512 := tget (Config.bootDir (Fin.ofNat 2 k)) s.boot.dir k
def dirCrc (d : BitVec 512) : Nat := (crc32c (leBytes 60 d.toNat)).toNat
def dirValid (d : BitVec 512) : Bool := fld d 511 480 == dirCrc d
def dirSeq (d : BitVec 512) : Nat := fld d 479 448
def dirNext (d : BitVec 512) : Nat := fld d 447 447
def dirTries (d : BitVec 512) (slot : Nat) : Nat := if slot = 0 then fld d 446 445 else fld d 444 443
def dirOk (d : BitVec 512) (slot : Nat) : Bool := if slot = 0 then bit d 442 else bit d 441

/-- The directory in force and its copy: the valid one of higher SEQ; none valid is a blank record. -/
def dirNow (s : State) : Option (Nat × BitVec 512) :=
  let a := dirCopy s 0
  let b := dirCopy s 1
  if dirValid a ∧ dirValid b then (if dirSeq a ≥ dirSeq b then some (0, a) else some (1, b))
  else if dirValid a then some (0, a) else if dirValid b then some (1, b) else none

def dirRec (s : State) : BitVec 512 := match dirNow s with | some (_, d) => d | none => 0

def setTries (d : BitVec 512) (slot n : Nat) : BitVec 512 := if slot = 0 then setFld d 446 445 n else setFld d 444 443 n
def setOk (d : BitVec 512) (slot : Nat) (v : Bool) : BitVec 512 :=
  if slot = 0 then setFld d 442 442 (b2n v) else setFld d 441 441 (b2n v)

/-- An update: the other copy is written with SEQ raised by 1. -/
def dirUpdate (s : State) (f : BitVec 512 → BitVec 512) : State :=
  let (k, d) := match dirNow s with | some p => p | none => (1, 0)
  let d := setFld (f d) 479 448 (dirSeq d + 1)
  let d := setFld d 511 480 (dirCrc d)
  modBoot s fun b => { b with dir := tput b.dir (1 - k) d }

/-! ### Image checks (R482 to R485) -/

/-- Fields of IMG_HDR (Table 13.5). -/
def imLen (h : BitVec 2048) : Nat := fld h 959 928
def imVersion (h : BitVec 2048) : Nat := fld h 991 960
def imRollback (h : BitVec 2048) : Nat := fld h 927 920
def imKey (h : BitVec 2048) : Nat := fld h 915 914
def imRevoke (h : BitVec 2048) : Nat := fld h 913 910
def imNsec (h : BitVec 2048) : Nat := fld h 903 896

/-- Checks 1 to 4 of Table 13.7, the fields of one check in the order of R25; `len` is FW_COMMIT's IMAGE_LEN. -/
def imageHdrChecks (s : State) (h : BitVec 2048) (pub : List Byte) (len : Option Nat) : List Chk :=
  let n := imLen h
  let k := imKey h
  let step := if Config.steppingB1 then 905 else 904
  [(0, fld h 895 0 != 0, stImage), (896, imNsec h == 0 || decide (16 < imNsec h), stImage),
   (904, fld h 909 906 != 0 || !bit h step, stImage), (910, (imRevoke h >>> k) % 2 == 1, stImage),
   (916, fld h 919 916 != 1, stImage), (920, decide (32 < imRollback h), stImage), (992, fld h 1023 992 != 0x48594C44, stImage),
   (928, decide (n < 1024) || decide (16777216 < n) || (match len with | some m => n != m | none => false), stImage),
   (914, bit (revoked s) k || Config.keyHash (Fin.ofNat 4 k) == 0 || Config.keyHash (Fin.ofNat 4 k) != shaRec pub, stImage),
   (920, decide (imRollback h < rollback s), stRollback)]

/-- Entry i of the section table. -/
def secRec (img : List Byte) (i : Nat) : BitVec 384 := recAt 384 img (256 + 48 * i)
def secType (r : BitVec 384) : Nat := fld r 15 0
def secOff (r : BitVec 384) : Nat := fld r 95 64
def secLen (r : BitVec 384) : Nat := fld r 127 96

/-- R483 for one entry, after the entries before it. -/
def secChecks (img : List Byte) (n : Nat) (before : List (BitVec 384)) (r : BitVec 384) : List Chk :=
  let t := secType r
  [(0, t == 0 || decide (5 < t) || before.any fun q => secType q == t, stImage),
   (16, fld r 63 16 != 0, stImage),
   (64, secOff r % 64 != 0 || decide (secOff r < 256 + 48 * n) || decide (img.length < secOff r + secLen r)
      || before.any fun q => decide (secOff q < secOff r + secLen r) && decide (secOff r < secOff q + secLen q), stImage),
   (96, secLen r == 0, stImage),
   (128, BitVec.ofNat 256 (fld r 383 128) != shaRec ((img.drop (secOff r)).take (secLen r)), stImage)]

def secBad (img : List Byte) (n : Nat) : Nat → List (BitVec 384) → Option (Status × Nat)
  | 0, before => if [1, 2, 3].all fun t => before.any fun q => secType q == t then none else some (stImage, 896)
  | k + 1, before =>
    let i := n - (k + 1)
    let r := secRec img i
    match (secChecks img n before r).find? fun c => c.2.1 with
    | some c => some (c.2.2, 8 * (256 + 48 * i) + c.1)
    | none => secBad img n k (before ++ [r])

/-- The digest that an image's signature covers: bytes 192 to 255 read as zero (R484). -/
def signedInt (img : List Byte) : Nat := shaInt (img.take 192 ++ List.replicate 64 0 ++ img.drop 256)

/-- Table 13.7 on an image of which `read n` gives the first n bytes: the first failing check, or the image. -/
def imageCheck (s : State) (read : Nat → List Byte) (len : Option Nat) : Except (Status × Nat) (List Byte) :=
  let top := read 256
  let h : BitVec 2048 := recAt 2048 top 0
  match (imageHdrChecks s h ((top.drop 128).take 64) len).find? fun c => c.2.1 with
  | some c => .error (c.2.2, c.1)
  | none =>
    let img := read (imLen h)
    if !ecdsaVerify (signedInt img) (fld h 1791 1536) (fld h 2047 1792) (fld h 1279 1024) (fld h 1535 1280) then .error (stImage, 1536)
    else match secBad img (imNsec h) (imNsec h) [] with
      | some e => .error e
      | none => .ok img

/-- R485 on a slot as stored. -/
def slotImage (s : State) (slot : Nat) (len : Option Nat) : Except (Status × Nat) (List Byte) :=
  imageCheck s (slotRead s slot 0) len

/-! ### FW_WRITE, FW_COMMIT, FW_STATUS (R488, R490, R491) -/

def stagingSize : Nat := 16777216

/-- Recovery's write into slot A: each sector is erased at its first write since recovery began. -/
def recoveryWrite (s : State) (off : Nat) (bs : List Byte) : State :=
  let secs := if bs.isEmpty then [] else (List.range ((off + bs.length - 1) / 65536 - off / 65536 + 1)).map (off / 65536 + ·)
  let s := secs.foldl (fun s k =>
    if s.boot.sectors.contains k then s
    else modBoot (eraseSector s 0 k) fun b => { b with sectors := k :: b.sectors }) s
  slotWrite s 0 off bs

def bodyFwWrite : Body := fun s _ _ p =>
  let off := pf p 0 4
  let len := pf p 4 4
  checked s [bad 4 (len == 0 || decide (stagingSize < off + len))]
    (if s.boot.writing.isSome then (s, .now (.fail stSwapPending noField))
     else match hostRead s (pf p 8 8) len with
       | none => (s, .now (.fail stHostDma noField))
       | some bs => (if s.pkg.romService then recoveryWrite s off bs else modBoot s fun b => { b with staging := cwrite b.staging off bs }, .now .ok))

/-- FW_COMMIT. In recovery slot A is verified as stored; else the staging buffer is, and the slot that is not running is then
erased and written. -/
def bodyFwCommit : Body := fun s _ _ p =>
  let len := pf p 0 4
  checked s [bad 0 (len == 0 || decide (stagingSize < len)), rsv p 4 8]
    (if s.boot.writing.isSome then (s, .now (.fail stSwapPending noField))
     else if s.pkg.romService then
       match slotImage s 0 (some len) with
       | .error e => (s, .now (.failRec e.1 e.2))
       | .ok _ => (dirUpdate s fun d => setFld (setOk (setTries d 0 0) 0 true) 447 447 0, .now .ok)
     else match imageCheck s (cread s.boot.staging 0) (some len) with
       | .error e => (s, .now (.failRec e.1 e.2))
       | .ok _ =>
         let slot := 1 - s.boot.slot
         (modBoot (dirUpdate s fun d => setOk d slot false) fun b => { b with writing := some (slot, len) }, .now .ok))

/-- FW_COMMITTED: the write and its read-back end, and the directory names the slot. -/
def fwCommitted (s : State) : State :=
  match s.boot.writing with
  | none => s
  | some (slot, len) =>
    let s := (List.range 256).foldl (fun s k => eraseSector s slot k) s
    let s := slotWrite s slot 0 (cread s.boot.staging 0 len)
    let s := dirUpdate s fun d => setFld (setTries (setOk d slot true) slot 0) 447 447 slot
    raise (modBoot s fun b => { b with writing := none }) (pkgEvent evFwCommitted 0 0 0 0)

/-- VERSION of a slot's image; 0 when the slot holds none. -/
def slotVersion (s : State) (slot : Nat) : Nat :=
  if dirOk (dirRec s) slot then imVersion (recAt 2048 (slotRead s slot 0 256) 0) else 0

/-- FW_STATUS. While no image runs, ACTIVE is a free value (log 1). -/
def bodyFwStatus : Body := fun s _ _ _ =>
  let (v, s') := drawNat s
  let (act, s) := if s.boot.hasImage then (s.boot.slot, s) else (v, s')
  (s, .now (.pay_ (leBytes 4 (slotVersion s 0) ++ leBytes 4 (slotVersion s 1) ++ leBytes 1 act ++ leBytes 1 (dirNext (dirRec s))
    ++ leBytes 1 (rollback s) ++ leBytes 21 0)))

/-! ### Booting an image (R486, R491) -/

/-- A slot is tried: its image verified, measured and started. -/
def startSlot (s : State) (slot : Nat) : Option State :=
  match slotImage s slot none with
  | .error _ => none
  | .ok img => some (modBoot s fun b => { b with slot := slot, image := img, meas := shaRec img, hasImage := true })

/-- The ROM's choice of a slot; none when neither can be booted. A slot whose VALID bit is 0 is not tried, but slot A when no
directory is valid. -/
def bootSelect (s : State) : State × Bool :=
  let d := dirRec s
  let blank := (dirNow s).isNone
  let a := dirNext d
  let may (slot : Nat) : Bool := dirOk d slot || (blank && slot == 0)
  let other (s : State) : State × Bool :=
    let b := 1 - a
    if !may b then (s, false)
    else
      let s := dirUpdate s fun d => setTries (setFld d 447 447 b) b 1
      match startSlot s b with
      | some s => (s, true)
      | none => (s, false)
  if !may a || decide (2 ≤ dirTries d a) then other s
  else
    let s := dirUpdate s fun d => setTries d a (dirTries d a + 1)
    match startSlot s a with
    | some s => (s, true)
    | none => other s

/-- First READY under an image: fuses are blown; then the slot's TRIES return to 0. -/
def firstReady (s : State) : State :=
  let h : BitVec 2048 := recAt 2048 s.boot.image 0
  let s := if s.boot.firstDone.contains s.boot.meas then s
    else modBoot s fun b => { b with
      blown := b.blown + (imRollback h - rollback s)
      revoked := b.revoked ||| BitVec.ofNat 4 (imRevoke h)
      firstDone := b.meas :: b.firstDone }
  dirUpdate s fun d => setTries d s.boot.slot 0

/-! ### The meanings -/

def execFwWrite (r : Req) (s : State) : Res_ := .next (mailbox ⟨0x0901, 16, false, .any⟩ bodyFwWrite r s)
def execFwCommit (r : Req) (s : State) : Res_ := .next (mailbox ⟨0x0902, 8, false, .any⟩ bodyFwCommit r s)
def execFwCommitted (s : State) : Res_ := .next (fwCommitted s)
def execFwStatus (r : Req) (s : State) : Res_ := .next (mailbox ⟨0x0903, 0, true, .any⟩ bodyFwStatus r s)

end Sys2Proof.Machine
end

