-- ==== Sys2Proof/Machine/Attest.lean ====
section
/-! DEFINITION. Attestation reports, certificates, the SPDM responder behind the DOE mailbox, and JTAG (13.6, R497, R521). -/

namespace Sys2Proof.Machine

/-! ### Measurements (R496) -/

/-- PLAN_MEAS; 0 with no active plan. -/
def planMeas (s : State) : BitVec 256 :=
  match s.fab.planA with
  | none => 0
  | some pl => shaRec (pl ++ s.optics.sp.act.flatMap fun r => leBytes 8 r.toNat)

/-- RECIPE_MEAS of a context; 0 when it does not exist. -/
def recipeMeas (s : State) (c : CtxId) : BitVec 256 :=
  if ctxExists s c then shaRec ((getCtx s c).recipes.act.flatMap fun r => leBytes 8 r.toNat) else 0

/-- KEY_IDX of the running image. -/
def imageKey (s : State) : Nat := imKey (recAt 2048 s.boot.image 0)

/-- A signature by the device identity key; each draws a new free value (log 1). -/
def deviceSig (s : State) (digest : BitVec 256) : BitVec 512 × State :=
  (Config.deviceSign s.freeCtr digest, { s with freeCtr := s.freeCtr + 1 })

/-! ### ATTEST and CERT_READ (R494, R493) -/

/-- Report bytes 0 to 255 (Table 13.8). -/
def attBody (s : State) (c : CtxId) (nonce : Nat) : List Byte :=
  let on := ctxExists s c
  leBytes 256 (nonce * 2 ^ 1792 + s.boot.meas.toNat * 2 ^ 1536 + (planMeas s).toNat * 2 ^ 1280 + (recipeMeas s c).toNat * 2 ^ 1024
    + Config.serial.toNat * 2 ^ 960 + s.clk.planSlot.toNat * 2 ^ 912 + (if on then (getCtx s c).fr.num.toNat else 0) * 2 ^ 864
    + imVersion (recAt 2048 s.boot.image 0) * 2 ^ 832 + partKey s * 2 ^ 820 + 1 * 2 ^ 816 + Config.stepping.toNat * 2 ^ 808
    + rollback s * 2 ^ 800 + (revoked s).toNat * 2 ^ 796 + imageKey s * 2 ^ 794 + b2n on * 2 ^ 793 + c.val * 2 ^ 790 + 1 * 2 ^ 768)

/-- Writes bytes to a host window of the given size, or fails (R465). -/
def toWindow (s : State) (addr win winOff : Nat) (bs : List Byte) : State × Reply :=
  if win < bs.length then (s, .now (.fail stWindow (8 * winOff)))
  else match hostWriteTo s addr bs with
    | none => (s, .now (.fail stHostDma noField))
    | some s => (s, .now (.pay_ (leBytes 8 bs.length)))

def bodyAttest : Body := fun s _ c p =>
  checked s [rsv p 44 48]
    (let body := attBody s c (pf p 0 32)
     let (sig, s) := deviceSig s (shaRec body)
     toWindow s (pf p 32 8) (pf p 40 4) 40 (body ++ leBytes 64 sig.toNat))

def bodyCertRead : Body := fun s _ _ p =>
  checked s [rsv p 12 16] (toWindow s (pf p 0 8) (pf p 8 4) 8 Config.certificates)

/-! ### SPDM 1.2 (R497, Table 13.9; message codes PRESUMED from DMTF DSP0274, log 23) -/

/-- An SPDM message: version, code, two parameters, body. -/
def spdmMsg (code p1 p2 : Nat) (body : List Byte) : List Byte :=
  [0x12, BitVec.ofNat 8 code, BitVec.ofNat 8 p1, BitVec.ofNat 8 p2] ++ body

/-- Gives a DOE response. -/
def spdmOut (s : State) (bs : List Byte) : State := { s with cpl := some (.spdm bs) }

/-- ERROR with its code: 1 InvalidRequest, 4 UnexpectedRequest. -/
def spdmErr (s : State) (code : Nat) : State := spdmOut s (spdmMsg 0x7F code 0 [])

/-- The responder runs while Halyard serves and the PCIe link is up; it answers nothing else. A request before its turn is
unexpected. -/
def spdmReq (s : State) (need : Nat) (f : State → State) : State :=
  if !s.pkg.halyardUp || restarting s || !s.pkg.linkUp || !s.pins.perstN then s
  else if s.boot.spdm < need then spdmErr s 4 else f s

def setSpdm (s : State) (n : Nat) : State := modBoot s fun b => { b with spdm := n }

/-- The chain of slot 0, in SPDM form. -/
def spdmChain : List Byte := Config.spdmBytes 2 ++ Config.certificates

def getVersion (s : State) : State :=
  spdmReq s 0 fun s => spdmOut (setSpdm s 1) ([0x10, 0x04, 0, 0, 0, 1, 0, 0x12] : List Byte)

def getCapabilities (s : State) : State :=
  spdmReq s 1 fun s => spdmOut (setSpdm s 2) (spdmMsg 0x61 0 0 (Config.spdmBytes 0))

/-- Only ECDSA P-256 with SHA-256 is supported. -/
def negotiate (s : State) (ecdsa sha : Bool) : State :=
  spdmReq s 2 fun s =>
    if ecdsa && sha then spdmOut (setSpdm s 3) (spdmMsg 0x63 0 0 (Config.spdmBytes 1)) else spdmErr s 1

def getDigests (s : State) : State := spdmReq s 3 fun s => spdmOut s (spdmMsg 0x01 0 1 (sha256 spdmChain))

def getCertificate (s : State) (slot off len : Nat) : State :=
  spdmReq s 3 fun s =>
    if slot ≠ 0 ∨ spdmChain.length ≤ off then spdmErr s 1
    else
      let part := (spdmChain.drop off).take len
      spdmOut s (spdmMsg 0x02 0 0 (leBytes 2 part.length ++ leBytes 2 (spdmChain.length - off - part.length) ++ part))

/-- A 32-byte nonce of the responder: a free value (log 1). -/
def spdmNonce (s : State) : List Byte × State :=
  ((List.range 32).map (Config.freeByte s.freeCtr), { s with freeCtr := s.freeCtr + 1 })

/-- The response bytes with the device signature behind them. -/
def spdmSigned (s : State) (nonce : BitVec 256) (bs : List Byte) : State :=
  let (sig, s) := deviceSig s (shaRec (leBytes 32 nonce.toNat ++ bs))
  spdmOut s (bs ++ leBytes 64 sig.toNat)

/-- The raw value of a measurement index (Table 13.9). -/
def measurement (s : State) (i : Nat) : List Byte :=
  if i = 1 then leBytes 32 s.boot.meas.toNat
  else if i = 2 then leBytes 32 (planMeas s).toNat
  else if i = 11 then leBytes 1 (rollback s) ++ leBytes 1 (revoked s).toNat ++ leBytes 1 (imageKey s)
  else leBytes 32 (recipeMeas s (Fin.ofNat 8 (i - 3))).toNat

/-- A measurement block: index, specification, size, raw digest (or raw bytes for index 11). -/
def measBlock (s : State) (i : Nat) : List Byte :=
  let v := measurement s i
  leBytes 1 i ++ [1] ++ leBytes 2 (v.length + 3) ++ [if i = 11 then 0x83 else 0x00] ++ leBytes 2 v.length ++ v

/-- Every measurement, for the summary hash. -/
def allMeas (s : State) : List Byte := ((List.range 11).map (· + 1)).flatMap (measBlock s)

def challenge (s : State) (slot : Nat) (nonce : BitVec 256) : State :=
  spdmReq s 3 fun s =>
    if slot ≠ 0 then spdmErr s 1
    else
      let (n, s) := spdmNonce s
      spdmSigned s nonce (spdmMsg 0x03 0 1 (sha256 spdmChain ++ n ++ sha256 (allMeas s) ++ leBytes 2 0))

/-- GET_MEASUREMENTS with signature: index 0 asks how many there are, 0xFF asks for all. -/
def getMeasurements (s : State) (i : Nat) (nonce : BitVec 256) : State :=
  spdmReq s 3 fun s =>
    let blocks : Option (Nat × Nat × List Byte) :=
      if i = 0 then some (11, 0, []) else if i = 255 then some (0, 11, allMeas s)
      else if i ≤ 11 then some (0, 1, measBlock s i) else none
    match blocks with
    | none => spdmErr s 1
    | some (p1, n, bs) =>
      let (r, s) := spdmNonce s
      spdmSigned s nonce (spdmMsg 0x60 p1 0 (leBytes 1 n ++ leBytes 3 bs.length ++ bs ++ r ++ leBytes 2 0))

/-- DOE Discovery (PCI Express 6.0, PRESUMED, log 23): entry 0 discovery itself, entry 1 SPDM, then no more. -/
def doeDiscovery (s : State) (i : Nat) : State :=
  if !s.pkg.linkUp || !s.pins.perstN then s
  else spdmOut s (if i ≤ 1 then [0x01, 0x00, BitVec.ofNat 8 i, BitVec.ofNat 8 (if i = 0 then 1 else 0)] else [0xFF, 0xFF, 0, 0])

/-! ### JTAG (R521) -/

def bitsLsb (n x : Nat) : List Bool := (List.range n).map fun i => (x >>> i) % 2 == 1

def idcodeVal : Nat := if Config.steppingB1 then 0x1088096F else 0x0088096F

def jtag (s : State) (ins : Nat) (out : List Bool) : State :=
  if s.pins.pwrgdMast then { modBoot s fun b => { b with jtag := ins } with cpl := some (.jtag out) } else s

/-- BYPASS: one bit of delay. -/
def bypassOut (tdi : List Bool) : List Bool := (false :: tdi).take tdi.length

/-- Boundary scan works only while PERST_N is asserted; else the instruction executes as BYPASS. -/
def scan (s : State) (ins : Nat) (lands : List Bool) : State :=
  if s.pins.perstN then jtag s 1 (bypassOut lands)
  else if s.pins.pwrgdMast then jtag (modBoot s fun b => { b with lands := lands }) ins lands
  else s

/-! ### The meanings -/

def execAttest (r : Req) (s : State) : Res_ := .next (mailbox ⟨0x0A01, 48, true, .any⟩ bodyAttest r s)
def execCertRead (r : Req) (s : State) : Res_ := .next (mailbox ⟨0x0A02, 16, true, .any⟩ bodyCertRead r s)
def execDoeDiscovery (index : Byte) (s : State) : Res_ := .next (doeDiscovery s index.toNat)
def execGetVersion (s : State) : Res_ := .next (getVersion s)
def execGetCapabilities (s : State) : Res_ := .next (getCapabilities s)
def execNegotiateAlgorithms (ecdsaP256 sha : Bool) (s : State) : Res_ := .next (negotiate s ecdsaP256 sha)
def execGetDigests (s : State) : Res_ := .next (getDigests s)
def execGetCertificate (slot off len : Nat) (s : State) : Res_ := .next (getCertificate s slot off len)
def execChallenge (slot : Nat) (nonce : BitVec 256) (s : State) : Res_ := .next (challenge s slot nonce)
def execGetMeasurements (index : Nat) (nonce : BitVec 256) (s : State) : Res_ := .next (getMeasurements s index nonce)
def execIdcode (s : State) : Res_ := .next (jtag s 0 (bitsLsb 32 idcodeVal))
def execBypass (tdi : List Bool) (s : State) : Res_ := .next (jtag s 1 (bypassOut tdi))
def execSamplePreload (lands : List Bool) (s : State) : Res_ := .next (scan s 2 lands)
def execExtest (lands : List Bool) (s : State) : Res_ := .next (scan s 3 lands)

end Sys2Proof.Machine
end

