-- ==== Sys2Proof/Machine/Banks.lean ====
section
/-! DEFINITION. Mailbox commands 0x03xx and 0x04xx: loads of shadow banks, the checks at a swap request, swaps and
their withdrawal, run control and the phase export. -/

namespace Sys2Proof.Machine

/-- A failing field of a bank: status and bit position, or no position. -/
abbrev BankBad := Status × Option Nat

/-- The first failing check of a record at a bit offset. -/
def recBad (off : Nat) (cs : List Chk) : Option BankBad :=
  (cs.find? fun c => c.2.1).map fun c => (c.2.2, some (off + c.1))

/-- The answer for a failing bank field. -/
def BankBad.ans (b : BankBad) : Ans :=
  match b.2 with
  | some p => .failRec b.1 p
  | none => .fail b.1 noField

/-! ### Frame program header (R48, Table 2.1) -/

def hdrChecks (h : BitVec 256) (pagesOk : Bool) : List Chk :=
  let len := fld h 223 192
  [(0, fld h 63 0 != 0, stReserved), (144, fld h 146 144 != 0, stReserved),
   (160, decide (fld h 191 160 < 2) || (decide (2 ≤ len) && decide (len ≤ fld h 191 160)), stField),
   (192, decide (len < 2), stField), (192, decide (2 ≤ len) && !pagesOk, stTranslation),
   (224, fld h 231 224 != 0, stReserved), (232, fld h 239 232 != 1, stField), (240, fld h 255 240 != 1, stVersion)]

/-- Checks the shadow program; the header as read on success. -/
def checkProg (s : State) (x : Ctx) : State × Except BankBad (BitVec 256) :=
  let b := x.prog.sha
  if !b.valid then (s, .error (stField, none))
  else match virtRead s ⟨0, none⟩ x x.ret.act b.base.toNat 32 with
    | (s, .error st) => (s, .error (st, none))
    | (s, .ok bs) =>
      let h := recAt 256 bs 0
      let ok := rangeOk s x x.ret.act false false b.base.toNat (16 * fld h 223 192)
      match recBad 0 (hdrChecks h ok) with
      | some e => (s, .error e)
      | none => (s, .ok h)

/-! ### Slot libraries (R60) -/

def libEntry (lib : Cells) (t e : Nat) : BitVec 32 := recAt 32 (cread lib (32768 * t + 4 * e) 4) 0
def libWord (lib : Cells) (t w : Nat) : BitVec 64 := recAt 64 (cread lib (32768 * t + 8 * w) 8) 0

def leValid (e : BitVec 32) : Bool := bit e 0
def leOffset (e : BitVec 32) : Nat := fld e 31 20
def leLen (e : BitVec 32) : Nat := fld e 19 15 + 1
def leArgk (e : BitVec 32) (k : Nat) : Bool := bit e (11 + k)

def entryChecks (e : BitVec 32) : List Chk :=
  [(1, fld e 10 1 != 0, stReserved),
   (15, leValid e && decide (128 ≤ leOffset e) && decide (leOffset e + fld e 19 15 > 4095), stField),
   (20, leValid e && decide (leOffset e < 128), stField)]

def rwMxop (w : BitVec 64) : Nat := fld w 63 60
def rwVxop (w : BitVec 64) : Nat := fld w 59 56
def rwTxop (w : BitVec 64) : Nat := fld w 55 54
def rwMsop (w : BitVec 64) : Nat := fld w 53 51
def rwMdest (w : BitVec 64) : Nat := fld w 40 33

def wordChecks (w : BitVec 64) : List Chk :=
  [(33, rwMsop w == 0 && rwMdest w != 0, stField), (51, decide (rwMsop w > 3), stField),
   (54, rwTxop w == 3, stField), (56, decide (rwVxop w > 12), stField), (60, decide (rwMxop w > 4), stField)]

/-- Is routine word w reached by a valid entry? -/
def wordUsed (es : List (BitVec 32)) (w : Nat) : Bool :=
  es.any fun e => leValid e && decide (leOffset e ≤ w) && decide (w < leOffset e + leLen e)

/-- Checks the shadow library of one tile: entries first, then the words they reach. -/
def checkLibTile (lib : Cells) (t : Nat) : Option BankBad :=
  let es := (List.range 256).map (libEntry lib t)
  match (List.range 256).findSome? fun e => recBad (32 * e) (entryChecks (es.getD e 0)) with
  | some b => some b
  | none =>
    let ws := (es.filter leValid).flatMap fun e => (List.range (leLen e)).map (leOffset e + ·)
    (List.range 3968).findSome? fun i => if ws.contains (128 + i) then recBad (64 * (128 + i)) (wordChecks (libWord lib t (128 + i))) else none

def checkLib (x : Ctx) : Option BankBad := (List.range (nTiles x)).findSome? (checkLibTile x.lib.sha)

/-! ### Recipes (R136, Table 3.8) -/

def rcFormat (r : BitVec 64) : Nat := fld r 63 60
def rcRule (r : BitVec 64) : Nat := fld r 59 58
def rcRound (r : BitVec 64) : Bool := bit r 57
/-- Retry exponent s. -/
def rcStep (r : BitVec 64) : Nat := fld r 56 54 + 1
def rcFixedX (r : BitVec 64) : Nat := fld r 53 46
def rcPair (r : BitVec 64) : Nat := fld r 45 41
def rcSplane (r : BitVec 64) : Nat := fld r 28 9

def recipeChecks (r : BitVec 64) : List Chk :=
  let f := rcFormat r
  let scaled := decide (3 ≤ f) && decide (f ≤ 10)
  [(0, fld r 8 0 != 0, stReserved),
   (9, (scaled && decide (rcSplane r ≥ tileSize)) || (decide (f < 3) && rcSplane r != 0), stRecipe),
   (29, !rcRound r && fld r 34 29 != 0, stRecipe), (35, !rcRound r && fld r 40 35 != 0, stRecipe),
   (46, (rcRule r == 2 && rcFixedX r == 255) || (decide (rcRule r < 2) && rcFixedX r != 0), stRecipe),
   (58, rcRule r == 3 || (decide (f < 3) && rcRule r != 0) || (scaled && rcRule r == 0), stRecipe),
   (60, decide (f > 10), stRecipe)]

def checkRecipes (rs : List (BitVec 64)) : Option BankBad :=
  (List.range 32).findSome? fun n => recBad (64 * n) (recipeChecks (rs.getD n 0))

/-! ### Retention window (R162, Table 4.3) -/

/-- Does a window lie in the allotment of die d? -/
def dsAllotted (x : Ctx) (d off len : Nat) : Bool :=
  len == 0 || (decide (off + len ≤ 48 * 512) && (List.range 48).all fun u =>
    !(overlap off len (u * 512) 512) || (x.res.ds.toNat >>> (48 * d + u)) % 2 == 1)

def retChecks (x : Ctx) (r : BitVec 512) : List Chk :=
  let layers := fld r 351 344
  let mb := fld r 343 336
  let die1 := fld r 367 352
  let sl := fld r 383 368
  let on := layers != 0
  let base := on && mb != 0 && sl != 0 && decide (die1 ≤ layers * mb)
  let off (v : Nat) : Bool := !on && v != 0
  let va := fld r 511 448
  let vaOk := va % 0x200000 == 0 && decide (va < 2 ^ 48)
  [(0, fld r 335 0 != 0, stReserved),
   (336, (on && mb == 0) || off mb, stRetention),
   (352, (on && mb != 0 && decide (die1 > layers * mb)) || off die1, stRetention),
   (368, (on && sl == 0) || off sl, stRetention),
   (384, (base && decide ((layers * mb - die1) * sl > fld r 399 384)) || off (fld r 399 384), stRetention),
   (400, (on && !dsAllotted x 1 (fld r 415 400) (fld r 399 384)) || off (fld r 415 400), stRetention),
   (416, (base && decide (die1 * sl > fld r 431 416)) || off (fld r 431 416), stRetention),
   (432, (on && !dsAllotted x 0 (fld r 447 432) (fld r 431 416)) || off (fld r 447 432), stRetention),
   (448, off va || (on && !vaOk) || (base && vaOk && (decide (va + retLen r > 2 ^ 48)
      || x.maps.any fun l => overlap l.va l.size va (retLen r))), stRetention)]

/-! ### Dispatch programs (R175, Table 4.7) -/

def dispChecks (e : BitVec 256) : List Chk :=
  let k := fld e 255 252
  let known := decide (k ≤ 4)
  let use (kinds : List Nat) : Bool := kinds.contains k
  let unused (kinds : List Nat) (v : Nat) : Bool := known && !use kinds && v != 0
  let ne := fld e 248 241 + 1
  [(0, fld e 174 0 != 0, stReserved),
   (175, unused [3] (fld e 178 175) || (use [3] && decide (fld e 178 175 > 10)), stDispProg),
   (179, unused [3] (fld e 185 179) || (use [3] && (fld e 185 179 == 0 || decide (fld e 185 179 > 64)
      || decide (fld e 193 186 + fld e 185 179 > ne))), stDispProg),
   (186, unused [3] (fld e 193 186), stDispProg),
   (194, unused [1] (fld e 213 194) || (use [1] && fld e 213 194 == 0), stDispProg),
   (214, unused [1] (fld e 221 214), stDispProg),
   (222, unused [1] (fld e 237 222), stDispProg),
   (238, unused [1] (fld e 239 238) || (use [1] && fld e 239 238 == 3), stDispProg),
   (240, unused [1] (fld e 240 240), stDispProg),
   (241, unused [1, 3] (fld e 248 241), stDispProg),
   (249, unused [1] (fld e 251 249) || (use [1] && decide (fld e 251 249 + 1 > ne)), stDispProg),
   (252, !known, stDispProg)]

def checkDisp (es : List (BitVec 256)) : Option BankBad :=
  (List.range 64).findSome? fun n => recBad (256 * n) (dispChecks (es.getD n 0))

/-! ### Update programs (R206, R207, Tables 5.7 to 5.9) -/

def updCount (img : List Byte) : Nat := (img.length - 64) / 4
def updEntry (img : List Byte) (e : Nat) : BitVec 32 := recAt 32 img (4 * e)
def updInstr (img : List Byte) (i : Nat) : BitVec 32 := recAt 32 img (64 + 4 * i)
def ueValid (e : BitVec 32) : Bool := bit e 0
def ueOffset (e : BitVec 32) : Nat := fld e 31 22
def ueLen (e : BitVec 32) : Nat := fld e 21 14 + 1
def uiOpc (w : BitVec 32) : Nat := fld w 31 26
def uiVd (w : BitVec 32) : Nat := fld w 25 21
def uiVa (w : BitVec 32) : Nat := fld w 20 16
def uiVb (w : BitVec 32) : Nat := fld w 15 11
def uiBk (w : BitVec 32) : Bool := bit w 10
def uiStream (w : BitVec 32) : Nat := fld w 9 7
def uiAcc (w : BitVec 32) : Nat := fld w 6 5

/-- Fields an opcode uses: VD, VA, VB and BK, STREAM, ACC; none for a reserved opcode. -/
def uiUses (o : Nat) : Option (Bool × Bool × Bool × Bool × Bool) :=
  if (1 ≤ o ∧ o ≤ 6) ∨ o = 0x0C then some (true, true, true, false, false)
  else if (7 ≤ o ∧ o ≤ 0x0B) ∨ o = 0x0D then some (true, true, false, false, false)
  else if o = 0x0E then some (true, false, true, false, false)
  else if o = 0x10 ∨ o = 0x11 then some (false, true, false, false, true)
  else if o = 0x12 then some (true, false, false, false, true)
  else if o = 0x20 then some (true, false, false, true, false)
  else if o = 0x21 then some (false, true, false, true, false)
  else if o = 0x3F then some (false, false, false, false, false)
  else none

def instrChecks (w : BitVec 32) : List Chk :=
  match uiUses (uiOpc w) with
  | none => [(0, fld w 4 0 != 0, stUpdProg), (26, true, stUpdProg)]
  | some (d, a, b, st, ac) =>
    [(0, fld w 4 0 != 0, stUpdProg), (5, !ac && uiAcc w != 0, stUpdProg), (7, !st && uiStream w != 0, stUpdProg),
     (10, !b && uiBk w, stUpdProg), (11, (!b && uiVb w != 0) || (b && uiBk w && bit w 15), stUpdProg),
     (16, !a && uiVa w != 0, stUpdProg), (21, !d && uiVd w != 0, stUpdProg)]

/-- The instructions of an entry's body. -/
def updBody (img : List Byte) (e : BitVec 32) : List (BitVec 32) :=
  (List.range (ueLen e)).map fun i => updInstr img (ueOffset e + i)

/-- Does a body break R207? -/
def bodyBad (b : List (BitVec 32)) : Bool :=
  let lds := (b.filter fun w => uiOpc w == 0x20).map uiStream
  let sts := (b.filter fun w => uiOpc w == 0x21).map uiStream
  uiOpc (b.getLastD 0) != 0x3F || (b.dropLast.any fun w => uiOpc w == 0x3F)
    || lds.eraseDups.length != lds.length || sts.eraseDups.length != sts.length
    || decide (lds.length > 8) || decide (sts.length > 8)

def updEntryChecks (img : List Byte) (e : BitVec 32) : List Chk :=
  let inside := decide (ueOffset e + fld e 21 14 < updCount img)
  [(1, fld e 13 1 != 0, stUpdProg), (14, ueValid e && (!inside || bodyBad (updBody img e)), stUpdProg)]

def checkUpd (img : List Byte) : Option BankBad :=
  match (List.range 16).findSome? fun e => recBad (32 * e) (updEntryChecks img (updEntry img e)) with
  | some b => some b
  | none => (List.range (updCount img)).findSome? fun i => recBad (512 + 32 * i) (instrChecks (updInstr img i))

/-! ### Loads (R462) -/

def SwapBit.prog := 0
def SwapBit.lib := 1
def SwapBit.recipes := 2
def SwapBit.ret := 3
def SwapBit.disp := 4
def SwapBit.upd := 5

/-- Is a swap of configuration k pending? -/
def swapPending (s : State) (c : CtxId) (k : Nat) : Bool := bit (getCtx s c).pend k

/-- A load of configuration k after its field checks: refused while a swap of it is pending. -/
def loadBody (s : State) (c : CtxId) (k : Nat) (cs : List Chk) (go : State × Reply) : State × Reply :=
  checked s cs (if swapPending s c k then (s, .now (.fail stSwapPending noField)) else go)

def bodyLoadProgram : Body := fun s _ c p =>
  let va := pf p 0 8
  let lm : List (BitVec 32) := (List.range 16).map fun n => BitVec.ofNat 32 (pf p (8 + 4 * n) 4)
  loadBody s c SwapBit.prog [bad 0 (va % 64 != 0 || decide (va ≥ 2 ^ 48))]
    (modCtx s c fun x => { x with prog := { x.prog with sha := ⟨true, BitVec.ofNat 64 va, lm, 0⟩ } }, .now .ok)

/-- Reads a referenced buffer in context virtual (0) or host (1) space. -/
def fetchBuf (s : State) (c : CtxId) (space addr n field : Nat) : State × Except Ans (List Byte) :=
  if space = 1 then
    match hostRead s addr n with
    | some bs => (s, .ok bs)
    | none => (s, .error (.fail stHostDma noField))
  else
    let x := getCtx s c
    match virtRead s ⟨0, some c⟩ x x.ret.act addr n with
    | (s, .ok bs) => (s, .ok bs)
    | (s, .error st) => (s, .error (.fail st (8 * field)))

def bodyLoadSlotlib : Body := fun s _ c p =>
  let x := getCtx s c
  let mask := pf p 16 32
  loadBody s c SwapBit.lib
    [bad 0 (decide (pf p 0 1 > 1)), rsv p 1 8, bad 8 (pf p 8 8 % 64 != 0 || (pf p 0 1 == 0 && decide (pf p 8 8 ≥ 2 ^ 48))),
     bad 16 (mask == 0 || decide (mask ≥ 2 ^ nTiles x))]
    (match fetchBuf s c (pf p 0 1) (pf p 8 8) 32768 8 with
     | (s, .error a) => (s, .now a)
     | (s, .ok bs) =>
       (modCtx s c fun x => { x with lib := { x.lib with
          sha := (bitsOf 256 mask).foldl (fun m t => cwrite m (32768 * t) bs) x.lib.sha } }, .now .ok))

def bodyLoadRecipes : Body := fun s _ c p =>
  loadBody s c SwapBit.recipes []
    (modCtx s c fun x => { x with recipes := { x.recipes with sha := (List.range 32).map fun n => recAt 64 p (8 * n) } }, .now .ok)

def bodyLoadRetention : Body := fun s _ c p =>
  loadBody s c SwapBit.ret [] (modCtx s c fun x => { x with ret := { x.ret with sha := recAt 512 p 0 } }, .now .ok)

def bodyLoadDispatch : Body := fun s _ c p =>
  loadBody s c SwapBit.disp []
    (modCtx s c fun x => { x with disp := { x.disp with sha := (List.range 64).map fun n => recAt 256 p (32 * n) } }, .now .ok)

/-- LOAD_UPDATE: an image, or a program of the Oxward update library (R208). -/
def bodyLoadUpdate : Body := fun s _ c p =>
  let kind := pf p 0 1
  let len := pf p 2 2
  let set (s : State) (img : List Byte) : State × Reply :=
    (modCtx s c fun x => { x with updp := { x.updp with sha := img } }, .now .ok)
  loadBody s c SwapBit.upd
    [bad 0 (decide (kind > 1)), bad 1 (decide (pf p 1 1 > 1) || (kind == 1 && pf p 1 1 != 0)),
     bad 2 ((kind == 0 && (decide (len < 68) || decide (len > 4160) || len % 4 != 0)) || (kind == 1 && len != 0)),
     rsv p 4 8, bad 8 ((kind == 1 && pf p 8 8 != 0) || (kind == 0 && pf p 1 1 == 0 && decide (pf p 8 8 ≥ 2 ^ 48))),
     (128, kind == 1 && (Config.updateLibrary (BitVec.ofNat 32 (pf p 16 4))).isNone, stLibUnknown), rsv p 20 24]
    (if kind = 1 then
       match Config.updateLibrary (BitVec.ofNat 32 (pf p 16 4)) with
       | some img => set s img
       | none => (s, .now (.fail stLibUnknown 128))
     else match fetchBuf s c (pf p 1 1) (pf p 8 8) len 8 with
       | (s, .error a) => (s, .now a)
       | (s, .ok bs) => set s bs)

/-! ### Swaps (R39 to R44, R459, R462, R463) -/

def Bank.flip {α : Type} (b : Bank α) : Bank α := ⟨b.sha, b.act⟩

/-- All swaps of a mask take effect together (R41, R42); a program swap makes issue continue at ENTRY16. -/
def swapCtx (x : Ctx) (mask : Nat) : Ctx :=
  let on (k : Nat) : Bool := (mask >>> k) % 2 == 1
  { x with
    prog := if on 0 then x.prog.flip else x.prog
    lib := if on 1 then x.lib.flip else x.lib
    recipes := if on 2 then x.recipes.flip else x.recipes
    ret := if on 3 then x.ret.flip else x.ret
    disp := if on 4 then x.disp.flip else x.disp
    updp := if on 5 then x.updp.flip else x.updp
    pend := x.pend &&& ~~~(BitVec.ofNat 8 mask)
    applied := x.applied ||| BitVec.ofNat 8 mask
    is := if on 0 then { x.is with fresh := true } else x.is }

/-- Swaps take effect, with SWAP_APPLIED; V1 is the frame number at the swap (Table 11.22). -/
def applySwaps (s : State) (c : CtxId) (mask : Nat) : State :=
  if mask = 0 then s
  else
    let s := modCtx s c fun x => swapCtx x mask
    raise s (ctxEvent c evSwapApplied mask (getCtx s c).fr.num.toNat 0 0 0)

/-- The checks of one configuration's shadow, with the program header as read. -/
def checkBank (c : CtxId) (r : State × Option BankBad) (k : Nat) : State × Option BankBad :=
  match r.2 with
  | some _ => r
  | none =>
    let s := r.1
    let x := getCtx s c
    match k with
    | 0 => match checkProg s x with
      | (s, .error b) => (s, some b)
      | (s, .ok h) => (modCtx s c fun x => { x with prog := { x.prog with sha := { x.prog.sha with hdr := h } } }, none)
    | 1 => (s, checkLib x)
    | 2 => (s, checkRecipes x.recipes.sha)
    | 3 => (s, recBad 0 (retChecks x x.ret.sha))
    | 4 => (s, checkDisp x.disp.sha)
    | _ => (s, checkUpd x.updp.sha)

/-- SWAP: at once while IDLE, else pending for the next tick. -/
def bodySwap : Body := fun s _ c p =>
  let mask := pf p 0 1
  checked s [bad 0 (mask == 0 || decide (mask > 63)), (0, mask &&& (getCtx s c).pend.toNat != 0, stSwapPending), rsv p 1 8]
    (match (bitsOf 6 mask).foldl (checkBank c) (s, none) with
     | (s, some b) => (s, .now b.ans)
     | (s, none) =>
       if (getCtx s c).run = .idle then (applySwaps s c mask, .now .ok)
       else (modCtx s c fun x => { x with pend := x.pend ||| BitVec.ofNat 8 mask }, .now .ok))

/-- WITHDRAW (R43). -/
def bodyWithdraw : Body := fun s _ c p =>
  let mask := pf p 0 1
  let x := getCtx s c
  let took := x.applied.toNat &&& mask
  checked s [bad 0 (mask == 0 || decide (mask > 63)), rsv p 1 8]
    (setCtx s c { x with pend := x.pend &&& ~~~(BitVec.ofNat 8 mask), applied := x.applied &&& ~~~(BitVec.ofNat 8 mask) },
     .now ⟨if took = 0 then stOk else stSwapTook, noField, leBytes 8 took⟩)

/-! ### Run control (R51, R459) -/

/-- Address of ENTRY16 of the active program. -/
def entryAddr (x : Ctx) : Nat := x.prog.act.base.toNat + 16 * fld x.prog.act.hdr 191 160

/-- Issue continues at ENTRY16: every open loop dropped, the loop buffer emptied (R100). -/
def restart (x : Ctx) : Ctx :=
  modIs x fun i => { i with pc := entryAddr x, rep := 0, cur := [], loops := [], loopBuf := none, fresh := false }

/-- RUN. -/
def bodyRun : Body := fun s _ c p =>
  let x := getCtx s c
  checked s [bad 0 (decide (pf p 0 1 > 1)), rsv p 1 8]
    (if !x.prog.act.valid then (s, .now (.fail stCtxState noField))
     else
       let x := if x.is.fresh then restart x else x
       (setCtx s c { x with run := .running, is := { x.is with tickIrq := pf p 0 1 == 1, stopReq := false } }, .now .ok))

/-- STOP: IDLE follows at the next tick. -/
def bodyStop : Body := fun s _ c _ => (modCtx s c fun x => modIs x fun i => { i with stopReq := true }, .now .ok)

/-- SLIP_CLEAR (R410). -/
def bodySlipClear : Body := fun s _ c _ => (modCtx s c fun x => { x with slips := [], slipOther := 0 }, .now .ok)

/-- Is every page of a range mapped, local, writable, in HBM? -/
def hbmWritable (s : State) (x : Ctx) (va n : Nat) : Bool :=
  rangeOk s x x.ret.act true false va n &&
    (List.range (n / 0x200000 + 2)).all fun i =>
      let a := va + i * 0x200000
      decide (a ≥ va + n) || (match xlate s x x.ret.act a with | some t => isHbm (localPart t.addr) | none => false)

/-- PHASE_EXPORT (R474). -/
def bodyPhaseExport : Body := fun s _ c p =>
  let x := getCtx s c
  let va := pf p 0 8
  let n := pf p 8 4
  checked s
    [bad 0 (n != 0 && (va % 64 != 0 || decide (va + 576 * n > 2 ^ 48))),
     (0, n != 0 && !rangeOk s x x.ret.act false false va (576 * n), stTranslation),
     bad 0 (n != 0 && !hbmWritable s x va (576 * n)), rsv p 12 16]
    (setCtx s c { x with expVa := BitVec.ofNat 64 va, expN := BitVec.ofNat 32 n }, .now .ok)

/-! ### The meanings -/

def execLoadProgram (r : Req) (s : State) : Res_ := .next (mailbox ⟨0x0301, 72, true, .live⟩ bodyLoadProgram r s)
def execLoadSlotlib (r : Req) (s : State) : Res_ := .next (mailbox ⟨0x0302, 48, true, .live⟩ bodyLoadSlotlib r s)
def execLoadRecipes (r : Req) (s : State) : Res_ := .next (mailbox ⟨0x0303, 256, true, .live⟩ bodyLoadRecipes r s)
def execLoadRetention (r : Req) (s : State) : Res_ := .next (mailbox ⟨0x0304, 64, true, .live⟩ bodyLoadRetention r s)
def execLoadDispatch (r : Req) (s : State) : Res_ := .next (mailbox ⟨0x0305, 2048, true, .live⟩ bodyLoadDispatch r s)
def execLoadUpdate (r : Req) (s : State) : Res_ := .next (mailbox ⟨0x0306, 24, true, .live⟩ bodyLoadUpdate r s)
def execRun (r : Req) (s : State) : Res_ := .next (mailbox ⟨0x0401, 8, true, .idle⟩ bodyRun r s)
def execStop (r : Req) (s : State) : Res_ := .next (mailbox ⟨0x0402, 0, true, .running⟩ bodyStop r s)
def execSwap (r : Req) (s : State) : Res_ := .next (mailbox ⟨0x0403, 8, true, .idleOrRunning⟩ bodySwap r s)
def execWithdraw (r : Req) (s : State) : Res_ := .next (mailbox ⟨0x0404, 8, true, .exists_⟩ bodyWithdraw r s)
def execSlipClear (r : Req) (s : State) : Res_ := .next (mailbox ⟨0x0405, 0, true, .exists_⟩ bodySlipClear r s)
def execPhaseExport (r : Req) (s : State) : Res_ := .next (mailbox ⟨0x0406, 16, true, .idle⟩ bodyPhaseExport r s)

end Sys2Proof.Machine
end

