-- ==== Sys2Proof/Machine/Optics.lean ====
section
/-! DEFINITION. Heater loops, Stay port acquisition and the light rotation (7.2 to 7.5). -/

namespace Sys2Proof.Machine

/-! ### Laser lines (Table 7.10) -/

def lcRole (l : Line) : Nat := fld l.lc 103 96
def lcState (l : Line) : Nat := fld l.lc 95 92
def lcFibre (l : Line) : Nat := fld l.lc 91 88
def lcDrive (l : Line) : Nat := fld l.lc 79 64
def lcTap (l : Line) : Nat := fld l.lc 63 48
def lcComm (l : Line) : Nat := fld l.lc 47 32
/-- A line with a field of its record replaced. -/
def lcSet (l : Line) (hi lo v : Nat) : Line := { l with lc := setFld l.lc hi lo v }

/-- The line that holds a role, serving or failed while its swap runs. -/
def lineOf (s : State) (role : Nat) : Option Nat :=
  (List.range 32).find? fun n => let l := getLine s n; lcRole l == role && (lcState l == 3 || lcState l == 5)

/-- Pilot tone of a line in kHz (R268). -/
def toneOf (line : Nat) : Nat := 20 + line

/-- The line that holds a role, on or off. -/
def roleLine (s : State) (role : Nat) : Option Nat := (List.range 32).find? fun n => lcRole (getLine s n) == role

/-- Frequency of a role under a set-point table, minus 191.000 THz, in MHz (Tables 7.2, 7.9, R269). -/
def spFreq (sp : List (BitVec 64)) (r : Nat) : Nat :=
  if r < 16 then 2400000 + 400000 * (r / 4) else 600000 + 100000 * spCh (sp.getD r 0)

/-- A role's line serving on the frequency of a table, or off. -/
def setLinePower (s : State) (role : Nat) (on : Bool) (freq : Nat) : State :=
  match roleLine s role with
  | none => s
  | some n =>
    let l := getLine s n
    if lcState l = 5 then s
    else if on then setLine s n (lcSet (lcSet l 127 104 freq) 95 92 3)
    else setLine s n (lcSet l 95 92 0)

/-! ### Loops (R270 to R275) -/

/-- Lock-in detection over a 4 ms window (R270): from the amplitudes at 20 to 51 kHz, in tenths of a dB, the tone in kHz that stands
at least 10 dB above every other; else no tone. -/
def lockIn (amps : List Int) : Option Nat :=
  ((List.range 32).find? fun i => (List.range 32).all fun j => j == i || decide (amps.getD j 0 + 100 ≤ amps.getD i 0)).map (20 + ·)

/-- TONE field for a lock-in result. -/
def toneField : Option Nat → BitVec 6
  | some t => BitVec.ofNat 6 (t - 20)
  | none => 0x3F

/-- Does a lock-in result match a set of tones? No tone never does. -/
def toneIn (ts : List Nat) : Option Nat → Bool
  | some t => ts.contains t
  | none => false

/-- The tones that a pilot check of a loop accepts (Table 7.3, R274). -/
def expected (s : State) (i : Nat) : List Nat :=
  match loopLane i with
  | some n => (match lineOf s n with | some l => [toneOf l] | none => [])
  | none =>
    let j := i - 176
    tget ((List.range 4).map (20 + 4 * (j % 4) + ·)) s.optics.pilot j

/-- Index of a loop of a die, when it exists. -/
def loopIx (die : Fin 2) (m : Nat) : Option Nat :=
  if die = 0 then (if m < 232 then some m else none) else if m < 64 then some (1024 + m) else none

/-- WRONG_LOCKS plus one. -/
def wrongUp (w : BitVec 8) : BitVec 8 := if w = 0xFF then w else w + 1

/-- Shroud port and wavelength class of a receive loop (Table 7.3). -/
def loopRecv (i : Nat) : Option (Nat × Nat) :=
  if 176 ≤ i ∧ i < 232 then some ((i - 176) % 28 / 4, i % 4) else none

/-- A loop after a transition. A receiver whose loop locks anew is retrained: its equaliser states are stale (R280, log 61). -/
def moveLoop (s : State) (i : Nat) (l : HLoop) : State :=
  let s := setLoop s i l
  match loopRecv i, l.st with
  | none, _ => s
  | _, .verify => s
  | _, .locked => s
  | _, .hold => s
  | some (port, c), _ => modOpt s fun o => { o with fresh := o.fresh.filter fun e => !(e.1 == port && e.2 / 4 == c) }

/-- Is receiver SIk.c usable: neither of its loops in FAULT (R273)? -/
def recvUsable (s : State) (port c : Nat) : Bool := (recvLoops (port + 1) c).all fun i => (getLoop s i).st != .fault

/-- A loop enters FAULT (R273): heater at mid-range, its Stay port dark, LOOP_FAULT raised. `v` is the count tested. -/
def loopFault (s : State) (i v : Nat) : State :=
  let s := moveLoop s i { getLoop s i with st := .fault, heater := 0x800 }
  let s := match loopLane i with
    | some n => if n ≥ 16 then portDown s (lanePort n) 10 else s
    | none => s
  let s := raise s (pkgEvent evLoopFault 3 (256 * (i / 1024) + i % 1024) v 3)
  reasonOn s 10

/-- One loop command: does nothing for a loop that does not exist or stands in another state. -/
def onLoop (s : State) (die : Fin 2) (m : Nat) (st : LoopState) (f : Nat → HLoop → State) : State :=
  match loopIx die m with
  | some i => if (getLoop s i).st = st then f i (getLoop s i) else s
  | none => s

def peakFound (s : State) (die : Fin 2) (m peak : Nat) : State :=
  onLoop s die m .sweep fun i l =>
    if l.peaks.contains peak then s
    else moveLoop s i { l with st := .acquire, cur := peak, heater := BitVec.ofNat 12 peak }

def sweepExhausted (s : State) (die : Fin 2) (m : Nat) : State := onLoop s die m .sweep fun i _ => loopFault s i 3

def lockBandMet (s : State) (die : Fin 2) (m : Nat) : State :=
  onLoop s die m .acquire fun i l => moveLoop s i { l with st := .verify }

def acquireTimeout (s : State) (die : Fin 2) (m : Nat) : State :=
  onLoop s die m .acquire fun i l => moveLoop s i { l with st := .sweep }

/-- The identity check: the pilot for rings, the metric for every other element. -/
def verifyDone (s : State) (die : Fin 2) (m : Nat) (amps : List Int) (metric : Bool) : State :=
  onLoop s die m .verify fun i l =>
    let tone := lockIn amps
    let pass := if loopPilot i then toneIn (expected s i) tone else metric
    let l := { l with tone := if loopPilot i then toneField tone else l.tone }
    if pass then moveLoop s i { l with st := .locked, fails := 0, peaks := [] }
    else
      let l := { l with wrong := wrongUp l.wrong, fails := l.fails + 1, peaks := l.cur :: l.peaks, st := .sweep }
      let s := moveLoop s i l
      if l.fails ≥ 3 then loopFault s i 3 else s

/-- The repeated pilot check of a locked ring. -/
def pilotCheck (s : State) (die : Fin 2) (m : Nat) (amps : List Int) : State :=
  onLoop s die m .locked fun i l =>
    if !loopPilot i then s
    else
      let l := { l with tone := toneField (lockIn amps) }
      if toneIn (expected s i) (lockIn amps) then moveLoop s i l
      else moveLoop s i { l with st := .sweep, wrong := wrongUp l.wrong }

def lockLost (s : State) (die : Fin 2) (m : Nat) : State :=
  onLoop s die m .locked fun i l => moveLoop s i { l with st := .acquire }

def loopLightLost (s : State) (die : Fin 2) (m temp : Nat) : State :=
  onLoop s die m .locked fun i l => moveLoop s i { l with st := .hold, holdT := temp }

def loopLightReturn (s : State) (die : Fin 2) (m : Nat) (inBand : Bool) (temp : Nat) : State :=
  onLoop s die m .hold fun i l =>
    let moved := if temp ≥ l.holdT then temp - l.holdT else l.holdT - temp
    moveLoop s i { l with st := if moved ≥ 4 then .sweep else if inBand then .locked else .acquire }

/-- LOOP_RESET: a loop in FAULT sweeps again. -/
def bodyLoopReset : Body := fun s _ _ p =>
  let die := pf p 0 1
  let m := pf p 2 2
  checked s [bad 0 (decide (die > 1)), rsv p 1 2, bad 2 (decide (die ≤ 1) && decide (m ≥ (if die = 0 then 232 else 64))), rsv p 4 8]
    (let i := 1024 * die + m
     let l := getLoop s i
     (if l.st = .fault then moveLoop s i { l with st := .sweep, fails := 0 } else s, .now .ok))

/-- Loops of a lane that a step of Table 7.6 brings up. -/
def stepLoops (step n : Nat) : List Nat :=
  (laneLoops n).filter fun i =>
    let m := i % 1024
    step == if i < 1024 then (if m < 16 then 2 else if m < 64 then 3 else 4) else (if m < 8 then 2 else if m < 56 then 3 else 5)

/-- One loop of a lane at the end of its step: LOCKED on its pilot, or in FAULT. The heater code is a free value (log 1). A lane
that no line serves has no light to lock on: its loops stay as they are but for those that end in FAULT (log 61). -/
def calibrateLoop (faults : List Nat) (n : Nat) (s : State) (i : Nat) : State :=
  let l := getLoop s i
  if l.st = .fault then s
  else if faults.contains i then loopFault s i 3
  else match lineOf s n with
    | none => s
    | some k =>
      if lcState (getLine s k) ≠ 3 then s
      else
        let (h, s) := drawNat s
        moveLoop s i { l with st := .locked, fails := 0, peaks := [], heater := BitVec.ofNat 12 h,
                              tone := if loopPilot i then toneField (some (toneOf k)) else l.tone }

/-- Steps 2 to 5 of the internal calibration of a set of lanes, each once the step before has ended (R276). -/
def calibrate (s : State) (lanes : List Nat) (faults : List Nat) : State :=
  [2, 3, 4, 5].foldl (fun s k => lanes.foldl (fun s n => (stepLoops k n).foldl (calibrateLoop faults n) s) s) s

/-- Loops in FAULT of a lane sweep again (Table 7.4). -/
def unfault (s : State) (n : Nat) : State :=
  (laneLoops n).foldl (fun s i =>
    let l := getLoop s i
    if l.st = .fault then moveLoop s i { l with st := .sweep, fails := 0 } else s) s

/-- Every transmit loop that is not in FAULT into HOLD (R292). -/
def holdLoops (s : State) : State :=
  (List.range 24).foldl (fun s n => (laneLoops n).foldl (fun s i =>
    let l := getLoop s i
    if l.st = .fault then s else setLoop s i { l with st := .hold, holdT := tget 0 s.reef.hTemp (i / 1024) }) s) s

/-! ### Discovery records out (R347, Table 8.15) -/

/-- A discovery record joins the output queue of a port, unless one waits there; a fenced package sends none on Shroud and Stay
ports. What it says is taken when it leaves. -/
def sendDisc (s : State) (port : Nat) : State :=
  if !s.pins.perstN || s.optics.dark || (s.pkg.fenced && decide (port < 13)) || (s.fab.outq.any fun e => e.1 == port && isDisc e.2.carries)
  then s else emitTo s port .mgt 0 0 1 [] (.disc 0)

/-! ### Stay and Backstay ports (R282) -/

/-- Does what arrives on a port count: not in package reset, and not on a fenced Shroud or Stay port? -/
def heard (s : State) (port : Nat) : Bool := s.pins.perstN && !(s.pkg.fenced && decide (port < 13))

def stayLight (s : State) (i : Fin 8) : State :=
  let p := 7 + i.val
  let n := 16 + i.val
  let x := getPort s p
  if heard s p && x.stay == .dark && spEn (laneSp s n) && (laneLoops n).all fun j => (getLoop s j).st == .locked
  then setPort s p { x with stay := .acquiring } else s

def stayAcquired (s : State) (i : Fin 8) : State :=
  let p := 7 + i.val
  let x := getPort s p
  if heard s p && x.stay == .acquiring then sendDisc (setPort s p { x with stay := .trained }) p else s

def noLock (s : State) (i : Fin 8) : State :=
  let p := 7 + i.val
  if (getPort s p).stay = .acquiring then raise (portDown s p 10) (pkgEvent evNoLock 1 p 1 1) else s

/-- STAY_LIGHT_LOST (Table 7.8, R338): a port that decodes frames goes DARK; from ACQUIRING only NO_LOCK leads there, and a laser
swap of either end is excepted. -/
def stayLightLost (s : State) (i : Fin 8) : State :=
  let p := 7 + i.val
  match (getPort s p).stay with
  | .trained => portDown s p 10
  | .up => portDown s p 10
  | _ => s

def laserSwapTimeout (s : State) (i : Fin 8) : State :=
  let p := 7 + i.val
  if (getPort s p).stay = .laserSwap then portDown s p 100 else s

/-- Peer that lane ST(4c + j) points at in round r of the light rotation (R277). -/
def rotationPeer (j r : Nat) : Nat := (j + 4 * r) % 7 + 1

/-- Does peer k's light reach this package in round r? Peers run the rounds together, and a peer's output 8 - k leads here. -/
def rotationSees (k r : Nat) : Bool := (List.range 4).any fun j => rotationPeer j r == 8 - k

/-- Receive loops without light in a round are in HOLD until the next visit (R277, Table 7.4). -/
def holdUnseen (s : State) (r : Nat) : State :=
  (List.range 56).foldl (fun s m =>
    let i := 176 + m
    let l := getLoop s i
    if l.st == .locked && !rotationSees (m % 28 / 4 + 1) r then moveLoop s i { l with st := .hold, holdT := tget 0 s.reef.hTemp 0 }
    else s) s

/-- One round of the light rotation (R277): an enabled, usable lane points at its peer, any other is parked. -/
def rotationRound (s : State) : State :=
  if s.optics.dark || s.pkg.fenced || !s.pins.perstN then s
  else
    let r := s.optics.rot
    let s := (List.range 16).foldl (fun s n => setLane s n { getLane s n with
      point := if spEn (laneSp s n) && laneUsable s n then some (rotationPeer (n % 4) r) else none }) s
    modOpt (holdUnseen s r) fun o => { o with rot := (r + 1) % 7 }

/-! ### The meanings -/

def execLoopReset (r : Req) (s : State) : Res_ := .next (mailbox ⟨0x0804, 8, false, .any⟩ bodyLoopReset r s)
def execLoopPeakFound (die : Fin 2) (loop peak : Nat) (s : State) : Res_ := .next (peakFound s die loop peak)
def execLoopSweepExhausted (die : Fin 2) (loop : Nat) (s : State) : Res_ := .next (sweepExhausted s die loop)
def execLoopLockBandMet (die : Fin 2) (loop : Nat) (s : State) : Res_ := .next (lockBandMet s die loop)
def execLoopAcquireTimeout (die : Fin 2) (loop : Nat) (s : State) : Res_ := .next (acquireTimeout s die loop)
def execLoopVerifyDone (die : Fin 2) (loop : Nat) (amps : List Int) (metric : Bool) (s : State) : Res_ :=
  .next (verifyDone s die loop amps metric)
def execLoopPilotCheck (die : Fin 2) (loop : Nat) (amps : List Int) (s : State) : Res_ := .next (pilotCheck s die loop amps)
def execLoopLockLost (die : Fin 2) (loop : Nat) (s : State) : Res_ := .next (lockLost s die loop)
def execLoopLightLost (die : Fin 2) (loop temp : Nat) (s : State) : Res_ := .next (loopLightLost s die loop temp)
def execLoopLightReturn (die : Fin 2) (loop : Nat) (inBand : Bool) (temp : Nat) (s : State) : Res_ :=
  .next (loopLightReturn s die loop inBand temp)
def execStayLightDetected (port : Fin 8) (s : State) : Res_ := .next (stayLight s port)
def execStayAcquired (port : Fin 8) (s : State) : Res_ := .next (stayAcquired s port)
def execNoLock (port : Fin 8) (s : State) : Res_ := .next (noLock s port)
def execStayLightLost (port : Fin 8) (s : State) : Res_ := .next (stayLightLost s port)
def execLaserSwapTimeout (port : Fin 8) (s : State) : Res_ := .next (laserSwapTimeout s port)
def execLightRotationRound (s : State) : Res_ := .next (rotationRound s)

end Sys2Proof.Machine
end

