-- ==== Sys2Proof/Machine/Cartridge.lean ====
section
/-! DEFINITION. The laser cartridge: presence, authentication, line status, fade tests, spare swaps, power faults
and the laser-cartridge command group (7.7, 7.8, 13.7, R518, R519). -/

namespace Sys2Proof.Machine

/-! ### Fixed figures of a role (Tables 7.2, 7.9) -/

/-- Role frequency minus 191.000 THz, in MHz. -/
def roleFreq (s : State) (r : Nat) : Nat := spFreq s.optics.sp.act r

/-- Cartridge fibre of a role. -/
def roleFibre (r : Nat) : Nat := if r < 16 then r % 4 else if r < 20 then 4 else 5

/-- 64-bit two's complement of a figure in an event. -/
def twos (v : Int) : Nat := (v % 2 ^ 64).toNat

def splice (bs : List Byte) (off : Nat) (new : List Byte) : List Byte := bs.take off ++ new ++ bs.drop (off + new.length)

/-! ### The cartridge's own store (R288, R290, R291, R499) -/

/-- An authenticated write to the cartridge: the mapping as it now stands, with the life record changed. -/
def cartWrite (s : State) (f : List Byte → List Byte) : State :=
  modOpt s fun o => { o with
    cartMap := (List.range 32).map fun n => (tget Line.init o.lines n).lc
    cartLife := f o.cartLife
    cartCtr := o.cartCtr + 1 }

/-- Offset of line n's entry in LC_LIFE. -/
def lifeLine (n : Nat) : Nat := 32 + 16 * n

/-- A commissioning value is set (R290): in LC_LINE, in the life record and in the Field book. The manual gives that
record no event code: a free value (log 1). -/
def commission (s : State) (n : Nat) (tap : BitVec 16) : State :=
  let s := setLine s n (lcSet (getLine s n) 47 32 tap.toNat)
  let s := cartWrite s fun bs => splice bs (lifeLine n + 6) (leBytes 2 tap.toNat)
  let (code, s) := drawNat s
  fbAppend s 0x30 1 (eventBody { code := code, kind := 2, subj := n, v0 := tap.toNat })

/-- COMMISSIONING: 60 s after lock, for a serving line that has no value yet. -/
def commissioning (s : State) (n : Nat) (tap : BitVec 16) : State :=
  let l := getLine s n
  if lcState l = 3 ∧ lcComm l = 0x8000 then commission s n tap else s

/-! ### Spares and swaps (R296, R298, Table 7.13) -/

/-- Fewer than two spares in state OFF (Table 11.17, reason 3). -/
def spareHealth (s : State) : State :=
  let off := (List.range 8).filter fun i => lcState (getLine s (24 + i)) == 0
  if off.length < 2 then reasonOn (modHal s fun h => { h with spareCart := s.optics.cartSerial }) 3 else s

/-- The lowest spare in state OFF that no swap has chosen. -/
def freeSpare (s : State) : Option Nat :=
  ((List.range 8).map (24 + ·)).find? fun n => lcState (getLine s n) == 0 && !(s.optics.swaps.any fun w => w.spare == n)

/-- Die that a role's Trim controller serves. -/
def roleDie (r : Nat) : Nat := if r < 16 then 0 else 1

/-- Step 2 of a swap begins: its spare is powered and tuned to the role frequency. -/
def tuneSpare (s : State) (w : LSwap) : State :=
  let l := getLine s w.spare
  let l := lcSet (lcSet l 127 104 (roleFreq s w.role)) 95 92 1
  let s := setLine s w.spare (lcSet l 87 80 (toneOf w.spare))
  spareHealth (modOpt s fun o => { o with swaps := o.swaps.map fun v => if v = w then { w with step := 2 } else v })

/-- The swap of lowest role that waits on a die whose controller is free begins to tune its spare. -/
def tuneNext (s : State) (die : Nat) : State :=
  let on := s.optics.swaps.filter fun w => roleDie w.role == die
  if on.any fun w => w.step == 2 then s
  else match (List.range 24).findSome? fun r => on.find? fun w => w.role == r && w.step == 1 with
    | none => s
    | some w => tuneSpare s w

/-- No spare is left (R298): said once per role that triggers, and again when the role's line recovers or is replaced. -/
def sparesExhausted (s : State) (role : Nat) (v0 v1 : Nat) : State :=
  if s.optics.spExh.contains role then s
  else
    let s := modOpt s fun o => { o with spExh := role :: o.spExh }
    reasonOn (raise s (pkgEvent evSparesExh 2 ((lineOf s role).getD role) v0 v1)) 10

/-- Starts the swap of a role (step 1). No swap starts without cartridge power (R518). -/
def startSwap (s : State) (role : Nat) (now : Bool) (v0 v1 : Nat) : State :=
  if !s.pins.lcPwrEn then s
  else if s.optics.swaps.any fun w => w.role == role then s
  else match freeSpare s with
    | none => sparesExhausted s role v0 v1
    | some n =>
      let s := raise s (pkgEvent evSwapStart 2 ((lineOf s role).getD role) v0 v1)
      tuneNext (modOpt s fun o => { o with swaps := o.swaps ++ [⟨role, n, 1, now⟩] }) (roleDie role)

/-- Tones of the lines that serve ST0 to ST15: the pilot map, with one role's new line. -/
def pilotMap (s : State) (role spare : Nat) : List (Nat × Nat) :=
  (List.range 16).filterMap fun n =>
    if n = role then some (n, toneOf spare) else (lineOf s n).map fun l => (n, toneOf l)

/-- The slot at which the lane's next SWAP segment starts; while no plan is active every slot is free for a swap. -/
def nextSwapSlot (s : State) (role : Nat) : Nat :=
  let per := phPeriod (hdrA s)
  let ds := ((planSegs s).filter fun g => sgLane g == role && sgKind g == 2).map fun g => (sgStart g + per - slotIndex s - 1) % per + 1
  s.clk.planSlot.toNat + ds.foldl (fun m d => if m = 0 then d else min m d) 0

/-- A notice on one port, where it is UP and may carry it (R341, R342). -/
def noticeOn (s : State) (p : Nat) (tones : List (Nat × Nat)) (slot : Option (BitVec 48)) : State :=
  if (getPort s p).st = .up ∧ mayClass s p .mgt then emitTo s p .mgt 0 0 1 [] (.notice tones slot) else s

/-- The swap notice of step 3: the pilot map to every board peer, or the tone and the slot to the port's neighbour. A lane whose line
is lost has no light to send its own notice by. -/
def swapNotice (s : State) (w : LSwap) : State :=
  let slot := if w.now then none else some (BitVec.ofNat 48 (nextSwapSlot s w.role))
  if w.role < 16 then (List.range 7).foldl (fun s p => noticeOn s p (pilotMap s w.role w.spare) slot) s
  else if (getLane s w.role).lost then s
  else noticeOn s (lanePort w.role) [(w.role, toneOf w.spare)] slot

/-- The role's port in LASER_SWAP, where it carried traffic (R282, R299). -/
def enterLaserSwap (s : State) (role : Nat) : State :=
  if role < 16 then s
  else
    let p := lanePort role
    let x := getPort s p
    match x.stay with
    | .dark => s
    | _ => setPort s p { x with stay := .laserSwap }

/-- Steps 5 to 8: the fibre input is switched, the old line retired, the spare serves the role. -/
def finishSwap (s : State) (w : LSwap) : State :=
  let old := lineOf s w.role
  let s := match old with
    | some n =>
      let l := getLine s n
      let l := lcSet (lcSet l 103 96 0xFF) 91 88 0xF
      setLine s n { (if lcState l = 5 then l else lcSet l 95 92 4) with warned := false, wanted := false, warnNs := none }
    | none => s
  let l := getLine s w.spare
  let l := lcSet (lcSet (lcSet (lcSet l 103 96 w.role) 95 92 3) 91 88 (roleFibre w.role)) 47 32 0x8000
  let s := setLine s w.spare { l with warned := false, wanted := false, warnNs := none }
  let s := setLane s w.role { getLane s w.role with lost := false, burst := if w.role < 16 then List.range 7 else [] }
  let s := if w.role < 16 then (List.range 7).foldl (fun s p => redoFrom s w.role p 0) s
    else
      let p := lanePort w.role
      match (getPort s p).stay with
      | .dark => s
      | _ => setPort s p { getPort s p with stay := .acquiring }
  let s := modOpt s fun o => { o with swaps := o.swaps.filter fun v => v != w, spExh := o.spExh.filter (· != w.role) }
  let hours : Nat := leNat ((s.optics.cartLife.drop 20).take 4)
  let entry (bs : List Byte) (n role st : Nat) : List Byte :=
    splice (splice bs (lifeLine n) (leBytes 4 hours)) (lifeLine n + 4) (leBytes 2 (st * 16 + role * 256))
  let s := cartWrite s fun bs =>
    let bs := splice bs 14 (leBytes 2 (leNat ((bs.drop 14).take 2) + 1))
    let bs := entry bs w.spare w.role 3
    match old with
    | some n => entry bs n 0xFF (lcState (getLine s n))
    | none => bs
  raise s (pkgEvent evSwapDone 2 w.spare 0 0)

/-- A swap loses its spare: it goes on with the next one, at step 2 where the controller tunes for it (R298). -/
def nextSpare (s : State) (w : LSwap) : State :=
  let s := modOpt s fun o => { o with swaps := o.swaps.filter fun v => v != w }
  let s := match freeSpare s with
    | none => sparesExhausted s w.role 0 0
    | some n =>
      let v : LSwap := ⟨w.role, n, 1, w.now⟩
      let s := modOpt s fun o => { o with swaps := o.swaps ++ [v] }
      if w.step = 2 then tuneSpare s v else s
  tuneNext (cartWrite s id) (roleDie w.role)

/-- Does the locker confirm a spare: within 1.0 GHz of the role frequency, and the spare's own tone found (Table 7.13, R270)? -/
def lockerOk (spare : Nat) (offMhz : Int) (amps : List Int) : Bool :=
  decide (-1000 ≤ offMhz) && decide (offMhz ≤ 1000) && lockIn amps == some (toneOf spare)

/-- SPARE_TUNED: step 2 ends, well or badly, with the frequency that the locker measures. -/
def spareTuned (s : State) (role : Nat) (offMhz : Int) (amps : List Int) : State :=
  match s.optics.swaps.find? fun w => w.role == role && w.step == 2 with
  | none => s
  | some w =>
    let s := setLine s w.spare (lcSet (getLine s w.spare) 127 104 ((roleFreq s role : Int) + offMhz).toNat)
    if lockerOk w.spare offMhz amps then
      let s := setLine s w.spare (lcSet (getLine s w.spare) 95 92 2)
      let s := swapNotice s w
      let s := modOpt s fun o => { o with swaps := o.swaps.map fun v => if v = w then { w with step := 4 } else v }
      tuneNext (if w.now then finishSwap s { w with step := 4 } else s) (roleDie role)
    else
      let s := setLine s w.spare (lcSet (getLine s w.spare) 95 92 5)
      nextSpare (raise s (pkgEvent evSwapFail 2 w.spare 0 0)) w

/-- SWAP_SLOT: the lane's swap slot begins. -/
def swapSlot (s : State) (role : Nat) : State :=
  match s.optics.swaps.find? fun w => w.role == role && w.step == 4 with
  | none => s
  | some w => finishSwap (enterLaserSwap s role) w

/-! ### Fade tests (R287, R294, R295) -/

/-- Does a pending set-point swap change EN or CH of a lane? -/
def setpointPends (s : State) (n : Nat) : Bool :=
  s.fab.pendT.isSome &&
    (let a := s.optics.sp.act.getD n 0
     let b := s.optics.sp.sha.getD n 0
     spEn a != spEn b || spCh a != spCh b)

/-- FADE_WARN of one line, or its recovery by 0.5 dB; the time of the crossing stays (R295). -/
def fadeWarn (s : State) (n : Nat) : State :=
  let l := getLine s n
  let tap := signed 16 (lcTap l)
  let lim := signed 16 (lcComm l) - 100
  if lcTap l = 0x8000 then s
  else if tap ≤ lim then
    if l.warned then s
    else raise (setLine s n { l with warned := true, warnNs := some s.clk.mastNs })
      (pkgEvent evFadeWarn 2 n (twos tap) (twos lim))
  else if tap ≥ lim + 50 then setLine s n { l with warned := false }
  else s

/-- Serving lines of a fibre that crossed the warning level in the 60 s up to a time. -/
def fibreCount (s : State) (f t : Nat) : Nat :=
  ((List.range 32).filter fun n =>
    let l := getLine s n
    lcState l == 3 && lcFibre l == f && (match l.warnNs with
      | some u => decide (u ≤ t) && decide (t < u + 60000000000)
      | none => false)).length

/-- FIBRE_FADE (R295). -/
def fibreFade (s : State) (f : Nat) : State :=
  if s.optics.fibreFade.contains f then s
  else if (List.range 32).any fun n => (match (getLine s n).warnNs with | some t => decide (3 ≤ fibreCount s f t) | none => false) then
    reasonOn (raise (modOpt s fun o => { o with fibreFade := f :: o.fibreFade }) (pkgEvent evFibreFade 0 f 3 3)) 4
  else s

/-- A swap trigger is acted on: a swap, or SWAP_WANTED once until the line recovers or is replaced (R294). -/
def fadeAct (s : State) (role v0 v1 : Nat) : State :=
  match lineOf s role with
  | none => s
  | some n =>
    let l := getLine s n
    if spAuto (laneSp s role) then startSwap s role false v0 v1
    else if l.wanted then s
    else raise (setLine s n { l with wanted := true }) (pkgEvent evSwapWanted 2 n v0 v1)

/-- The swap trigger of one role. While a set-point swap of its lane is pending the trigger waits for the epoch (R287). -/
def fadeTrigger (s : State) (role : Nat) : State :=
  match lineOf s role with
  | none => s
  | some n =>
    let l := getLine s n
    if lcState l ≠ 3 ∨ lcComm l = 0x8000 then s
    else
      let tap := signed 16 (lcTap l)
      let lim := signed 16 (lcComm l) - 200
      let byTap := lcTap l != 0x8000 && decide (tap ≤ lim)
      let byDrive := decide (lcDrive l ≥ 900)
      let trig := (byTap && !s.optics.fibreFade.contains (lcFibre l)) || byDrive
      let v0 := if byDrive && !byTap then lcDrive l else twos tap
      let v1 := if byDrive && !byTap then 900 else twos lim
      if !trig then
        (if !byDrive && decide (tap ≥ lim + 50) then
           modOpt (setLine s n { l with wanted := false }) fun o => { o with spExh := o.spExh.filter (· != role) }
         else s)
      else if s.optics.swaps.any fun w => w.role == role then s
      else if setpointPends s role then
        (if s.optics.due.any fun e => e.1 == role then s else modOpt s fun o => { o with due := o.due ++ [(role, v0, v1)] })
      else fadeAct s role v0 v1

/-- Triggers that waited for a plan epoch are acted on where the lane is still enabled (R287). -/
def fadeDue (s : State) : State :=
  s.optics.due.foldl (fun s e => if spEn (laneSp s e.1) && !(s.optics.swaps.any fun w => w.role == e.1) then fadeAct s e.1 e.2.1 e.2.2 else s)
    (modOpt s fun o => { o with due := [] })

/-- FADE_TEST, over the commissioned serving lines in role order. -/
def fadeTest (s : State) : State :=
  let lines := (List.range 24).filterMap fun r => match lineOf s r with
    | some n => if lcState (getLine s n) = 3 ∧ lcComm (getLine s n) ≠ 0x8000 then some n else none
    | none => none
  let s := lines.foldl fadeWarn s
  let s := (List.range 6).foldl fibreFade s
  (List.range 24).foldl fadeTrigger s

/-- LINE_FAILED (R299). -/
def lineFailed (s : State) (n : Nat) : State :=
  if !s.pkg.cartOk then s
  else
    let l := getLine s n
    let role := lcRole l
    let s := raise (setLine s n (lcSet l 95 92 5)) (pkgEvent evLineFailed 2 n 0 0)
    if lcState l = 3 ∧ role < 24 then
      let s := setLane s role { getLane s role with lost := true, point := none }
      let s := enterLaserSwap s role
      match s.optics.swaps.find? fun w => w.role == role with
      | some w =>
        if w.step = 4 then finishSwap s w
        else modOpt s fun o => { o with swaps := o.swaps.map fun v => if v = w then { w with now := true } else v }
      | none => startSwap s role true 0 0
    else match s.optics.swaps.find? fun w => w.spare == n with
      | some w => nextSpare s w
      | none => cartWrite s id

/-- LC_LINE_POLL (R289): each line's record as read, but for the commissioning value, which the Mirram keeps; a line that reads FAILED
for the first time is lost (R299). -/
def linePoll (s : State) (rs : List (BitVec 128)) : State :=
  if s.pkg.cartOk then
    (List.range 32).foldl (fun s n =>
      match rs[n]? with
      | none => s
      | some r =>
        let l := getLine s n
        let failed := fld r 95 92 == 5 && lcState l != 5
        let r := setFld r 47 32 (lcComm l)
        let s := setLine s n { l with lc := if failed then setFld (setFld r 95 92 (lcState l)) 103 96 (lcRole l) else r }
        if failed then lineFailed s n else s) s
  else s

/-! ### Presence, authentication, power (R292, R500, R518, R519) -/

/-- A TYPE 0x0070 record (R481, R500): CODE 0, with the given figures. -/
def bootRecord (s : State) (v0 v1 : Nat) (st : Status) : State :=
  fbAppend s 0x70 1 (eventBody { code := 0, v0 := v0, v1 := v1, status := st.toNat })

/-- Lanes that the active set-point table enables. -/
def enabledLanes (s : State) : List Nat := (List.range 24).filter fun n => spEn (laneSp s n)

/-- The package adopts the mapping that the cartridge stores (R288). -/
def adoptMap (s : State) : State :=
  modOpt s fun o => { o with
    lines := (List.range 32).map fun n => (n, (⟨o.cartMap.getD n lcLineReset, false, false, none⟩ : Line)) }

/-- A serial authenticated for the first time in this package has no commissioning values yet (R290). -/
def firstSeen (s : State) : State :=
  if s.optics.cartSeen.contains s.optics.cartSerial then s
  else modOpt s fun o => { o with
    lines := (List.range 32).map fun n => let l := tget Line.init o.lines n; (n, lcSet l 47 32 0x8000)
    cartSeen := o.cartSerial :: o.cartSeen }

/-- Authentication fails: power off, loops in HOLD, every transmitter dark (R500). -/
def authFailed (s : State) (step : Nat) : State :=
  let s := modPins s fun p => { p with lcPwrEn := false }
  let s := holdLoops (modOpt s fun o => { o with dark := true })
  bootRecord (modPkg s fun p => { p with cartOk := false }) 0 step stCartAbsent

/-- Opens the shutters of the enabled Stay and Backstay lanes and lets light out; the rotation counts from its first round (R277,
R283). -/
def lightOn (s : State) : State :=
  let s := modOpt s fun o => { o with dark := false, rot := 0 }
  (enabledLanes s).foldl (fun s n =>
    if n < 16 ∨ (s.pkg.fenced ∧ n < 22) then s else setLane s n { getLane s n with open_ := true }) s

/-- Step 1 of Table 7.6 for the enabled lanes: the lines of their roles powered at role frequency; a lane whose line has failed is
lost. -/
def powerLines (s : State) : State :=
  (enabledLanes s).foldl (fun s n =>
    match roleLine s n with
    | none => s
    | some k => if lcState (getLine s k) = 5 then setLane s n { getLane s n with lost := true, point := none }
                else setLinePower s n true (roleFreq s n)) s

/-- Swaps still due at start-up or insertion: of an enabled lane whose line the cartridge holds as failed, and those that a package
reset abandoned (R299, R300). -/
def swapsDue (s : State) : State :=
  let due := s.optics.due
  (enabledLanes s).foldl (fun s n =>
    if (getLane s n).lost then startSwap s n true 0 0
    else if due.any fun e => e.1 == n then startSwap s n false 0 0 else s) (modOpt s fun o => { o with due := [] })

/-- Steps 1 to 5 of Table 7.6: cartridge power, the stored mapping, the lines and loops of the enabled lanes, with every transmitter
dark. -/
def calibrateCart (s : State) (faults : List Nat) : State :=
  let s := modPins s fun p => { p with lcPwrEn := true }
  let s := modOpt s fun o => { o with lcHold := false, lcWait := false, spExh := [] }
  let s := adoptMap s
  let s := (List.range 24).foldl (fun s n => if (getLane s n).lost then setLane s n { getLane s n with lost := false } else s) s
  let s := powerLines s
  calibrate s (enabledLanes s) faults

/-- Every step of the authentication has passed: CART_OK, the cartridge records its host, and an insertion where this is one; swaps
still due begin (R292, R300, R498). -/
def authPassed (s : State) (insertion : Bool) : State :=
  let s := firstSeen (modPkg s fun p => { p with cartOk := true })
  let s := cartWrite s fun bs =>
    splice (splice bs 0 (leBytes 8 Config.serial.toNat)) 12 (leBytes 2 (leNat ((bs.drop 12).take 2) + b2n insertion))
  swapsDue (spareHealth s)

/-- Indices of loops named by die and number. -/
def loopList (fs : List (Nat × Nat)) : List Nat := fs.map fun p => 1024 * p.1 + p.2

/-- An insertion, or power restored after a fault: authentication, then power and calibration, then light (R292). -/
def restoreCart (s : State) (authFail : Nat) (faults : List (Nat × Nat)) : State :=
  if authFail ≠ 0 then authFailed s authFail else lightOn (authPassed (calibrateCart s (loopList faults)) true)

/-- CARTRIDGE_INSERTED. In package reset the cartridge waits for start-up (R501); after a load-switch fault it waits until
LC_FAULT_N has been high for 1 s (R519). -/
def cartInserted (s : State) (e : CartEnv) : State :=
  if !s.pins.lcPresN then s
  else
    let s := modPins s fun p => { p with lcPresN := false }
    let s := modOpt s fun o => { o with cartSerial := e.serial, cartMap := e.lines, cartLife := e.life, cartCtr := 0 }
    if !s.pins.perstN then s
    else if !s.pins.lcFaultN then modOpt s fun o => { o with lcWait := true }
    else restoreCart s e.authFail e.faults

/-- CARTRIDGE_REMOVED: a swap in progress is abandoned, its spare in the state that the cartridge last stored. -/
def cartRemoved (s : State) : State :=
  if s.pins.lcPresN then s
  else
    let s := modPins s fun p => { p with lcPresN := true, lcPwrEn := false }
    let s := modPkg s fun p => { p with cartOk := false }
    let s := s.optics.swaps.foldl (fun s w =>
      let l := getLine s w.spare
      setLine s w.spare { l with lc := setFld (s.optics.cartMap.getD w.spare lcLineReset) 47 32 (lcComm l) }) s
    let s := modOpt s fun o => { o with dark := true, swaps := [], due := [], lcWait := false, cartSerial := 0, cartMap := [], cartLife := [] }
    if !s.pins.perstN then s
    else
      let s := holdLoops s
      let s := (List.range 24).foldl (fun s n =>
        setLane s n { getLane s n with point := none, open_ := false }) s
      let s := (List.range 8).foldl (fun s i => portDown s (7 + i) 10) s
      raise s (pkgEvent evCartRemoved 0 0 0 0)

/-- LC_FAULT (R518). -/
def lcFault (s : State) : State :=
  let s := modPins s fun p => { p with lcFaultN := false }
  if !s.pins.lcPwrEn then s
  else
    let serving := (List.range 32).filter fun n => lcState (getLine s n) == 3 && decide (lcRole (getLine s n) < 24)
    let s := modPins s fun p => { p with lcPwrEn := false }
    let s := modOpt s fun o => { o with lcHold := true }
    serving.foldl (fun s n =>
      let role := lcRole (getLine s n)
      let s := setLane s role { getLane s role with lost := true, point := none }
      raise (enterLaserSwap s role) (pkgEvent evLineFailed 2 n 0 0)) s

/-- LC_FAULT_N_HIGH (R519): a pending restoration takes the insertion path. -/
def lcFaultHigh (s : State) (authFail : Nat) (faults : List (Nat × Nat)) : State :=
  let s := modPins s fun p => { p with lcFaultN := true }
  if s.optics.lcWait && s.pins.perstN && !s.pins.lcPresN then restoreCart s authFail faults else s

/-- CASE_TEMPERATURE_CHECK (R293). -/
def caseTemp (s : State) (t : Nat) : State :=
  if s.pkg.cartOk && decide (t > 60) then raise s (pkgEvent evLcHot 0 0 t 60) else s

/-! ### Commands (0x0Bxx) -/

def cartAbsent (s : State) : Bool := !s.pkg.cartOk

/-- LC_LIFE_READ: the life record and its signature, 608 bytes. -/
def bodyLifeRead : Body := fun s _ _ p =>
  let addr := pf p 0 8
  if cartAbsent s then (s, .now (.fail stCartAbsent noField))
  else checked s [(64, decide (pf p 8 4 < 608), stWindow), rsv p 12 16]
    (let rec_ := (s.optics.cartLife ++ List.replicate 544 0).take 544
     let sig := (Config.cartridgeSign rec_ ++ List.replicate 64 0).take 64
     match hostWriteTo s addr (rec_ ++ sig) with
     | none => (s, .now (.fail stHostDma noField))
     | some s => (s, .now (.pay_ (leBytes 8 608))))

/-- LC_SWAP. -/
def bodyLcSwap : Body := fun s _ _ p =>
  let role := pf p 0 1
  checked s [bad 0 (decide (role > 23)), rsv p 1 8]
    (if cartAbsent s then (s, .now (.fail stCartAbsent noField))
     else if s.optics.swaps.any fun w => w.role == role then (s, .now (.fail stSwapPending noField))
     else if (freeSpare s).isNone then (sparesExhausted s role 0 0, .now (.fail stNoSpare noField))
     else if !s.pins.lcPwrEn then (s, .now (.fail stOpticsNot noField))
     else (startSwap s role false 0 0, .now .ok))

/-- LC_RECOMMISSION: the serving lines of a fibre take their 60 s average as commissioning value. -/
def bodyRecommission (taps : List (Nat × BitVec 16)) : Body := fun s _ _ p =>
  let f := pf p 0 1
  checked s [bad 0 (decide (f > 5)), rsv p 1 8]
    (if cartAbsent s then (s, .now (.fail stCartAbsent noField))
     else
       let s := ((List.range 32).filter fun n => lcState (getLine s n) == 3 && lcFibre (getLine s n) == f).foldl (fun s n =>
         let tap := match taps.find? fun t => t.1 == n with
           | some t => t.2
           | none => BitVec.ofNat 16 (lcTap (getLine s n))
         commission s n tap) s
       (modOpt s fun o => { o with fibreFade := o.fibreFade.filter (· != f) }, .now .ok))

/-- LC_POWER_RETRY (R519). -/
def bodyPowerRetry (authFail : Nat) (faults : List (Nat × Nat)) : Body := fun s _ _ _ =>
  if s.pins.lcPresN then (s, .now (.fail stCartAbsent noField))
  else if !s.pins.lcFaultN then (s, .now (.fail stOpticsNot noField))
  else if !s.optics.lcHold then (s, .now .ok)
  else
    let s := restoreCart s authFail faults
    (s, .now (if authFail ≠ 0 then .fail stCartAbsent noField else .ok))

/-! ### The meanings -/

def execLcLifeRead (r : Req) (s : State) : Res_ := .next (mailbox ⟨0x0B01, 16, false, .any⟩ bodyLifeRead r s)
def execLcSwap (r : Req) (s : State) : Res_ := .next (mailbox ⟨0x0B02, 8, false, .any⟩ bodyLcSwap r s)
def execLcRecommission (r : Req) (taps : List (Nat × BitVec 16)) (s : State) : Res_ :=
  .next (mailbox ⟨0x0B03, 8, false, .any⟩ (bodyRecommission taps) r s)
def execLcPowerRetry (r : Req) (e : PowerEnv) (s : State) : Res_ :=
  .next (mailbox ⟨0x0B04, 0, false, .any⟩ (bodyPowerRetry e.authFail e.faults) r s)
def execCartridgeRemoved (s : State) : Res_ := .next (cartRemoved s)
def execCartridgeInserted (e : CartEnv) (s : State) : Res_ := .next (cartInserted s e)
def execLcFault (s : State) : Res_ := .next (lcFault s)
def execLineFailed (line : Fin 32) (s : State) : Res_ := .next (lineFailed s line.val)
def execLcLinePoll (readings : List (BitVec 128)) (s : State) : Res_ := .next (linePoll s readings)
def execFadeTest (s : State) : Res_ := .next (fadeTest s)
def execSpareTuned (role : Fin 24) (e : LockerEnv) (s : State) : Res_ := .next (spareTuned s role.val e.offMhz e.amps)
def execSwapSlot (role : Fin 24) (s : State) : Res_ := .next (swapSlot s role.val)
def execCommissioning (line : Fin 32) (tap : BitVec 16) (s : State) : Res_ := .next (commissioning s line.val tap)
def execCaseTemperatureCheck (temp : Nat) (s : State) : Res_ := .next (caseTemp s temp)
def execLcFaultNHigh (e : PowerEnv) (s : State) : Res_ := .next (lcFaultHigh s e.authFail e.faults)

end Sys2Proof.Machine
end

