-- ==== Sys2Proof/Machine/CtxCmds.lean ====
section
/-! DEFINITION. Mailbox commands 0x01xx and 0x02xx: contexts, mappings, grants, BAR2 windows and row remap,
with the rows that complete an unmap. -/

namespace Sys2Proof.Machine

/-! ### Creation, allotment, query (R414, R415, R461) -/

/-- Resources named by a CTX_CREATE or CTX_ALLOT payload. -/
def resOf (p : List Byte) : Res :=
  ⟨BitVec.ofNat 32 (pf p 0 4), BitVec.ofNat 64 (pf p 8 8), BitVec.ofNat 32 (pf p 4 4), BitVec.ofNat 96 (pf p 16 12),
   BitVec.ofNat 576 (pf p 40 72)⟩

/-- Resources held by contexts other than c. -/
def heldBy (s : State) (c : CtxId) (f : Res → Nat) : Nat :=
  (allCtxs.filter fun d => d != c && ctxExists s d).foldl (fun acc d => acc ||| f (getCtx s d).res) 0

/-- Checks of the fields that CTX_CREATE and CTX_ALLOT share, in the order of R25: what fails TILE_COLS besides, and which die-store
and HBM units are in use and may not go. -/
def allotChecks (s : State) (c : CtxId) (p : List Byte) (colsBad : Bool) (dsUsed hbmUsed : List Nat) : List Chk :=
  [bad 0 colsBad,
   (0, (pf p 0 4 &&& heldBy s c (·.cols.toNat)) != 0, stBusy),
   (32, pf p 7 1 != 0, stReserved),
   (32, (pf p 4 4 &&& heldBy s c (·.upd.toNat)) != 0, stBusy),
   (64, pf p 14 2 != 0, stReserved),
   (64, (pf p 8 8 &&& heldBy s c (·.movers.toNat)) != 0, stBusy),
   (128, (pf p 16 12 &&& heldBy s c (·.ds.toNat)) != 0, stBusy),
   (128, dsUsed.any (fun u => (pf p 16 12 >>> u) % 2 == 0), stConflict),
   rsv p 28 40,
   (320, pf p 111 1 ≥ 128, stField),
   (320, hbmUsed.any (fun u => (pf p 40 72 >>> u) % 2 == 0), stConflict)]

/-- CTX_CREATE: the context exists and is IDLE, everything as at creation. -/
def bodyCtxCreate : Body := fun s _ c p =>
  checked s (allotChecks s c p (pf p 0 4 == 0) [] [])
    (setCtx s c { Ctx.init with run := .idle, res := resOf p }, .now .ok)

/-- 1 GiB units of HBM in which a context has local mappings. -/
def mappedUnits (s : State) (x : Ctx) : List Nat :=
  (x.maps.filter fun l => isLocal s l.addr && isHbm (localPart l.addr)).map fun l => localPart l.addr / 0x40000000

/-- Die-store units (0 to 95) that hold a mapping of a context or a window of either RET_WIN bank. -/
def dsInUse (s : State) (x : Ctx) : List Nat :=
  (x.maps.filterMap fun l => if isLocal s l.addr then
      match place (localPart l.addr) with
      | some (.die d o) => some (48 * d + o / 0x200000)
      | _ => none else none)
    ++ [x.ret.act, x.ret.sha].flatMap fun r =>
      (List.range 96).filter fun u =>
        let o := (u % 48) * 512
        if u < 48 then decide (fld r 431 416 > 0) && overlap (fld r 447 432) (fld r 431 416) o 512
        else decide (fld r 399 384 > 0) && overlap (fld r 415 400) (fld r 399 384) o 512

/-- CTX_ALLOT: movers, update units, die-store units and HBM units of an IDLE context. -/
def bodyCtxAllot : Body := fun s _ c p =>
  let x := getCtx s c
  checked s (allotChecks s c p (pf p 0 4 != x.res.cols.toNat) (dsInUse s x) (mappedUnits s x))
    (setCtx s c { x with res := resOf p }, .now .ok)

/-- Codes of the run states (Table 12.10, CTX_QUERY). -/
def runCode : RunState → Nat
  | .none => 0 | .idle => 1 | .running => 2 | .stopped => 3 | .resetting => 4

/-- CTX_QUERY. -/
def bodyCtxQuery : Body := fun s _ c _ =>
  let x := getCtx s c
  (s, .now (.pay_ (leBytes 1 (runCode x.run) ++ leBytes 1 0 ++ leBytes 2 x.stop.toNat ++ leBytes 2 x.epoch.toNat
    ++ leBytes 1 x.pend.toNat ++ leBytes 1 0 ++ leBytes 8 x.fr.num.toNat ++ leBytes 4 x.res.cols.toNat ++ leBytes 4 0
    ++ leBytes 8 x.res.movers.toNat)))

/-- SET_SR_SEED. -/
def bodySetSrSeed : Body := fun s _ c p =>
  (modCtx s c fun x => { x with srSeed := BitVec.ofNat 64 (pf p 0 8) }, .now .ok)

/-! ### Sparse windows (R168, R169) -/

def spwBase (w : BitVec 64) : Nat := fld w 23 4
def spwLen (w : BitVec 64) : Nat := fld w 43 24
def spwMeta (w : BitVec 64) : Nat := fld w 63 44
def spwEn (w : BitVec 64) : Bool := bit w 0

/-- Are BASE, LEN and META of a register in their own ranges (Table 4.5)? -/
def spwBaseOk (w : BitVec 64) : Bool := spwBase w % 1024 == 0 && (spwEn w || spwBase w == 0)
def spwLenOk (w : BitVec 64) : Bool := spwLen w % 1024 == 0 && (if spwEn w then spwLen w != 0 else spwLen w == 0)
def spwMetaOk (w : BitVec 64) : Bool := spwMeta w % 64 == 0

/-- Do the areas of two enabled registers overlap: the window of the one with the window or the metadata of the other; false while a
field that takes part breaks its own range (R531). -/
def spwHitsWin (w v : BitVec 64) : Bool :=
  spwEn v && spwLenOk w && spwLenOk v &&
    ((spwBaseOk v && overlap (spwBase w) (spwLen w) (spwBase v) (spwLen v))
      || (spwMetaOk v && overlap (spwBase w) (spwLen w) (spwMeta v) (spwLen v / 4)))

/-- The same for the metadata area of the one. -/
def spwHitsMeta (w v : BitVec 64) : Bool :=
  spwEn v && spwMetaOk w && spwLenOk v &&
    ((spwBaseOk v && overlap (spwMeta w) (spwLen w / 4) (spwBase v) (spwLen v))
      || (spwMetaOk v && overlap (spwMeta w) (spwLen w / 4) (spwMeta v) (spwLen v / 4)))

/-- The checks of register n, each in its field's turn (R25, R531): a rule between areas belongs to the lowest field of theirs, so BASE
has what bounds the window and LEN what bounds the metadata area, against the registers above; EN only says whether a rule applies
(log 54). -/
def spwChecks (ws : List (BitVec 64)) (n : Nat) : List Chk :=
  let w := ws.getD n 0
  let above := ws.drop (n + 1)
  [(64 * n + 1, fld w 3 1 != 0, stReserved),
   (64 * n + 4, !spwBaseOk w, stField),
   (64 * n + 4, spwEn w && spwLenOk w && (decide (spwBase w + spwLen w > tileSize)
      || (spwMetaOk w && overlap (spwBase w) (spwLen w) (spwMeta w) (spwLen w / 4)) || above.any (spwHitsWin w)), stWindowInv),
   (64 * n + 24, !spwLenOk w, stField),
   (64 * n + 24, spwEn w && spwMetaOk w && (decide (spwMeta w + spwLen w / 4 > tileSize) || above.any (spwHitsMeta w)), stWindowInv),
   (64 * n + 44, !spwMetaOk w, stField)]

/-- SET_SPARSE. -/
def bodySetSparse : Body := fun s _ c p =>
  let ws := (List.range 4).map fun n => recAt 64 p (8 * n)
  checked s ((List.range 4).flatMap (spwChecks ws)) (modCtx s c fun x => { x with spw := ws }, .now .ok)

/-! ### Reset and destroy (R416, R417) -/

def bodyCtxReset : Body := fun s n c _ =>
  (requestReset s c ⟨0, some n, false, s.clk.mastNs, 0⟩, .later (.reset c))

def bodyCtxDestroy : Body := fun s n c _ =>
  (requestReset s c ⟨6, some n, true, s.clk.mastNs, 0⟩, .later (.destroy c))

/-! ### Mappings (R226 to R232) -/

def pageSize (sz : Nat) : Nat := if sz = 1 then 0x40000000 else 0x200000

/-- Level-2 tables in use, over all contexts. -/
def l2Tables (s : State) : Nat := (allCtxs.map fun c => (getCtx s c).tables.length).sum

/-- New level-2 tables that a map needs. -/
def l2New (x : Ctx) (va n : Nat) : Nat :=
  ((List.range (n / 0x40000000 + 2)).filter fun i =>
    let g := va / 0x40000000 + i
    decide (g * 0x40000000 < va + n) && !(x.tables.any fun t => t.1 == g)).length

/-- Does [a, a + n) stay inside the units of a bitmap of the given unit size and base? -/
def inUnits (bm base unit a n : Nat) : Bool :=
  decide (a ≥ base) && (List.range ((a + n - 1 - base) / unit - (a - base) / unit + 1)).all fun i =>
    (bm >>> ((a - base) / unit + i)) % 2 == 1

/-- The target rules of Table 6.5 for [a, a + n) of a board address. A SIZE or WR that breaks its own range takes no part: the
rules that need it are left to that field (R228). -/
def targetOk (s : State) (c : CtxId) (b n sz wr : Nat) : Bool :=
  let x := getCtx s c
  let a := localPart b
  let aligned := decide (sz > 1) || b % pageSize sz == 0
  let small := sz != 1
  let noHal := decide (a + n ≤ halyardBase)
  if isLocal s b then
    match place a with
    | some (.hbm _) =>
      aligned && noHal && inUnits x.res.hbm.toNat 0 0x40000000 a n &&
        (if wr = 1 then
          !((otherLeaves s c).any fun l => isLocal s l.addr && overlap l.addr l.size b n)
            && !(x.maps.any fun l => l.wr && overlap l.addr l.size b n)
         else decide (wr > 1) || !((otherLeaves s c ++ x.maps).any fun l => l.wr && overlap l.addr l.size b n))
    | some (.die d _) =>
      aligned && small && decide (a + n ≤ dieBase d + dieSize)
        && inUnits (x.res.ds.toNat >>> (48 * d)) (dieBase d) 0x200000 a n
    | _ =>
      aligned && small && decide (0xF100000000 ≤ a) && decide (a + n ≤ 0xF110000000)
        && inUnits x.res.cols.toNat 0xF100000000 0x800000 a n
  else
    aligned && small &&
      ((isHbm a && noHal) || (match place a with | some (.die d _) => decide (a + n ≤ dieBase d + dieSize) | _ => false))
      && decide (a + n ≤ 0x10000000000)

/-- Marked pages under a new mapping are zero-filled before it completes (R422). -/
def unmark (s : State) (b n : Nat) : State :=
  let hit := s.mem.marked.filter fun l => overlap l.addr l.size b n
  hit.foldl (fun s l => memZero (modMem s fun m => { m with marked := m.marked.filter (· != l) }) (localPart l.addr) l.size) s

/-- MAP, with the rules of Table 6.5 in the order of R25 and R531. Where PAGES is 0 the target rules look at the one page that ADDR
names, and where SIZE is out of range at its first byte: neither needs the broken field (DEDUCED, log 60). -/
def bodyMap : Body := fun s _ c p =>
  let x := getCtx s c
  let va := pf p 0 8
  let b := pf p 8 8
  let pages := pf p 16 4
  let sz := pf p 20 1
  let wr := pf p 21 1
  let size := pageSize sz
  let n := pages * size
  let pOk := pages != 0
  let sOk := decide (sz ≤ 1)
  match firstBad
    [(0, sOk && (va % size != 0 || (pOk && decide (va + n > 2 ^ 48))), stField),
     (0, sOk && pOk && ((retLen x.ret.act != 0 && overlap (fld x.ret.act 511 448) (retLen x.ret.act) va n)
        || (retLen x.ret.sha != 0 && overlap (fld x.ret.sha 511 448) (retLen x.ret.sha) va n)
        || x.maps.any fun l => overlap l.va l.size va n), stConflict),
     (64, decide (b ≥ 2 ^ 43), stField),
     (64, !targetOk s c b (if !sOk then 1 else if pOk then n else size) sz wr, stConflict),
     bad 16 (pages == 0), bad 20 (decide (sz > 1)), bad 21 (decide (wr > 1)), rsv p 22 24] with
  | some a => (s, .now a)
  | none =>
    if sz = 0 ∧ l2Tables s + l2New x va n > 16384 then (s, .now (.fail stTableFull noField))
    else
      let s := if isLocal s b then unmark s b n else s
      let ls := (List.range pages).map fun i => (⟨va + i * size, b + i * size, sz == 1, wr == 1⟩ : Leaf)
      (ls.foldl (addLeaf c) s, .now .ok)

/-! ### Unmap and its drain (R230 to R232) -/

/-- Does a request in service hold a translation of [va, va + n)? -/
def holdsRange (va n : Nat) (q : SrvReq) : Bool := q.phase != .queued && q.holds.any fun h => decide (0 < h.2) && overlap h.1 h.2 va n

/-- Is any leaf of a drain still held? -/
def drainHeld (x : Ctx) (d : Drain) : Bool := x.queue.any fun q => d.leaves.any fun l => holdsRange l.va l.size q

/-- Is a page of a local range covered by a grant of the context? -/
def granted (s : State) (c : CtxId) (l : Leaf) : Bool :=
  s.mem.bwin.any fun g => bit g.2 0 && fld g.2 9 7 == c.val && isLocal s l.addr
    && overlap (fld g.2 63 45 * 0x200000) (fld g.2 44 26 * 0x200000) (localPart l.addr) l.size

/-- UNMAP: the mapping goes at once; the answer waits for requests that captured it. -/
def bodyUnmap : Body := fun s n c p =>
  let x := getCtx s c
  let va := pf p 0 8
  let pages := pf p 8 4
  let sz := pf p 12 1
  let size := pageSize sz
  let ok := pages != 0 && decide (sz ≤ 1)
  let gone := x.maps.filter fun l => l.big == (sz == 1) && decide (va ≤ l.va) && decide (l.va < va + pages * size)
  let whole := decide (va % size = 0) && gone.length == pages
  checked s
    [(0, ok && !whole, stConflict), (0, ok && gone.any (granted s c), stConflict),
     bad 8 (pages == 0), bad 12 (decide (sz > 1)), rsv p 13 16]
    (let d : Drain := ⟨n, gone, false, s.clk.mastNs⟩
     let s := gone.foldl (dropLeaf c) s
     if drainHeld x d then (modCtx s c fun x => { x with drains := x.drains ++ [d] }, .later (.unmap c))
     else (zeroFill s gone, .now .ok))

/-- Ends one drain: zero-fill, and the answer unless range-busy has been reported. -/
def endDrain (c : CtxId) (s : State) (d : Drain) : State :=
  let s := modCtx s c fun x => { x with drains := x.drains.filter (· != d) }
  let s := zeroFill s d.leaves
  if d.late then s else answerTo s (some d.fn) (.unmap c) .ok

/-- UNMAP_DRAIN_COMPLETE: every drain of the context that no request holds any more ends. -/
def drainComplete (s : State) (c : CtxId) : State :=
  let x := getCtx s c
  (x.drains.filter fun d => !drainHeld x d).foldl (endDrain c) s

/-- UNMAP_RANGE_BUSY: ranges still held answer range-busy; the drain goes on. -/
def drainBusy (s : State) (c : CtxId) : State :=
  let x := getCtx s c
  let ds := x.drains.filter fun d => !d.late && drainHeld x d
  let s := modCtx s c fun x => { x with drains := x.drains.map fun d => if ds.contains d then { d with late := true } else d }
  ds.foldl (fun s d => answerTo s (some d.fn) (.unmap c) (.fail stRangeBusy noField)) s

/-! ### Grants (R261) -/

/-- Is every 2 MiB page of a local range mapped by the context, writable when asked? -/
def grantMapped (s : State) (x : Ctx) (base len wr : Nat) : Bool :=
  (List.range len).all fun i =>
    let b := ownWindow s + (base + i) * 0x200000
    x.maps.any fun l => decide (l.addr ≤ b) && decide (b + 0x200000 ≤ l.addr + l.size) && (wr == 0 || l.wr)

/-- GRANT. The range rule belongs to BASE_2M: with a LEN_2M out of range it looks at the first page, and with a WR out of range
at mapping alone (R531). -/
def bodyGrant : Body := fun s _ c p =>
  let base := pf p 0 4
  let len := pf p 4 4
  let planes := pf p 8 1
  let wr := pf p 10 1
  let a := base * 0x200000
  let lenOk := decide (0 < len) && decide (len < 2 ^ 19)
  let n := if lenOk then len else 1
  let inMem := (isHbm a && decide (a + n * 0x200000 ≤ hbmEnd))
    || (match place a with | some (.die d _) => decide (a + n * 0x200000 ≤ dieBase d + dieSize) | _ => false)
  checked s
    [(0, !(inMem && grantMapped s (getCtx s c) base n (if wr = 1 then 1 else 0)), stConflict),
     bad 4 (!lenOk), bad 8 ((planes >>> s.pins.plane.val) % 2 == 1), bad 10 (decide (wr > 1)), rsv p 11 16]
    (match (List.range 64).find? fun i => !bit (tget 0 s.mem.bwin i) 0 with
     | none => (s, .now (.fail stTableFull noField))
     | some i =>
       let g : BitVec 64 := BitVec.ofNat 64 (base * 2 ^ 45 + len * 2 ^ 26 + planes * 2 ^ 18 + pf p 9 1 * 2 ^ 10 + c.val * 2 ^ 7 + wr * 2 + 1)
       (modMem s fun m => { m with bwin := tput m.bwin i g }, .now (.pay_ (leBytes 8 i))))

/-- REVOKE. -/
def bodyRevoke : Body := fun s _ c p =>
  let i := pf p 0 1
  let g := tget 0 s.mem.bwin i
  checked s [bad 0 (!(bit g 0 && fld g 9 7 == c.val)), rsv p 1 8]
    (modMem s fun m => { m with bwin := tdel m.bwin i }, .now .ok)

/-! ### BAR2 windows (R448) -/

/-- BAR2_CFG: sets the window of the target context's function. -/
def bodyBar2Cfg : Body := fun s _ c p =>
  let mode := pf p 0 1
  let base := pf p 8 8
  let f := getFn s c
  let size := 2 ^ f.bar2Log
  if mode = 1 ∧ !ctxExists s c then (s, .now (.fail stNoContext noField))
  else checked s
    [bad 0 (decide (mode > 2)), (0, mode == 2 && c != 0, stNotPermitted), rsv p 1 8,
     bad 8 (mode != 0 && (base % size != 0 || decide (base + size > (if mode = 1 then 2 ^ 48 else 2 ^ 40))))]
    (setFn s c { f with bar2Mode := mode, bar2Base := BitVec.ofNat 64 (if mode = 0 then 0 else base) }, .now .ok)

/-! ### Row remap (R257) -/

/-- Spare rows left in a bank. -/
def sparesLeft (s : State) (key : Nat) : Nat :=
  Config.spareRows (key / 1536) (key / 48 % 32) (key % 48) - (s.mem.used.filter fun u => u.2 == key).length

/-- One line of a row under repair: a CE is corrected; an uncorrectable line is written back as read, with C0
and C1 inverted, so that it still reads as uncorrectable. -/
def remapLine (s : State) (u : Nat × List (Nat × Byte)) : State :=
  let a := u.1
  match clsCode (patClass a u.2) with
  | none => s
  | some (cls, pos) =>
    let s := logErr s ⟨3, none⟩ a cls pos (lineSynField u.2) none
    let old := cread s.mem.bytes a 64
    let raw := (List.range 64).map fun j => old.getD j 0 ^^^ patError a u.2 j
    if cls = 0 then memWrite s a raw
    else
      let s := memWrite s a raw
      modMem s fun m => { m with upset := (a, [(0, 0xFF), (1, 0xFF)]) :: m.upset }

/-- One queued row: repaired when its bank has a spare, else left in service with REMAP = 0. -/
def remapRow (r : State × Nat × Nat) (q : Nat × Nat) : State × Nat × Nat :=
  let (s, done, none_) := r
  let key := q.2 % 18432
  let s := modMem s fun m => { m with remapQ := m.remapQ.filter (· != q) }
  if sparesLeft s key = 0 then
    let s := s.mem.errs.foldl (fun s e =>
      if isHbm e.addr && rowOf e.addr == q.2 then
        fbInPlace s e.row 1 1 (leBytes 32 (setFld (recAt 256 ((fbRow s e.row).drop 32) 0) 41 40 0).toNat)
      else s) s
    (reasonOn s 7, done, none_ + 1)
  else
    let s := (s.mem.upset.filter fun u => isHbm u.1 && rowOf u.1 == q.2).foldl remapLine s
    let s := modMem s fun m => { m with used := (q.2, key) :: m.used
                                        remapQ := m.remapQ.filter (· != q) }
    (if sparesLeft s key = 0 then reasonOn s 7 else s, done + 1, none_)

/-- REMAP_APPLY. -/
def bodyRemapApply : Body := fun s _ _ _ =>
  if !(existing s).isEmpty then (s, .now (.fail stCtxState noField))
  else
    let (s, done, no) := s.mem.remapQ.foldl remapRow (s, 0, 0)
    (s, .now (.pay_ (leBytes 4 done ++ leBytes 4 no)))

/-! ### The meanings -/

def execCtxCreate (r : Req) (s : State) : Res_ := .next (mailbox ⟨0x0101, 112, false, .absent⟩ bodyCtxCreate r s)
def execCtxDestroy (r : Req) (s : State) : Res_ := .next (mailbox ⟨0x0102, 0, false, .exists_⟩ bodyCtxDestroy r s)
def execCtxReset (r : Req) (s : State) : Res_ := .next (mailbox ⟨0x0103, 0, true, .exists_⟩ bodyCtxReset r s)
def execCtxAllot (r : Req) (s : State) : Res_ := .next (mailbox ⟨0x0104, 112, false, .idle⟩ bodyCtxAllot r s)
def execCtxQuery (r : Req) (s : State) : Res_ := .next (mailbox ⟨0x0105, 0, true, .any⟩ bodyCtxQuery r s)
def execSetSrSeed (r : Req) (s : State) : Res_ := .next (mailbox ⟨0x0106, 8, true, .idle⟩ bodySetSrSeed r s)
def execSetSparse (r : Req) (s : State) : Res_ := .next (mailbox ⟨0x0107, 32, true, .idle⟩ bodySetSparse r s)
def execMap (r : Req) (s : State) : Res_ := .next (mailbox ⟨0x0201, 24, true, .exists_⟩ bodyMap r s)
def execUnmap (r : Req) (s : State) : Res_ := .next (mailbox ⟨0x0202, 16, true, .exists_⟩ bodyUnmap r s)
def execUnmapDrainComplete (c : CtxId) (s : State) : Res_ := .next (drainComplete s c)
def execUnmapRangeBusy (c : CtxId) (s : State) : Res_ := .next (drainBusy s c)
def execGrant (r : Req) (s : State) : Res_ := .next (mailbox ⟨0x0203, 16, true, .exists_⟩ bodyGrant r s)
def execRevoke (r : Req) (s : State) : Res_ := .next (mailbox ⟨0x0204, 8, true, .exists_⟩ bodyRevoke r s)
def execBar2Cfg (r : Req) (s : State) : Res_ := .next (mailbox ⟨0x0205, 16, true, .any⟩ bodyBar2Cfg r s)
def execRemapApply (r : Req) (s : State) : Res_ := .next (mailbox ⟨0x0206, 0, false, .any⟩ bodyRemapApply r s)

end Sys2Proof.Machine
end

