-- ==== Sys2Proof/Machine/Health.lean ====
section
/-! DEFINITION. Health reasons over time, and what Halyard counts as Mast time passes (11.6, 11.9). -/

namespace Sys2Proof.Machine

/-- AGE_STEPS of a die as an unsigned size in service (Table 10.6). -/
def ageSteps (s : State) (d : Nat) : Int := signed 8 (fld (tget vtabReset s.reef.vtab d) 63 56)

/-- Items counted for a reason in its interval now. -/
def tallied (s : State) (n lenNs : Nat) : Nat :=
  let r := tget (0, []) s.hal.tally n
  if r.1 = s.clk.mastNs / lenNs then r.2.length else 0

/-- Does the inactive condition of a reason hold (Table 11.17)? -/
def cleanHolds (s : State) (n : Nat) : Bool :=
  match n with
  | 0 => decide (tallied s 0 dayNs ≤ 64)
  | 1 => decide (tallied s 1 dayNs ≤ 16)
  | 2 => (List.range 15).all fun p => (getPort s p).preFec < 10000
  | 3 => s.optics.cartSerial != 0 && s.optics.cartSerial != s.hal.spareCart &&
    decide (2 ≤ ((List.range 8).filter fun i => fld (getLine s (24 + i)).lc 95 92 == 0).length)
  | 4 => s.optics.fibreFade.isEmpty
  | 5 => decide (ageSteps s 0 < 8) && decide (ageSteps s 1 < 8)
  | 6 => decide (ageSteps s 0 < 16) && decide (ageSteps s 1 < 16)
  | 7 => false
  | 8 => s.mem.remapQ.isEmpty
  | 9 => tallied s 9 (7 * dayNs) == 0
  | 10 => s.optics.spExh.isEmpty && allLoops.all fun i => (getLoop s i).st != .fault
  | 11 => tallied s 11 (7 * dayNs) == 0
  | 12 => tallied s 12 (7 * dayNs) == 0
  | 13 => !s.reef.marginLow
  | _ => s.pkg.state != 3

/-- HEALTH_REASON_CLEAR: seven clean days have passed; a reason whose condition does not hold stays active (R437). -/
def reasonClear (s : State) (n : Nat) : State := if cleanHolds s n then reasonOff s n else s

/-- Whole minutes, hours and days of Mast time that end with a time: clean minutes, powered hours, days at the class
(Tables 11.18 and 11.21). -/
def timePasses (s : State) (old : Nat) : State :=
  let crossed (len : Nat) : Bool := old / len != s.clk.mastNs / len
  if !crossed 60000000000 then s
  else
    let s := modHal s fun h => { h with
      clean := (List.range 15).map fun n => (n, if cleanHolds s n then tget 0 h.clean n + 1 else 0)
      hours := if crossed 3600000000000 then h.hours + 1 else h.hours
      health := if crossed dayNs && fld h.health 14 0 != 0x7FFF then setFld h.health 14 0 (fld h.health 14 0 + 1) else h.health }
    fbCounters s

def execHealthReasonClear (n : Fin 15) (s : State) : Res_ := .next (reasonClear s n)

end Sys2Proof.Machine
end

