-- ==== Sys2Proof/Machine/Plan.lean ====
section
/-! DEFINITION. Mast plans: writing the shadow banks, the checks of a plan swap, the staging of set-points, withdrawal
and the plan epoch (7.6, 8.3, 8.4, 8.6). -/

namespace Sys2Proof.Machine

/-! ### Parts of an image as lists -/

/-- n records of w bits from the start of a byte list, one after another. -/
def recList (w : Nat) : Nat → List Byte → List (BitVec w)
  | 0, _ => []
  | n + 1, bs => BitVec.ofNat w (leNat (bs.take (w / 8))) :: recList w n (bs.drop (w / 8))

/-- Every segment record of an image, used or not. -/
def allSegs (pl : List Byte) : List (BitVec 64) := recList 64 32768 (pl.drop 35840)
/-- Every circuit record of an image. -/
def allCircs (pl : List Byte) : List (BitVec 64) := recList 64 4096 (pl.drop 3072)
/-- Every match entry of an image. -/
def allMatch (pl : List Byte) : List (BitVec 64) := recList 64 256 (pl.drop 1024)

/-- Checks of numbered records: the status and bit position of the first failure, record n at bit `base + w * n`. -/
def eachBad {w : Nat} (base : Nat) (f : Nat → BitVec w → List Chk) : Nat → List (BitVec w) → Option BankBad
  | _, [] => none
  | n, r :: rs =>
    match recBad (base + w * n) (f n r) with
    | some b => some b
    | none => eachBad base f (n + 1) rs

/-! ### Check 1: reserved bits, field ranges, station (Tables 8.4, 8.5, 8.8, 8.9, R306, R307) -/

def planHdrChecks (s : State) (h : BitVec 512) : List Chk :=
  let mode := phTrMode h
  let st := phStation h
  [(0, fld h 262 0 != 0, stPlan),
   (263, mode != 1 && mode != 3 && phTrCtx h != 0, stPlan),
   (266, (mode == 2 && decide (phTrUs h < 10)) || (mode != 2 && mode != 3 && phTrUs h != 0), stPlan),
   (282, mode == 3, stPlan),
   (284, phSvc h / 8 % 8 != 0 || stZ (phSvc h) != 63, stPlan),
   (308, decide (phNmatch h > 256), stPlan),
   (317, decide (phNcirc h > 4096), stPlan),
   (330, phNseg h == 0 || decide (phNseg h > 32768), stPlan),
   (346, fld h 360 346 &&& fld h 375 361 != fld h 360 346, stPlan),
   (376, phShape h != 0 && phShape h != 3 && phDateline h != 0, stPlan),
   (390, decide (phPeriod h < 8192), stPlan),
   (410, phShape h == 3, stPlan),
   (412, phKey h == 0, stPlan),
   (424, st / 8 % 8 != 0 || stZ st == 63 || stP st != s.pins.plane.val, stPlan),
   (448, phHash h == 0, stPlan)]

def nbrChecks (h : BitVec 512) (p : Nat) (r : BitVec 128) : List Chk :=
  if !phPresent h p then [(0, r != 0, stPlan)]
  else [(0, fld r 23 0 != 0, stPlan), (24, nbDelay r == 0, stPlan),
    (36, nbPort r == 15 || (decide (p < 7) && nbPort r != 6 - p), stPlan),
    (40, nbStation r / 8 % 8 != 0, stPlan)]

/-- Reserved bits and ranges of a match entry (Table 8.9). -/
def matchRange (e : BitVec 64) : List Chk :=
  [(1, fld e 11 1 != 0, stPlan),
   (12, bit e 0 && (decide (fld e 15 12 < 7) || fld e 15 12 == 15), stPlan),
   (40, fld e 63 40 &&& fld e 39 16 != fld e 63 40, stPlan)]

/-- Reserved bits of circuit records and segments; unused records are all-zero. -/
def circRsv (n : Nat) (i : Nat) (r : BitVec 64) : List Chk := [(1, fld r 33 1 != 0, stPlan), (0, decide (n ≤ i) && r != 0, stPlan)]
def segRsv (n : Nat) (i : Nat) (r : BitVec 64) : List Chk := [(0, fld r 4 0 != 0 || (decide (n ≤ i) && r != 0), stPlan)]

/-- A nonzero byte of a reserved part of the image. -/
def rsvBytes (pl : List Byte) (a b : Nat) : Option BankBad :=
  if ((pl.drop a).take (b - a)).all (· == 0) then none else some (stPlan, some (8 * a))

def check1 (s : State) (pl : List Byte) : Option BankBad :=
  let h := planHdr pl
  (recBad 0 (planHdrChecks s h)).orElse fun _ =>
  (eachBad 512 (nbrChecks h) 0 (recList 128 15 (pl.drop 64))).orElse fun _ =>
  (rsvBytes pl 304 512).orElse fun _ =>
  (eachBad 4096 (fun _ (e : BitVec 8) => [(0, fld e 5 0 != 0, stPlan)]) 0 (recList 8 192 (pl.drop 512))).orElse fun _ =>
  (rsvBytes pl 704 1024).orElse fun _ =>
  (eachBad 8192 (fun _ => matchRange) 0 (allMatch pl)).orElse fun _ =>
  (eachBad 24576 (circRsv (phNcirc h)) 0 (allCircs pl)).orElse fun _ =>
  eachBad 286720 (segRsv (phNseg h)) 0 (allSegs pl)

/-! ### Checks 2 and 3: Shroud stations and routes (R302, R314, R315) -/

def check2 (pl : List Byte) : Option BankBad :=
  let h := planHdr pl
  let st := phStation h
  eachBad 512 (fun p (r : BitVec 128) =>
    [(40, phPresent h p && (nbStation r / 64 != st / 64 || stP (nbStation r) != (stP st + p + 1) % 8), stPlan)]) 0
    (recList 128 7 (pl.drop 64))

def dimBad (h : BitVec 512) (i : Nat) (e : BitVec 8) : Bool :=
  let dir := fld e 7 6
  let own := if i < 64 then stX (phStation h) else if i < 128 then stY (phStation h) else stZ (phStation h)
  if phShape h = 2 then dir != 3 else if i % 64 = own then dir != 0 else dir == 0

def matchBad (h : BitVec 512) (i : Nat) (e : BitVec 64) : Bool :=
  (decide (phNmatch h ≤ i) && e != 0)
    || (bit e 0 && (decide (fld e 15 12 ≥ 13) || phShape h != 2) && (stZ (fld e 63 40) != 63 || decide (fld e 15 12 < 13)))

def check3 (pl : List Byte) : Option BankBad :=
  let h := planHdr pl
  (eachBad 4096 (fun i e => [(6, dimBad h i e, stRoute)]) 0 (recList 8 192 (pl.drop 512))).orElse fun _ =>
  eachBad 8192 (fun i e => [(0, matchBad h i e, stRoute)]) 0 (allMatch pl)

/-! ### Check 4: segments and the class rule (R325 to R327) -/

def segRange (h : BitVec 512) (sp : List (BitVec 64)) (r : BitVec 64) : List Chk :=
  let l := sgLane r
  let k := sgKind r
  let col := k == 1
  [(5, if col && decide (l < 16) then sgPeer r == 0 else sgPeer r != 0, stClassRule),
   (8, !col && sgCirc r != 0, stClassRule),
   (36, decide (phPeriod h ≤ sgStart r + (sgLen r - 1)), stClassRule),
   (56, k == 0 || decide (3 < k) || (col && decide (22 ≤ l)), stClassRule),
   (59, decide (23 < l) || !spEn (sp.getD l 0), stClassRule)]

/-- Segments in ascending order of lane and start, without overlap on a lane. -/
def segOrder : Nat → List (BitVec 64) → Option BankBad
  | n, a :: b :: r =>
    if sgLane a < sgLane b ∨ (sgLane a = sgLane b ∧ sgStart a + sgLen a ≤ sgStart b) then segOrder (n + 1) (b :: r)
    else some (stClassRule, some (286720 + 64 * (n + 1) + 36))
  | _, _ => none

/-- Do the slots of two segments meet, or follow one another directly, over the period? -/
def slotsMeet (period : Nat) (a b : BitVec 64) : Bool :=
  let ea := sgStart a + sgLen a
  let eb := sgStart b + sgLen b
  (decide (sgStart a < eb) && decide (sgStart b < ea)) || ea % period == sgStart b || eb % period == sgStart a

/-- Does a segment break the class rule with a later one? -/
def classBad (period : Nat) : Nat → List (BitVec 64) → Option BankBad
  | _, [] => none
  | n, a :: r =>
    if sgKind a = 1 ∧ sgLane a < 16 ∧ r.any fun b =>
        sgKind b == 1 && decide (sgLane b < 16) && sgLane a / 4 == sgLane b / 4 && sgLane a != sgLane b
          && sgPeer a == sgPeer b && slotsMeet period a b
    then some (stClassRule, some (286720 + 64 * n + 5)) else classBad period (n + 1) r

def check4 (pl : List Byte) (sp : List (BitVec 64)) : Option BankBad :=
  let h := planHdr pl
  let ss := segs pl
  (eachBad 286720 (fun _ => segRange h sp) 0 ss).orElse fun _ =>
  (segOrder 0 ss).orElse fun _ => classBad (phPeriod h) 0 ss

/-! ### Check 5: coverage (R328, R329) -/

/-- The segment that covers a slot of a lane in the period of a plan. -/
def segAt (ss : List (BitVec 64)) (lane slot : Nat) : Option (BitVec 64) :=
  ss.find? fun r => sgLane r == lane && decide (sgStart r ≤ slot) && decide (slot < sgStart r + sgLen r)

/-- Is a slot of a lane FREE or MGT? -/
def freeOrMgt (ss : List (BitVec 64)) (lane slot : Nat) : Bool :=
  match segAt ss lane slot with
  | none => true
  | some r => sgKind r == 3

/-- Gaps between the starts of SWAP segments, cyclically over the period, are at most 781,250 slots. -/
def swapGapsOk (period : Nat) (starts : List Nat) : Bool :=
  match starts with
  | [] => false
  | a :: r =>
    let rec go (x : Nat) : List Nat → Bool
      | [] => decide (a + period - x ≤ 781250)
      | b :: r => decide (b - x ≤ 781250) && go b r
    go a r

/-- R328 for one enabled lane; `ss` are its segments. -/
def laneCovered (period lane : Nat) (ss : List (BitVec 64)) : Bool :=
  let sw := ss.filter fun r => sgKind r == 2
  swapGapsOk period (sw.map sgStart)
    && (sw.all fun r => decide (sgLen r ≥ (if lane < 16 then 32 else 196)))
    && (decide (22 ≤ lane) || ss.all fun r => (List.range 8192).any fun i => freeOrMgt ss lane ((sgStart r + i) % period))

/-- Does another lane of the class point at peer k in a slot by its COL segment? -/
def classPoints (ss : List (BitVec 64)) (lane k slot : Nat) : Bool :=
  (List.range 4).any fun i =>
    let m := lane / 4 * 4 + i
    m != lane && (match segAt ss m slot with | some r => sgKind r == 1 && sgPeer r == k | none => false)

/-- Can some enabled ST lane point at peer k in a slot (R329)? -/
def peerSlot (period : Nat) (ss : List (BitVec 64)) (lanes : List Nat) (k slot : Nat) : Bool :=
  lanes.any fun l =>
    (match segAt ss l slot with | some r => sgKind r == 1 && sgPeer r == k | none => false)
      || (freeOrMgt ss l slot && !classPoints ss l k slot && !classPoints ss l k ((slot + period - 1) % period))

/-- Every 96 consecutive slots hold a slot for peer k. What a slot allows changes only at the start of a segment, after its
end and one slot later, so windows from those slots and from slot 0 decide. -/
def peerCovered (period : Nat) (ss : List (BitVec 64)) (lanes : List Nat) (k : Nat) : Bool :=
  let from_ := 0 :: ss.flatMap fun r =>
    [sgStart r % period, (sgStart r + 1) % period, (sgStart r + sgLen r) % period, (sgStart r + sgLen r + 1) % period]
  from_.all fun c => (List.range 96).any fun i => peerSlot period ss lanes k ((c + i) % period)

def check5 (pl : List Byte) (sp : List (BitVec 64)) : Option BankBad :=
  let period := phPeriod (planHdr pl)
  let ss := segs pl
  let on := (List.range 24).filter fun n => spEn (sp.getD n 0)
  let st := ss.filter fun r => decide (sgLane r < 16)
  if (on.all fun n => laneCovered period n (ss.filter fun r => sgLane r == n))
      && (List.range 7).all fun j => peerCovered period st (on.filter (· < 16)) (j + 1)
  then none else some (stSwapSlot, none)

/-! ### Check 6: circuits (R330) -/

/-- Does a COL segment of the circuit reach an output port? -/
def segReaches (ss : List (BitVec 64)) (id port : Nat) : Bool :=
  ss.any fun g => sgKind g == 1 && sgCirc g == id &&
    (if port < 7 then decide (sgLane g < 16) && sgPeer g == port + 1 else sgLane g == port + 9)

def circRange (ss : List (BitVec 64)) (r : BitVec 64) : List Chk :=
  let role := crRole r
  [(0, !bit r 0, stCircuit),
   (34, role == 2 && crCtx r != 0, stCircuit),
   (37, if role == 3 then crOut r != 15 else decide (12 < crOut r) || !segReaches ss (crId r) (crOut r), stCircuit),
   (41, if role == 1 then crIn r != 15 else decide (12 < crIn r), stCircuit),
   (45, role == 0 || decide (3 < role), stCircuit)]

def circOrder : Nat → List (BitVec 64) → Option BankBad
  | n, a :: b :: r => if crId a < crId b then circOrder (n + 1) (b :: r) else some (stCircuit, some (24576 + 64 * (n + 1) + 48))
  | _, _ => none

def check6 (pl : List Byte) : Option BankBad :=
  let ss := segs pl
  let cs := circs pl
  (eachBad 24576 (fun _ => circRange ss) 0 cs).orElse fun _ =>
  (circOrder 0 cs).orElse fun _ =>
  (eachBad 286720 (fun _ (g : BitVec 64) =>
      [(8, sgKind g == 1 && !(cs.any fun r => crId r == sgCirc g && (crRole r == 1 || crRole r == 2)), stCircuit)]) 0 ss).orElse fun _ =>
  if (cs.filter fun r => crRole r == 2).length > 1024 then some (stCircuit, none) else none

/-! ### Check 7: neighbours (R349) -/

/-- Has a port found the neighbour that a plan expects: serial, port and delay? -/
def nbrFound (s : State) (pl : List Byte) (p : Nat) : Bool :=
  let r := nbrRec pl p
  let x := getPort s p
  x.seen && (nbSerial r == 0 || nbSerial r == fld x.disc 255 192) && nbPort r == fld x.disc 91 88 && nbDelay r == x.d

def check7 (s : State) (pl : List Byte) : Option BankBad :=
  let h := planHdr pl
  ((List.range 15).find? fun p => phRequired h p && !nbrFound s pl p).map fun p => (stNeighbour, some (512 + 128 * p))

/-! ### Check 8 and staging: set-points (R281, R285) -/

/-- Cartridge fibre of a Stay or Backstay lane. -/
def spClash (sp : List (BitVec 64)) (n : Nat) : Bool :=
  let r := sp.getD n 0
  decide (16 ≤ n) && spEn r && (List.range 8).any fun i =>
    let m := 16 + i
    m != n && roleFibre m == roleFibre n && spEn (sp.getD m 0) && spCh (sp.getD m 0) == spCh r

/-- Is the lane's laser swap in progress while its EN or CH would change? -/
def spBusy (s : State) (sp : List (BitVec 64)) (n : Nat) : Bool :=
  let a := laneSp s n
  let b := sp.getD n 0
  (spEn a != spEn b || spCh a != spCh b) && s.optics.swaps.any fun w => w.role == n

def check8 (s : State) (sp : List (BitVec 64)) : Option BankBad :=
  eachBad 0 (fun n (r : BitVec 64) =>
    [(0, spBusy s sp n, stOpticsBusy), (2, fld r 3 2 != 0, stReserved),
     (4, (if n < 16 then spCh r != 0 else decide (11 < spCh r)) || spClash sp n, stSetPoint),
     (8, fld r 63 8 != 0, stReserved)]) 0 sp

/-- Lanes that a shadow table enables and the active one does not. -/
def newlyOn (s : State) (sp : List (BitVec 64)) : List Nat :=
  (List.range 24).filter fun n => spEn (sp.getD n 0) && !spEn (laneSp s n)

/-- Staging that is complete within 200 ms: lines powered and tuned, loops LOCKED, transmitters dark. -/
def stage (s : State) (sp : List (BitVec 64)) : State :=
  let on := newlyOn s sp
  let s := on.foldl (fun s n => unfault (setLinePower s n true (spFreq sp n)) n) s
  calibrate s on []

/-! ### The commands -/

/-- The shadow image. -/
def planShadow (s : State) : List Byte := cread s.fab.planS 0 planSize

/-- PLAN_WRITE: bytes of the shadow image. -/
def bodyPlanWrite : Body := fun s _ _ p =>
  let off := pf p 0 4
  let len := pf p 4 4
  checked s [bad 4 (len == 0 || decide (off + len > planSize))]
    (if s.fab.pendT.isSome then (s, .now (.fail stSwapPending noField))
     else match hostRead s (pf p 8 8) len with
       | none => (s, .now (.fail stHostDma noField))
       | some bs => (modFab s fun f => { f with planS := cwrite f.planS off bs }, .now .ok))

/-- SETPOINT_WRITE: the shadow table. -/
def bodySetpointWrite : Body := fun s _ _ p =>
  if s.fab.pendT.isSome then (s, .now (.fail stSwapPending noField))
  else (modOpt s fun o => { o with sp := { o.sp with sha := recList 64 24 p } }, .now .ok)

/-- Every check of Table 8.6, in order. -/
def planChecks (s : State) (pl : List Byte) (sp : List (BitVec 64)) : Option BankBad :=
  (check1 s pl).orElse fun _ => (check2 pl).orElse fun _ => (check3 pl).orElse fun _ =>
  (check4 pl sp).orElse fun _ => (check5 pl sp).orElse fun _ => (check6 pl).orElse fun _ =>
  (check7 s pl).orElse fun _ => check8 s sp

/-- PLAN_SWAP (R311): `staged` says whether a staging that the set-points need is complete within 200 ms. -/
def bodyPlanSwap (staged : Bool) : Body := fun s _ _ p =>
  let t := pf p 0 8
  checked s [bad 0 (decide (t ≥ 2 ^ 48)), (0, decide (t < s.clk.planSlot.toNat + 1953125), stEpochLate)]
    (if s.fab.pendT.isSome then (s, .now (.fail stSwapPending noField))
     else
       let pl := planShadow s
       let sp := s.optics.sp.sha
       match planChecks s pl sp with
       | some b => (s, .now b.ans)
       | none =>
         if !(newlyOn s sp).isEmpty && !(staged && s.pins.lcPwrEn) then (s, .now (.fail stOpticsNot noField))
         else
           let s := stage s sp
           (retime (modFab s fun f => { f with pendT := some t, nextPlan := some pl, told := false }), .now .ok))

/-- PLAN_WITHDRAW: before slot T - 1 the swap goes; from then on it counts as having taken effect, which one answer reports (R43,
R312). -/
def bodyPlanWithdraw : Body := fun s _ _ _ =>
  let slot := s.clk.planSlot.toNat
  let (early, late) := match s.fab.pendT with
    | some t => (decide (slot + 1 < t), decide (t ≤ slot + 1))
    | none => (false, false)
  let took := s.fab.applied || (late && !s.fab.told)
  let s := modFab s fun f => { f with
    pendT := if early then none else f.pendT
    nextPlan := if early then none else f.nextPlan
    applied := false
    told := f.told || late }
  ((if early then retime (modOpt s fun o => { o with due := [] }) else s), .now ⟨if took then stSwapTook else stOk, noField, leBytes 8 (b2n took)⟩)

/-! ### The epoch (R286, R312, R313, R331, R339, R373) -/

/-- A circuit is broken towards its origin (R333); `v0` and `v1` are the pool's bytes and their limit where those decide. -/
def breakCircuit (s : State) (id port v0 v1 : Nat) (src : Option Origin) : State :=
  let s := setCirc s id { getCirc s id with broken := true, buf := none, spill := [] }
  let s := match src with
    | none => s
    | some (sta, c, xfer) =>
      if sta.toNat = ownStation s then xferFail s c xfer stCircBroken else postAck s 0 sta c xfer (.nak xfer 3)
  raise s (pkgEvent evCircuitBroken 1 port v0 v1)

/-- Has the plan a COL segment of the circuit from this package? -/
def hasSeg (pl : List Byte) (id : Nat) : Bool := (segs pl).any fun g => sgKind g == 1 && sgCirc g == id

/-- Port towards the origin of a circuit; 15 at the origin itself. -/
def circUp (pl : List Byte) (id : Nat) : Nat := match findCirc pl id with | some r => crIn r | none => 15

/-- Bytes that a disabled lane hands back (R339), of each packet or chunk those not acknowledged: packets leave by another lane to
the port, chunks wait for their circuit's next COL slot. -/
def handBack (old pl : List Byte) (s : State) (t : Nat × Load × Nat) : State :=
  match t with
  | (port, .packet o, n) =>
    let o : OutPkt := { o with p := { o.p with bytes := o.p.bytes.drop (o.p.bytes.length - n) }, from_ := none }
    if (List.range 24).any fun l => laneReady s l && (if port < 7 then decide (l < 16) else l == port + 9) then emitOn s port o
    else undeliverable s port o
  | (_, .chunk id src bs, n) =>
    if hasSeg pl id then modFab s fun f => { f with parked := f.parked ++ [(id, src, bs.drop (bs.length - n))] }
    else breakCircuit s id (circUp old id) 0 0 (some src)

/-- A lane that the new table disables. -/
def laneOff (old pl : List Byte) (s : State) (n : Nat) : State :=
  let y := getLane s n
  let s := setLane s n { y with point := none, open_ := false, retry := [], redo := [] }
  let s := setLinePower s n false 0
  let s := if n < 16 then s else portDown s (lanePort n) 10
  y.retry.foldl (handBack old pl) s

/-- A lane newly enabled, or one whose channel changes: the shutter opens, unless the package is fenced or dark. -/
def laneOn (s : State) (n : Nat) : State :=
  if n < 16 ∨ s.optics.dark ∨ (s.pkg.fenced ∧ n < 22) then s else setLane s n { getLane s n with open_ := true }

/-- Lane changes of R286 from the old active table to the one now active. -/
def laneChange (oldSp : List (BitVec 64)) (old pl : List Byte) (s : State) (n : Nat) : State :=
  let a := oldSp.getD n 0
  let b := laneSp s n
  let s := if spEn b then unfault s n else s
  if spEn a && !spEn b then laneOff old pl s n
  else if !spEn a && spEn b then laneOn s n
  else if spEn b && spCh a != spCh b then laneOn (setLinePower (portDown s (lanePort n) 10) n true (spFreq s.optics.sp.act n)) n
  else s

/-- Circuits that a request in service still sends on: of a CSEND its own, of a collective those of its RING-on-circuits levels that
carry a further partial. -/
def reqCircs (q : SrvReq) : List Nat :=
  if q.cls = 6 then (if fld q.desc 31 28 = 1 then [fld q.desc 95 80] else [])
  else match q.coll with
    | some k =>
      let rec go (m : Nat) : List (BitVec 32) → List Nat
        | [] => []
        | l :: r =>
          let n := fld l 31 18 + 1
          (if fld l 17 16 = 3 then [fld l 15 0 + k.rank / m % n] else []) ++ go (m * n) r
      (go 1 k.levels).filter fun id => !k.spent.contains id
    | none => []

/-- Has the plan an ORIGIN record of a circuit for a context? -/
def originIn (pl : List Byte) (c : CtxId) (id : Nat) : Bool :=
  match findCirc pl id with
  | some r => crRole r == 1 && crCtx r == c.val
  | none => false

/-- Does a request in service still need a circuit that the plan gives its context no ORIGIN record for? A collective's partials that
wait for the circuit's slots, in the state `s` before the epoch, count as well (R373). -/
def losesCirc (pl : List Byte) (s : State) (c : CtxId) (q : SrvReq) : Bool :=
  q.phase != .queued
    && ((!q.sentAll && (reqCircs q).any fun id => !originIn pl c id)
      || (q.cls == 5 && s.fab.circs.any fun e => !originIn pl c e.1 && e.2.out.any fun w => w.src.2.1 == c && w.src.2.2 == q.xfer))

/-- ORIGIN records that a request captured at issue: those that a new plan drops lose their VALID bit (R331). -/
def loseOrigins (pl : List Byte) (s : State) (c : CtxId) : State :=
  if (getCtx s c).queue.all fun q => q.origins.all fun r => originIn pl c (crId r) then s
  else modCtx s c fun x => { x with queue := x.queue.map fun q =>
    { q with origins := q.origins.map fun r => if originIn pl c (crId r) then r else setFld r 0 0 0 } }

/-- A port that the plan does not hold PRESENT is held dark; what waits there cannot go on. -/
def holdAbsent (s : State) (p : Nat) : State :=
  if phPresent (hdrA s) p then s
  else
    let x := getPort s p
    if x.st = .up then holdCircuits (dropWaiting (setPort s p { x with st := .held }) p true) p else s

/-- A circuit's buffers at the epoch: they stay with a TRANSIT record, as partials that wait do with an ORIGIN record; what else was
buffered breaks the circuit. -/
def epochCirc (old pl : List Byte) (s : State) (id : Nat) : State :=
  let x := getCirc s id
  let role := ((findCirc pl id).map crRole).getD 0
  if role = 2 then s
  else
    let s := if x.buf.isSome || !x.spill.isEmpty then breakCircuit s id (circUp old id) 0 0 x.src else s
    if role = 1 then setCirc s id { Circ.init with out := x.out } else modFab s fun f => { f with circs := tdel f.circs id }

/-- PLAN_EPOCH: acts once `PLAN_SLOT` has reached T. The advance of the slot and the adoption of a parent's counter act in the same
way, so that no slot from T on is served under the old plan (R313). -/
def planEpoch (s : State) : State :=
  match s.fab.pendT, s.fab.nextPlan with
  | some t, some pl =>
    if s.clk.planSlot.toNat < t then s
    else
      let old := planA s
      let oldSp := s.optics.sp.act
      let s := modFab s fun f => { f with
        planA := some pl
        planS := cwrite [] 0 old
        nextPlan := none
        pendT := none
        epochT := t
        applied := !f.told
        told := false
        leaseNs := some s.clk.mastNs
        leaseSeq := none
        transectNs := s.clk.mastNs
        trFrame := (getCtx s (Fin.ofNat 8 (phTrCtx (planHdr pl)))).fr.num }
      let s := modOpt s fun o => { o with sp := o.sp.flip }
      let s := (List.range 15).foldl (fun s p => setPort s p { getPort s p with seq := 0 }) s
      let s := raise s (pkgEvent evPlanEpoch 0 0 t (s.clk.planSlot.toNat))
      let before := s
      let s := (s.fab.circs.map (·.1)).foldl (epochCirc old pl) s
      let s := (List.range 24).foldl (laneChange oldSp old pl) s
      let s := (List.range 15).foldl holdAbsent s
      let s := (existing s).foldl (fun s c => failAll (loseOrigins pl s c) c (losesCirc pl before c) stCircBroken) s
      let s := if phKey (planHdr pl) = 0 then fence s else s
      let s := fadeDue (retime s)
      (List.range 15).foldl (fun s p => if phPresent (planHdr pl) p then sendDisc s p else s) s
  | _, _ => s

/-! ### The meanings -/

def execPlanWrite (r : Req) (s : State) : Res_ := .next (mailbox ⟨0x0501, 16, false, .any⟩ bodyPlanWrite r s)
def execSetpointWrite (r : Req) (s : State) : Res_ := .next (mailbox ⟨0x0502, 192, false, .any⟩ bodySetpointWrite r s)
def execPlanSwap (r : Req) (staged : Bool) (s : State) : Res_ := .next (mailbox ⟨0x0503, 8, false, .any⟩ (bodyPlanSwap staged) r s)
def execPlanWithdraw (r : Req) (s : State) : Res_ := .next (mailbox ⟨0x0504, 0, false, .any⟩ bodyPlanWithdraw r s)
def execPlanEpoch (s : State) : Res_ := .next (planEpoch s)

end Sys2Proof.Machine
end

