-- ==== Sys2Proof/Machine/Fabric.lean ====
section
/-! DEFINITION. Fabric commands: packets, circuit chunks, header codewords, discovery, leases and fences, transects, and
the advance of the plan slot (7.1 to 7.5, 8.3 to 8.11). -/

namespace Sys2Proof.Machine

/-! ### What a receiver accepts (R266, R280, R340, R341) -/

/-- What a receiver keeps of a sending lane changes. -/
def modRx (s : State) (port lane : Nat) (f : Rx → Rx) : State :=
  let x := getPort s port
  let l := if port < 7 then lane else 0
  setPort s port { x with rx := tput x.rx l (f (tget Rx.init x.rx l)) }

/-- A replay is asked for from the first lost sequence number, once until it comes (R266). -/
def askReplay (s : State) (port lane : Nat) : State :=
  let r := tget Rx.init (getPort s port).rx (if port < 7 then lane else 0)
  if r.ask then s else modRx (count s port ctRetries 1) port lane fun r => { r with ask := true }

/-- Is a packet of n payload bytes from sequence number `seq` accepted? A receiver in FAULT hears nothing (R273); a packet whose
equaliser state is stale fails its FEC, and what fails is discarded and asked for again, as is what comes after a gap; what has come
before is discarded (R266, R280). -/
def received (s : State) (port lane : Nat) (burst fecOk : Bool) (seq n : Nat) : State × Bool :=
  if port < 7 ∧ !recvUsable s port (lane / 4) then (s, false)
  else
    let stale := decide (port < 7) && !burst && !s.optics.fresh.contains (port, lane)
    if stale || !fecOk then (askReplay (count s port ctFecUncorr 1) port lane, false)
    else
      let s := if port < 7 ∧ !s.optics.fresh.contains (port, lane) then modOpt s fun o => { o with fresh := (port, lane) :: o.fresh } else s
      let r := tget Rx.init (getPort s port).rx (if port < 7 then lane else 0)
      if seq = r.next then (modRx s port lane fun r => ⟨r.next + n, r.ack + n, false⟩, true)
      else if seq < r.next then (s, false)
      else (askReplay s port lane, false)

/-- The key check of a port: a mismatch is discarded, counted, and reported once per port and minute. -/
def keyCheck (s : State) (port : Nat) (cls : TClass) (key : Nat) : State × Bool :=
  if partKey s = 0 then (s, decide (13 ≤ port) && cls == .mgt)
  else if key = partKey s then (s, true)
  else
    let s := count s port ctPartDrops 1
    if onceIn s evPartDrop port 60000000000 then
      (raise (noteOnce s evPartDrop port 60000000000) (pkgEvent evPartDrop 1 port key (partKey s)), false)
    else (s, false)

/-- PACKET_FORWARD: a received packet holds its input buffer until it is discarded, delivered here or sent on. What is delivered acts
by the row of its kind. -/
def packetForward (s : State) (port : Nat) (p : Packet) : State :=
  if !heard s port || (getPort s port).st != .up || (s.pkg.fenced && p.cls != .mgt) then s
  else match received s port p.lane p.burst p.fecOk p.seq (payLen p) with
    | (s, false) => s
    | (s, true) =>
      let s := countRx s port (payLen p)
      let o : OutPkt := ⟨p, .data, some (port, chanOf p)⟩
      match keyCheck s port p.cls p.key.toNat with
      | (s, false) => release s o
      | (s, true) =>
        match nextPort s p.dst.toNat port with
        | .local_ => release s o
        | .unreachable => undeliverable s port o
        | .port q =>
          if p.cls = .req ∨ p.cls = .rsp ∨ (getPort s q).st ≠ .up ∨ !mayClass s q p.cls then undeliverable s port o
          else emitOn s q { o with p := { p with vc := leaveVc s p port q } }

/-! ### Circuits (R310, R330 to R333) -/

/-- Hertan die of a port. -/
def portDie (p : Nat) : Nat := if p < 7 then 0 else 1

/-- Bytes parked in the overflow pool of a die. -/
def poolUsed (s : State) (die : Nat) : Nat :=
  ((circs (planA s)).map fun r =>
    if crRole r = 2 ∧ portDie (crIn r) = die then ((getCirc s (crId r)).spill.map List.length).sum else 0).sum

def poolSize : Nat := 2097152

/-- A chunk of a TRANSIT circuit is buffered, parked behind a full buffer, or breaks the circuit; one that is late starves its slot
(R333). -/
def transitIn (s : State) (id port : Nat) (k : Chunk) : State :=
  let x := getCirc s id
  let src : Option Origin := some (k.src, k.srcCtx, k.xfer)
  if x.broken then s
  else if x.buf.isNone && x.spill.isEmpty then setCirc s id { x with buf := some k.bytes, src := src, hold := x.hold || decide (16 < k.late) }
  else
    let used := poolUsed s (portDie port)
    if used + k.bytes.length ≤ poolSize then setCirc s id { x with spill := x.spill ++ [k.bytes], src := src, hold := true }
    else breakCircuit s id port used poolSize src

/-- CIRCUIT_SLIP of a chunk more than 16 ns early or late, once per circuit and 100 ms (R310). -/
def chunkSlip (s : State) (id port : Nat) (late : Int) : State :=
  if late.natAbs ≤ 16 then s
  else
    let s := setPort s port { getPort s port with slip := true }
    if onceIn s evCircuitSlip id 100000000 then
      raise (noteOnce s evCircuitSlip id 100000000) (pkgEvent evCircuitSlip 1 port late.natAbs 16)
    else s

/-- COL_CHUNK_ARRIVAL: the chunk leaves its receive staging at once, into the circuit's buffer or to its terminal, where its delivery
is PUT_ARRIVAL's and COLL_PIECE_ARRIVAL's. -/
def chunkArrival (s : State) (port : Nat) (k : Chunk) : State :=
  if !heard s port || (getPort s port).st != .up || s.pkg.fenced then s
  else match received s port k.lane k.burst k.fecOk k.seq k.bytes.length with
    | (s, false) => s
    | (s, true) =>
      let s := owe (countRx s port k.bytes.length) port 7 (codewords k.bytes.length)
      match keyCheck s port .col k.key.toNat with
      | (s, false) => s
      | (s, true) =>
        let id := k.circuit.toNat
        let refuse (s : State) : State := postAck (count s port ctNaks 1) 0 k.src k.srcCtx k.xfer (.nak k.xfer 1)
        match findCirc (planA s) id with
        | none => refuse s
        | some r =>
          if crRole r = 1 ∨ crIn r ≠ port then refuse s
          else
            let s := chunkSlip s id port k.late
            if crRole r = 2 then transitIn s id port k else s

/-! ### Plan time (R308, R309) -/

/-- Signed distance from the low 16 bits of the counter to a 16-bit time, by the shorter way. -/
def slotGap (own other : Nat) : Int := signed 16 ((other + 65536 - own % 65536) % 65536)

/-- Adopts the parent's counter when the gap exceeds one slot; a pending plan epoch that the jump reaches acts at once (R313). Steering
within a slot changes no slot number. -/
def adopt (s : State) (gap : Int) : State :=
  if -1 ≤ gap ∧ gap ≤ 1 then s
  else planEpoch { s with clk := { s.clk with planSlot := BitVec.ofInt 48 (s.clk.planSlot.toNat + gap) } }

/-! ### Header codewords (R265 to R267, R308, R320, R333, R409, R411) -/

/-- Credits returned by the neighbour, never beyond its buffers. -/
def addCredits (port : Nat) (own back : List Nat) : List Nat :=
  (List.range own.length).map fun i => min (own.getD i 0 + back.getD i 0) ((portCredits port).getD i 0)

/-- What a lane holds for a port after an acknowledgement of n more bytes, its replays by as much nearer to their end. -/
def ackLane (y : Lane) (port n : Nat) : Lane :=
  { y with
    retry := ackRetry port n y.retry
    redo := y.redo.map fun e => if e.1 == port then (port, e.2 - n) else e }

/-- HEADER_CODEWORD. A receiver in FAULT hears none (R273). -/
def headerCodeword (s : State) (port : Nat) (h : Header) : State :=
  if !heard s port || (decide (port < 7) && !recvUsable s port (h.from_ / 4)) then s
  else
    let x := getPort s port
    let s := setPort s port { x with
      headNs := s.clk.mastNs + 1
      credits := addCredits port x.credits h.credits
      reefSeen := x.reefSeen || h.reef }
    let l := if port < 7 then h.lane else port + 9
    let s := if l < 24 then setLane s l (ackLane (getLane s l) port h.ack) else s
    let s := match h.replay with
      | some n => if l < 24 then redoFrom s l port n else s
      | none => s
    let s := h.holds.foldl (fun s p =>
      match findCirc (planA s) p.1.toNat with
      | some r => if crOut r = port then setCirc s p.1.toNat { getCirc s p.1.toNat with held := p.2 } else s
      | none => s) s
    let s := if x.st = .up ∧ h.key.toNat = partKey s then
        modReef s fun r => { r with nbr := (port, h.level.toNat, s.clk.mastNs) :: r.nbr.filter (fun e => decide (s.clk.mastNs < e.2.2 + 100000)) }
      else s
    let s := retime s
    if s.fab.parent = some port then adopt s (slotGap s.clk.planSlot.toNat ((h.slot.toNat + h.delayNs / 128) % 65536)) else s

/-- HEADER_ONLY_PACKET: by a lane that may point at the peer in a FREE or MGT slot now; none under a fence or in package reset (R267,
R329). -/
def headerOnly (s : State) (peer : Nat) : State :=
  if !s.pins.perstN || s.pkg.fenced || s.optics.dark then s
  else match headerLane s peer with
    | some l => sendHeader s peer l
    | none => s

/-- SHROUD_PEER_TIMEOUT (R338). -/
def peerTimeout (s : State) (peer : Nat) : State :=
  portDown (setPort s peer { getPort s peer with headNs := 0 }) peer 50

/-- NEIGHBOUR_NOT_FOUND (R349). -/
def notFound (s : State) (port : Nat) : State :=
  if !phPresent (hdrA s) port then s
  else if (getPort s port).st = .down then retime (holdCircuits (raise s (pkgEvent evPortDown 1 port 100 100)) port)
  else portDown s port 100

/-- EQUALISER_STATE_STALE (R280). -/
def equaliserStale (s : State) (peer lane : Nat) : State :=
  modOpt s fun o => { o with fresh := o.fresh.filter fun e => !(e.1 == peer && e.2 == lane) }

/-! ### Discovery (R347, R348) -/

/-- The row of Table 8.16 for a record, and the values its event compares. -/
def discRow (s : State) (port : Nat) (r : BitVec 256) (d : Nat) : Nat × Nat × Nat :=
  let n := nbrRec (planA s) port
  if !phPresent (hdrA s) port then (1, fld r 255 192, 0)
  else if (nbSerial n ≠ 0 ∧ nbSerial n ≠ fld r 255 192) ∨ nbPort n ≠ fld r 91 88 then (2, fld r 255 192, nbSerial n)
  else if bit r 87 then (3, 0, 0)
  else if fld r 191 128 ≠ phHash (hdrA s) ∨ fld r 127 104 ≠ nbStation n ∨ fld r 103 92 ≠ partKey s then
    (4, fld r 191 128, phHash (hdrA s))
  else if d ≠ nbDelay n then (5, d, nbDelay n)
  else (6, d, nbDelay n)

/-- Event of a row of Table 8.16. -/
def rowEvent : Nat → Option Nat
  | 1 => some evNbrUnplanned
  | 2 => some evNbrUnplanned
  | 4 => some evHashMismatch
  | 5 => some evDelayMismatch
  | 6 => some evPortUp
  | _ => none

/-- The pilot map of this package, lane by lane. -/
def ownPilots (s : State) : List (Nat × Nat) :=
  (List.range 16).filterMap fun n => (lineOf s n).map fun l => (n, toneOf l)

/-- Lanes that serve a port. -/
def portLanes (port : Nat) : List Nat := if port < 7 then List.range 16 else [port + 9]

/-- What the lanes of a port hold unacknowledged is replayed, behind bursts where they are owed (R266). -/
def redoPort (s : State) (port : Nat) : State := (portLanes port).foldl (fun s n => redoFrom s n port 0) s

/-- A port comes up: full credits, sequence numbers from 0 at both ends, what is unacknowledged first (log 61); a Shroud port owes
training bursts and sends the pilot map (R274, R280). -/
def portUp (s : State) (port : Nat) : State :=
  let s := setPort s port { getPort s port with credits := portCredits port, owed := List.replicate 8 0, rx := [] }
  let s := (portLanes port).foldl (fun s n =>
    let y := getLane s n
    setLane s n { y with
      seqs := (port, owedTo y port) :: y.seqs.filter (fun e => e.1 != port)
      burst := if port < 7 then port :: y.burst.filter (· != port) else y.burst }) s
  let s := redoPort s port
  if port < 7 then (List.range 7).foldl (fun s q => noticeOn s q (ownPilots s) none) s else s

/-- May a port receive a discovery record now? A Stay port decodes frames from TRAINED on. -/
def discHeard (s : State) (port : Nat) : Bool :=
  heard s port && (decide (port < 7) || (getPort s port).stay == .trained || (getPort s port).stay == .up)

/-- Delay in slots, guard included: the least D with 128 D >= delay + 144 (8.12). -/
def delaySlots (ns : Nat) : Nat := (ns + 144 + 127) / 128

/-- DISC_REC: the port takes the state of the first row that applies; a change of row raises its event. -/
def discRecIn (s : State) (port : Nat) (r : BitVec 256) (delayNs : Nat) : State :=
  if !discHeard s port then s
  else
    let x := getPort s port
    let d := delaySlots delayNs
    let (row, v0, v1) := discRow s port r d
    let up := row == 6
    let back := up && x.st == .up && decide (7 ≤ port) && x.stay != .up
    let s := setPort s port { x with
      st := if up then .up else .held
      stay := if port < 7 then x.stay else if up then .up else .trained
      disc := r, delay := delayNs, d := d, seen := true, found := row }
    let s := if up && x.st != .up then portUp s port else if back then redoPort s port else s
    let s := if !up && x.st == .up then holdCircuits (dropWaiting s port true) port else s
    let s := match rowEvent row with
      | some ev => if x.found = row then s else raise s (pkgEvent ev 1 port v0 v1)
      | none => s
    let s := retime s
    if s.fab.parent = some port then adopt s (((fld r 79 32 + delayNs / 128 : Nat) : Int) - s.clk.planSlot.toNat) else s

/-- The slot of a neighbour's laser swap has come: the port is in LASER_SWAP, and re-acquires from 1 us after it (Tables 7.8, 7.13). -/
def swapPort (s : State) (port : Nat) : State :=
  let x := getPort s port
  let now := s.clk.planSlot.toNat
  match x.swapAt, x.retrain with
  | some t, _ => if now < t then s
      else if x.stay = .dark then setPort s port { x with swapAt := none }
      else setPort s port { x with stay := .laserSwap, swapAt := none, retrain := some (now + 8) }
  | none, some t => if now < t then s
      else setPort s port { x with stay := if x.stay = .laserSwap then .acquiring else x.stay, retrain := none }
  | none, none => s

/-- SWAP_NOTICE: a Shroud peer's pilot map is adopted and the equaliser states of changed sources become stale; a Stay or
Backstay port goes to LASER_SWAP at the slot that the notice names, or at once where it names none or one that has passed (R274, R280,
R282). With partition key 0 only Backstay ports accept one (R341). -/
def swapNoticeIn (s : State) (port : Nat) (tones : List (Nat × Nat)) (slot : Option (BitVec 48)) : State :=
  if !heard s port || (partKey s == 0 && decide (port < 13)) then s
  else if port ≥ 7 then
    let t := match slot with | some t => t.toNat | none => s.clk.planSlot.toNat
    swapPort (setPort s port { getPort s port with swapAt := some t, retrain := none }) port
  else
    let ix (n : Nat) : Nat := 4 * port + n / 4
    let changed := (tones.filter fun t => !((expected s (176 + ix t.1)).contains t.2)).map (·.1)
    let pilot := (List.range 4).foldl (fun m c =>
      match (tones.filter fun t => t.1 / 4 == c).map (·.2) with
      | [] => m
      | ts => tput m (4 * port + c) ts) s.optics.pilot
    modOpt s fun o => { o with pilot := pilot, fresh := o.fresh.filter fun e => !(e.1 == port && changed.contains e.2) }

/-! ### Leases and fences (R342 to R345) -/

/-- The checks of a lease record, in the order of R25. -/
def leaseChecks (s : State) (r : BitVec 256) : List Chk :=
  [(0, fld r 99 0 != 0, stReserved),
   (100, fld r 111 100 != partKey s, stLease),
   (112, (match s.fab.leaseSeq with | some q => decide (fld r 143 112 ≤ q.toNat) | none => false), stLease),
   (144, decide (fld r 191 144 + 250000 < s.clk.planSlot.toNat), stLease),
   (192, fld r 255 192 != Config.serial.toNat, stLease)]

/-- An accepted lease restarts the timer. -/
def leaseTake (s : State) (r : BitVec 256) : State :=
  modFab s fun f => { f with leaseNs := some s.clk.mastNs, leaseSeq := some (BitVec.ofNat 32 (fld r 143 112)) }

def leaseCount (s : State) : State := modFab s fun f => { f with leaseBad := f.leaseBad + 1 }

/-- LEASE and MGT_LEASE: an acceptable record is taken, any other discarded and counted. -/
def leaseIn (s : State) (r : BitVec 256) : State :=
  if (firstSt (leaseChecks s r)).isSome then leaseCount s else leaseTake s r

def bodyLease : Body := fun s _ _ p =>
  let r := recAt 256 p 0
  checked s [(0, fld r 99 0 != 0, stReserved)] (leaseIn s r, .now .ok)

def bodyFence : Body := fun s _ _ _ => (fence s, .now .ok)

/-- The end of a fence: shutters of enabled Stay lanes open, and every PRESENT port runs discovery again. -/
def unfence (s : State) : State :=
  if !s.pkg.fenced then s
  else
    let s := modPkg s fun p => { p with fenced := false }
    let s := raise s (pkgEvent evUnfenced 0 0 0 0)
    let s := (enabledLanes s).foldl laneOn s
    (List.range 15).foldl (fun s p => if phPresent (hdrA s) p then sendDisc s p else s) s

/-- UNFENCE. -/
def bodyUnfence : Body := fun s _ _ p =>
  let r := recAt 256 p 0
  match firstBad (leaseChecks s r) with
  | some a => (if a.st = stLease then leaseCount s else s, .now a)
  | none => (unfence (leaseTake s r), .now .ok)

/-- LEASE_EXPIRED: only a running timer expires; it then stops. -/
def leaseExpired (s : State) : State :=
  if s.fab.leaseNs.isNone then s
  else raise (fence (modFab s fun f => { f with leaseNs := none })) (pkgEvent evLeaseExpired 0 0 1000 1000)

/-- A command that arrives as MGT from the service station: while Halyard serves none it is dropped and counted
(Table 8.10). -/
def mgtIn (s : State) (f : State → State) : State :=
  if !s.pins.perstN then s
  else if s.pkg.halyardUp then f s
  else modFab s fun g => { g with mgtDrops := g.mgtDrops + 1 }

/-! ### Transects (R351, Table 8.17) -/

/-- PORT_STATE. -/
def portStateCode (s : State) (p : Nat) : Nat :=
  if s.pkg.fenced ∧ p < 13 then 4
  else if p ≥ 7 ∧ (getPort s p).stay = .laserSwap then 3
  else match (getPort s p).st with | .down => 0 | .held => 1 | .up => 2

/-- Does any circuit of the port stand in HOLD? -/
def portHolds (s : State) (p : Nat) : Bool :=
  (circs (planA s)).any fun r => (crIn r == p && (getCirc s (crId r)).hold) || (crOut r == p && (getCirc s (crId r)).held)

/-- Widths of the counting fields TX_BYTES to COL_PLANNED, and the record from its fields, highest first. -/
def packFields (fs : List (Nat × Nat)) : Nat := fs.foldl (fun acc f => acc * 2 ^ f.1 + f.2 % 2 ^ f.1) 0

/-- One record. -/
def transectRec (s : State) (p : Nat) (m : PortMeas) : BitVec 2048 :=
  let x := getPort s p
  let g (i : Nat) : Nat := m.figures.getD i 0
  let c (i : Nat) : Nat := x.ctr.getD i 0 - x.base.getD i 0
  BitVec.ofNat 2048 (packFields
    ([(64, Config.serial.toNat), (48, s.clk.planSlot.toNat), (24, ownStation s), (12, partKey s), (4, p), (32, x.seq),
      (32, s.clk.mastNs - s.fab.transectNs), (48, c 0), (48, c 1), (32, c 2), (32, c 3), (32, c 4), (32, c 5)]
      ++ (List.range 6).map (fun i => (32, c (6 + i)))
      ++ [(24, g 6), (24, g 7), (24, if p < 7 then g 8 else 0), (24, if p < 7 then g 9 else 0), (32, c 12), (48, c 13), (32, c 14),
        (16, g 11), (16, g 12), (16, if p < 7 then 0x8000 else g 13), (32, c 15), (32, c 16), (4, portStateCode s p),
        (8, b2n x.reefSeen * 128 + b2n x.slip * 64 + b2n (portHolds s p) * 32 + b2n s.fab.timeLost * 16), (1084, 0)]))

/-- What the hardware has counted of a port since its last reading joins the port's counters (R350). -/
def addFigures (m : List PortMeas) (s : State) (p : Nat) : State :=
  let f := (m.getD p ⟨[]⟩).figures
  let x := getPort s p
  setPort s p { x with
    preFec := f.getD 14 0
    ctr := (List.range 17).map fun i =>
      x.ctr.getD i 0 + (if 6 ≤ i ∧ i < 12 then f.getD (i - 6) 0 else if i = 13 then f.getD 10 0 else 0) }

/-- Closes a port's interval: its record goes by B0, else B1, else is dropped and counted. -/
def transectPort (m : List PortMeas) (s : State) (p : Nat) : State :=
  if !phPresent (hdrA s) p then s
  else
    let r := transectRec s p (m.getD p ⟨[]⟩)
    let x := getPort s p
    let s := setPort s p { x with base := x.ctr, seq := (x.seq + 1) % 2 ^ 32, reefSeen := false, slip := false }
    match emitService s (leBytes 256 r.toNat) (.transect r) with
    | some s => s
    | none => modFab s fun g => { g with transectDrops := g.transectDrops + 1 }

/-- Frame number of the context whose ticks close intervals (R351). -/
def trFrameNow (s : State) : BitVec 48 := (getCtx s (Fin.ofNat 8 (phTrCtx (hdrA s)))).fr.num

/-- Does an interval close now: at a tick of TR_CTX, 10 us or more after the last, or after TR_US (R351)? -/
def transectDue (s : State) : Bool :=
  match phTrMode (hdrA s) with
  | 1 => trFrameNow s != s.fab.trFrame && decide (s.fab.transectNs + 10000 ≤ s.clk.mastNs)
  | 2 => decide (s.fab.transectNs + 1000 * phTrUs (hdrA s) ≤ s.clk.mastNs)
  | _ => false

/-- TRANSECT: the figures of every port, and the records of an interval that closes. A 24 h mean of the pre-FEC error estimate above
2 × 10^-4 activates reason 2 (Table 11.17). -/
def transectAll (s : State) (m : List PortMeas) : State :=
  if !s.pins.perstN then s
  else
    let s := (List.range 15).foldl (addFigures m) s
    let s := if (List.range 15).any fun p => (getPort s p).preFec > 20000 then reasonOn s 2 else s
    if !transectDue s then s
    else
      let s := (List.range 15).foldl (transectPort m) s
      modFab s fun f => { f with transectNs := s.clk.mastNs, trFrame := trFrameNow s }

/-! ### The plan slot (R308, R331 to R333) -/

/-- The CSEND that sends on an ORIGIN circuit now, of either link engine of the circuit's context. -/
def csendOn (s : State) (c : CtxId) (id : Nat) : Option SrvReq :=
  (getCtx s c).queue.find? fun q =>
    q.cls == 6 && q.phase == .serving && fld q.desc 31 28 == 1 && fld q.desc 95 80 == id && !q.sentAll

/-- Chunk size by port: 4 KiB on Shroud, 2 KiB on Stay. -/
def chunkSize (port : Nat) : Nat := if port < 7 then 4096 else 2048

/-- Sends a chunk in a COL slot: its codewords take staging credits of the neighbour (R320). -/
def sendChunk (s : State) (port l id : Nat) (src : Origin) (bs : List Byte) : State :=
  let n := codewords bs.length
  let x := getPort s port
  let s := setPort s port { x with credits := lput x.credits 7 (x.credits.getD 7 0 - n) }
  count (laneSend s port l n (.chunk id src bs)) port ctColUsed 1

/-- The next chunk of a CSEND. -/
def csendChunk (s : State) (port l id : Nat) (c : CtxId) (q : SrvReq) : State :=
  let len := fld q.desc 127 96
  let n := min (chunkSize port) (len - q.vdone)
  match virtRead s ⟨0, some c⟩ (getCtx s c) q.ret (fld q.desc 191 128 + q.vdone) n with
  | (s, .error st) => failHead s c q st
  | (s, .ok bs) =>
    putHead (sendChunk s port l id (BitVec.ofNat 24 (ownStation s), c, q.xfer) bs) c
      { q with vdone := q.vdone + n, sentAll := decide (len ≤ q.vdone + n), sentNs := s.clk.mastNs }

/-- The next chunk of a collective's partial (R373). -/
def partChunk (s : State) (port l id : Nat) (w : ColSend) (rest : List ColSend) : State :=
  let n := min (chunkSize port) (w.p.data.length - w.sent)
  let done := decide (w.p.data.length ≤ w.sent + n)
  let x := getCirc s id
  let s := setCirc s id { x with out := if done then rest else { w with sent := w.sent + n } :: rest }
  let s := sendChunk s port l id w.src ((w.p.data.drop w.sent).take n)
  if done then pieceSent s w.src.2.1 w.p.hash w.p.seq else s

/-- An origin's next chunk: what has begun goes on, and a CSEND begins before a partial (log 61). -/
def originChunk (s : State) (port l id : Nat) (r : BitVec 64) : State :=
  let c : CtxId := Fin.ofNat 8 (crCtx r)
  match (getCirc s id).out, csendOn s c id with
  | [], none => s
  | [], some q => csendChunk s port l id c q
  | w :: rest, none => partChunk s port l id w rest
  | w :: rest, some q => if w.sent = 0 then csendChunk s port l id c q else partChunk s port l id w rest

/-- A transit's buffered chunk; the slot in which the buffer empties, or finds itself empty, clears HOLD. -/
def transitChunk (s : State) (port l id : Nat) : State :=
  let x := getCirc s id
  match x.buf with
  | none => setCirc s id { x with hold := false }
  | some bs =>
    let s := setCirc s id (match x.spill with
      | [] => { x with buf := none, hold := false }
      | b :: r => { x with buf := some b, spill := r })
    sendChunk s port l id (x.src.getD (0, 0, 0)) bs

/-- Port of a segment. -/
def sgPort (g : BitVec 64) : Nat := if sgLane g < 16 then sgPeer g - 1 else lanePort (sgLane g)

/-- May the lane of a segment send n codewords that end within the segment? -/
def segFits (s : State) (g : BitVec 64) (n : Nat) : Bool :=
  laneReady s (sgLane g) && decide (startPs s (sgLane g) < nowPs s + 128000)
    && decide (endPs s (sgPort g) (sgLane g) n ≤ nowPs s + 128000 * (sgStart g + sgLen g - slotIndex s))

/-- May a chunk leave in a COL slot: the port UP, the circuit not in HOLD, staging credits and retry space? -/
def chunkMay (s : State) (g : BitVec 64) : Bool :=
  let port := sgPort g
  let x := getPort s port
  x.st == .up && (decide (port < 7) || x.stay == .up) && mayClass s port .col && !(getCirc s (sgCirc g)).held
    && decide (codewords (chunkSize port) ≤ x.credits.getD 7 0) && decide (unacked (getLane s (sgLane g)) + chunkSize port ≤ 65536)
    && segFits s g (codewords (chunkSize port))

/-- A lane points where its COL segment says (R279). -/
def pointCol (s : State) (g : BitVec 64) : State :=
  let l := sgLane g
  if 16 ≤ l then s
  else
    let y := getLane s l
    setLane s l { y with point := some (sgPeer g), seen := sgPeer g :: y.seen.filter (· != sgPeer g) }

/-- One COL segment that covers the slot: a replay that is owed first, else the next chunk of its circuit. A transit buffer that cannot
empty marks its circuit HOLD (R333). Under a fence lanes stay parked (R342). -/
def colSlot (s : State) (g : BitVec 64) : State :=
  let l := sgLane g
  let id := sgCirc g
  let port := sgPort g
  let s := count s port ctColPlanned 1
  let full (s : State) : State := let x := getCirc s id; if x.buf.isSome then setCirc s id { x with hold := true } else s
  if s.pkg.fenced then full s
  else match findCirc (planA s) id with
    | none => s
    | some r =>
      if crOut r ≠ port then s
      else
        let owed := (getLane s l).redo.find? fun e => e.1 == port
        match owed with
        | some (_, k) => full (match redoAt k (unackedFor (getLane s l) port) with
            | some (_, _, n) => if (getPort s port).st = .up ∧ segFits s g (codewords n) then sendReplay (pointCol s g) l port else s
            | none => s)
        | none =>
          if !chunkMay s g then full s
          else match s.fab.parked.find? fun p => p.1 == id with
            | some p => sendChunk (modFab s fun f => { f with parked := dropFirst p f.parked }) port l id p.2.1 p.2.2
            | none => if crRole r = 1 then originChunk s port l id r else transitChunk s port l id

/-- A COL slot in which its lane has sent nothing still carries a header codeword to its peer (R329). -/
def colHeader (s : State) (g : BitVec 64) : State :=
  let port := sgPort g
  if s.pkg.fenced || s.optics.dark || !(decide (port < 7) || (getPort s port).stay == .up) || decide (nowPs s < (getLane s (sgLane g)).freePs)
      || !segFits s g 0 then s
  else sendHeader s port (sgLane g)

/-- Does a segment cover the slot k after the current one? -/
def sgCovers (s : State) (k : Nat) (g : BitVec 64) : Bool :=
  let i := (slotIndex s + k) % phPeriod (hdrA s)
  decide (sgStart g ≤ i) && decide (i < sgStart g + sgLen g)

/-- A new slot for the lanes: of a FREE one the window of the link cap moves on (R387); a lane that still points at a peer which a COL
segment of its class takes in this slot or the next is parked; where each pointed in the slot before is kept (R279, R327). -/
def newSlot (s : State) : State :=
  let ss := planSegs s
  let cols := ss.filter fun g => sgKind g == 1 && decide (sgLane g < 16) && (sgCovers s 0 g || sgCovers s 1 g)
  let s := (List.range 24).foldl (fun s n =>
    let y := getLane s n
    if y.own.isEmpty || (laneSeg s ss n 0).isSome then s else setLane s n { y with own := (0 :: y.own).take 16 }) s
  (List.range 16).foldl (fun s n =>
    let y := getLane s n
    let taken := cols.any fun g => sgLane g != n && sgLane g / 4 == n / 4 && y.point == some (sgPeer g)
    let point := if taken then none else y.point
    if y.point.isNone && y.seen.isEmpty && y.prev.isEmpty then s
    else setLane s n { y with point := point, prev := y.seen, seen := point.toList }) s

/-- One slot of 128 ns. -/
def slotAdvance (s : State) : State :=
  if !s.pins.perstN then s
  else
    let t := s.clk.mastNs
    let s := timePasses { s with clk := { s.clk with planSlot := s.clk.planSlot + 1, mastNs := t + 128 } } t
    let s := newSlot (planEpoch s)
    let s := (List.range 8).foldl (fun s i => swapPort s (7 + i)) s
    let now := (planSegs s).filter fun g => sgKind g == 1 && sgCovers s 0 g
    let s := now.foldl colSlot (now.foldl (fun s g => if s.pkg.fenced then s else pointCol s g) s)
    now.foldl colHeader (serveOut s)

/-! ### The meanings -/

def execFence (r : Req) (s : State) : Res_ := .next (mailbox ⟨0x0601, 0, false, .any⟩ bodyFence r s)
def execUnfence (r : Req) (s : State) : Res_ := .next (mailbox ⟨0x0602, 32, false, .any⟩ bodyUnfence r s)
def execLease (r : Req) (s : State) : Res_ := .next (mailbox ⟨0x0603, 32, false, .any⟩ bodyLease r s)
def execPacketForward (port : Fin 15) (p : Packet) (s : State) : Res_ := .next (packetForward s port p)
def execColChunkArrival (port : Fin 15) (k : Chunk) (s : State) : Res_ := .next (chunkArrival s port k)
def execHeaderCodeword (port : Fin 15) (h : Header) (s : State) : Res_ := .next (headerCodeword s port h)
def execHeaderOnlyPacket (peer : Fin 7) (s : State) : Res_ := .next (headerOnly s peer)
def execDiscoveryTraverse (port : Fin 15) (s : State) : Res_ := .next (sendDisc s port)
def execDiscRec (port : Fin 15) (r : BitVec 256) (delayNs : Nat) (s : State) : Res_ := .next (discRecIn s port r delayNs)
def execSwapNotice (port : Fin 15) (n : Notice) (s : State) : Res_ := .next (swapNoticeIn s port n.tones n.slot)
def execMgtLease (r : BitVec 256) (s : State) : Res_ := .next (mgtIn s fun s => leaseIn s r)
def execMgtFence (s : State) : Res_ := .next (mgtIn s fence)
def execLeaseExpired (s : State) : Res_ := .next (leaseExpired s)
def execShroudPeerTimeout (peer : Fin 7) (s : State) : Res_ := .next (peerTimeout s peer)
def execNeighbourNotFound (port : Fin 15) (s : State) : Res_ := .next (notFound s port)
def execTransect (m : List PortMeas) (s : State) : Res_ := .next (transectAll s m)
def execEqualiserStateStale (peer : Fin 7) (lane : Fin 16) (s : State) : Res_ := .next (equaliserStale s peer lane)

end Sys2Proof.Machine
end

