-- ==== Sys2Proof/Machine/HostIf.lean ====
section
/-! DEFINITION. Host accesses: BAR0 writes, the BAR2 window, event rings, the PCIe link, virtual functions and
function-level reset of a VF (12.1, 12.2, 12.6). -/

namespace Sys2Proof.Machine

/-! ### Refused accesses (R447, R449) -/

/-- Bits of the AER Uncorrectable Error Status (PRESUMED from PCI Express, log 5). -/
def aerAbort : Nat := 15
def aerUnsupported : Nat := 20

/-- A completion that reports an error is noted in AER (R442): VFs report through the PF. -/
def aerNote (s : State) (k : Nat) : State := modPkg s fun p => { p with aer := p.aer ||| BitVec.ofNat 32 (2 ^ k) }

/-- HOST_ERROR on a function (Table 11.22), with GSTAT.HOST_ERR set. -/
def hostError (s : State) (n : CtxId) (off bar : Nat) (write : Bool) (bytes : Nat) (st : Status) (cause : Nat) : State :=
  let s := modFn s n fun f => { f with hostErr := true }
  raise s { code := evHostError, kind := 8, subj := n.val, v0 := off, v1 := bar + b2n write * 8 + (bytes % 256) * 256, status := st.toNat, aux0 := cause, fn := some n }

/-- Is a BAR0 access of n bytes at an offset accepted (R447)? -/
def bar0Ok (off n : Nat) : Bool :=
  let buf := decide (0x100000 ≤ off) && decide (off < 0x102000)
  ([4, 8].contains n || (buf && [1, 2, 16, 32, 64].contains n)) && off % n == 0

/-! ### Register writes (Tables 12.3 to 12.7) -/

/-- A write of EVT_HEAD; at or above NENT it is ignored (R469). -/
def evtHeadWrite (s : State) (n : CtxId) (v : BitVec 32) : State :=
  let f := getFn s n
  if v.toNat ≥ f.nent.toNat then s else setFn s n { f with evtHead := v }

/-- A write of MBX_POST (R452): ignored while a command is outstanding, when it equals MBX_DONE, and where no server is present
(R489). -/
def mbxPost (s : State) (n : CtxId) (v : BitVec 32) : State :=
  let f := getFn s n
  if !mbxReached s n || f.busy.isSome || v == f.done then s else postSeq s n v

/-- A write to the MSI-X table; an unmasked vector whose pending bit is set is signalled (log 5). -/
def msixWrite (s : State) (n : CtxId) (off : Nat) (bs : List Byte) : State :=
  let f := getFn s n
  let old := (List.range 1024).map (msixByte f)
  let new := old.take off ++ bs ++ old.drop (off + bs.length)
  let tab := (List.range 1024).filterMap fun i =>
    let d : Byte := if i % 16 = 12 then 1 else 0
    if new.getD i d = d then none else some (i, new.getD i d)
  let f := { f with msixTab := tab }
  let due := (bitsOf 64 f.pba.toNat).filter fun v => !msixMasked f v
  let s := setFn s n { f with pba := f.pba &&& ~~~(BitVec.ofNat 64 (ofBits due)) }
  due.foldl (fun s v => msixSignal s n v) s

/-- One aligned 4-byte unit of a write to the mailbox registers. -/
def mbxRegWrite (n : CtxId) (s : State) (p : Nat × List Byte) : State :=
  if p.1 = 0x102000 then mbxPost s n (recAt 32 p.2 0)
  else if p.1 = 0x102008 then evtHeadWrite s n (recAt 32 p.2 0)
  else s

/-- An accepted BAR0 write, by region. -/
def bar0Write (s : State) (n : CtxId) (off : Nat) (bs : List Byte) : State :=
  let f := getFn s n
  if 0x1000 ≤ off ∧ off < 0x1008 then
    if off ≤ 0x1004 ∧ bit (recAt 8 bs (0x1004 - off)) 0 ∧ off + bs.length > 0x1004 then setFn s n { f with hostErr := false } else s
  else if 0x2000 ≤ off ∧ off < 0x2400 then msixWrite s n (off - 0x2000) bs
  else if 0x100000 ≤ off ∧ off < 0x101000 then
    if f.busy.isSome then s
    else
      let b := f.req ++ List.replicate (4096 - f.req.length) 0
      setFn s n { f with req := (b.take (off - 0x100000) ++ bs ++ b.drop (off - 0x100000 + bs.length)).take 4096 }
  else if 0x102000 ≤ off ∧ off < 0x102010 then
    ((List.range (bs.length / 4)).map fun i => (off + 4 * i, (bs.drop (4 * i)).take 4)).foldl (mbxRegWrite n) s
  else s

/-- REGISTER_WRITE: a BAR0 write through function n. -/
def registerWrite (s : State) (n : CtxId) (off : Nat) (bs : List Byte) : State :=
  if !s.pkg.linkUp || !s.pins.perstN || decide (n.val > s.pkg.numVfs.val) then s
  else if bar0Ok off bs.length then bar0Write s n off bs
  else hostError s n off 0 true bs.length 0 0

/-! ### The BAR2 window (R448 to R450) -/

/-- Where one part of a BAR2 access goes: a local physical address, or the cause of its refusal
(Table 11.22). -/
def bar2Part (s : State) (n : CtxId) (write : Bool) (a len : Nat) : Except Nat Nat :=
  let f := getFn s n
  if s.pkg.computeReset || s.pkg.state != 1 then .error 5
  else if f.bar2Mode = 1 then
    let x := getCtx s n
    if x.run = .none then .error 2
    else match xlate s x x.ret.act a with
      | none => .error 2
      | some t =>
        if !isLocal s t.addr then .error 3
        else if write && !t.wr then .error 6
        else if !physOk (localPart t.addr) len then .error 2
        else .ok (localPart t.addr)
  else if halyardBase ≤ a ∧ a < hbmEnd then .error 4
  else if !physOk a len then .error 2
  else .ok a

/-- The parts of a BAR2 access, each with its place. -/
def bar2Parts (s : State) (n : CtxId) (write : Bool) (off len : Nat) : Except Nat (List (Nat × Nat)) :=
  let f := getFn s n
  if f.bar2Mode = 0 then .error 1
  else (parts (f.bar2Base.toNat + off) len).foldr (fun p acc =>
    match bar2Part s n write p.1 p.2, acc with
    | .error e, _ => .error e
    | _, .error e => .error e
    | .ok a, .ok l => .ok ((a, p.2) :: l)) (.ok [])

/-- Reads the parts in turn. -/
def readParts : List (Nat × Nat) → State → State × Except MemBad (List Byte)
  | [], s => (s, .ok [])
  | (a, n) :: r, s =>
    match memRead s ⟨0, none⟩ a n with
    | (s, .error e) => (s, .error e)
    | (s, .ok bs) => match readParts r s with
      | (s, .ok cs) => (s, .ok (bs ++ cs))
      | e => e

/-- Can the host reach function n at all? -/
def hostReaches (s : State) (n : CtxId) : Bool :=
  s.pkg.linkUp && s.pins.perstN && decide (n.val ≤ s.pkg.numVfs.val)

/-- BAR2_READ: data, Unsupported Request, or Completer Abort (R449, R251). -/
def bar2Read (s : State) (n : CtxId) (off len : Nat) : State :=
  if !hostReaches s n then s
  else match bar2Parts s n false off len with
    | .error k => { hostError (aerNote s aerUnsupported) n off 2 false len 0 k with cpl := some .unsupported }
    | .ok ps => match readParts ps s with
      | (s, .ok bs) => { s with cpl := some (.data bs) }
      | (s, .error _) => { hostError (aerNote s aerAbort) n off 2 false len stMemUe 7 with cpl := some .abort }

/-- One line or on-chip piece of a host write (R239): part of an HBM line is merged. -/
def hostPiece (n : CtxId) (off : Nat) (s : State) (p : Nat × List Byte) : State :=
  let (a, bs) := p
  if !isHbm a then memWrite s a bs
  else if a % 64 = 0 ∧ bs.length = 64 then memWrite s a bs
  else
    let line := a - a % 64
    match memRead s ⟨2, none⟩ line 64 with
    | (s, .ok old) => memWrite s line (old.take (a - line) ++ bs ++ old.drop (a - line + bs.length))
    | (s, .error _) =>
      raise s { code := evMergeFailed, kind := 8, subj := n.val, v0 := line, v1 := off, status := stMemUe.toNat, fn := some n }

/-- Splits a physical write at 64-byte lines. -/
def linePieces : Nat → Nat → List Byte → List (Nat × List Byte)
  | 0, _, _ => []
  | fuel + 1, a, bs =>
    if bs.isEmpty then [] else
      let k := 64 - a % 64
      (a, bs.take k) :: linePieces fuel (a + k) (bs.drop k)

/-- Bytes given to the parts of an access in order. -/
def dealBytes : List (Nat × Nat) → List Byte → List (Nat × List Byte)
  | [], _ => []
  | (a, n) :: r, bs => (a, bs.take n) :: dealBytes r (bs.drop n)

/-- BAR2_WRITE. -/
def bar2Write (s : State) (n : CtxId) (off : Nat) (bs : List Byte) : State :=
  if !hostReaches s n then s
  else match bar2Parts s n true off bs.length with
    | .error k => hostError s n off 2 true bs.length 0 k
    | .ok ps =>
      ((dealBytes ps bs).flatMap fun p => linePieces (p.2.length / 64 + 2) p.1 p.2).foldl (hostPiece n off) s

/-! ### Event rings (R467 to R470) -/

/-- EVENT_RING for the function of the target context. -/
def bodyEventRing : Body := fun s _ c p =>
  let addr := pf p 0 8
  let nent := pf p 8 4
  let scope := pf p 14 1
  checked s
    [bad 0 (addr % 4096 != 0), bad 8 (nent != 0 && (decide (nent < 64) || decide (nent > 65536))),
     bad 14 (decide (scope > 3)), (112, c != 0 && scope != 0, stNotPermitted), rsv p 15 16]
    (modFn s c fun f => { f with
      ringAddr := BitVec.ofNat 64 addr
      nent := BitVec.ofNat 32 nent
      modUs := BitVec.ofNat 16 (pf p 12 2)
      scope := BitVec.ofNat 8 scope
      evtHead := 0
      evtTail := 0
      evSeq := 0
      lost := 0
      annDue := false }, .now .ok)

/-- MSIX_MODERATION: the MOD_US interval ends, and an entry still unannounced is announced (Table 12.13). -/
def msixModeration (s : State) (n : CtxId) : State :=
  let f := getFn s n
  if f.annDue then msixSignal (setFn s n { f with annNs := some s.clk.mastNs, annDue := false }) n 1
  else setFn s n { f with annNs := none }

/-! ### Link, functions, FLR (R444, R445, R448, R458) -/

/-- The function part of an FLR: mailbox registers, ring and window off; an outstanding command gets no answer. -/
def flrFn (s : State) (n : CtxId) : State :=
  modFn (lateDrains s n) n fun f => { Func.init with req := f.req, resp := f.resp, bar2Log := f.bar2Log, hostErr := f.hostErr }

/-- FLR of function n: its registers, and the reset of its context (cause 1). -/
def vfFlr (s : State) (n : CtxId) : State :=
  requestReset (flrFn s n) n ⟨1, none, false, s.clk.mastNs, 0⟩

/-- Does a mover request touch host space? -/
def usesHost (q : SrvReq) : Bool := q.cls == 2 && (fld q.desc 27 26 == 1 || fld q.desc 25 24 == 1)

/-- Requests in service that use host space fail, and their contexts stop (R445). -/
def failHost (s : State) (c : CtxId) : State := failAll s c (fun q => q.phase != .queued && usesHost q) stHostDma

def linkLoss (s : State) : State :=
  (existing s).foldl failHost (modPkg s fun p => { p with linkUp := false })

/-- NumVFs or VF Enable changes; contexts whose VF disappears are reset as if by FLR. -/
def numVfsChange (s : State) (n : CtxId) : State :=
  let gone := allCtxs.filter fun c => decide (n.val < c.val) && decide (c.val ≤ s.pkg.numVfs.val)
  gone.foldl vfFlr (modPkg s fun p => { p with numVfs := n })

/-- A Resizable BAR change turns the window off (R448). -/
def barResize (s : State) (n : CtxId) (k : Nat) : State :=
  modFn s n fun f => { f with bar2Log := k, bar2Mode := 0, bar2Base := 0 }

/-! ### The meanings -/

def execEvtHeadWrite (fn : CtxId) (v : BitVec 32) (s : State) : Res_ :=
  .next (if hostReaches s fn then evtHeadWrite s fn v else s)
def execRegisterWrite (fn : CtxId) (off : Nat) (data : List Byte) (s : State) : Res_ := .next (registerWrite s fn off data)
def execBar2Read (fn : CtxId) (off : Nat) (len : Nat) (s : State) : Res_ := .next (bar2Read s fn off len)
def execBar2Write (fn : CtxId) (off : Nat) (data : List Byte) (s : State) : Res_ := .next (bar2Write s fn off data)
def execEventRing (r : Req) (s : State) : Res_ := .next (mailbox ⟨0x0701, 16, true, .any⟩ bodyEventRing r s)
def execMsixModeration (fn : CtxId) (s : State) : Res_ := .next (msixModeration s fn)
def execPcieLinkLoss (s : State) : Res_ := .next (linkLoss s)
/-- The link returns with BAR contents and mailbox state as before (R445). -/
def execPcieLinkReturn (s : State) : Res_ := .next (if s.pins.perstN then modPkg s fun p => { p with linkUp := true } else s)
def execNumvfsChange (n : CtxId) (s : State) : Res_ := .next (numVfsChange s n)
def execBarResize (fn : CtxId) (log2Size : Nat) (s : State) : Res_ :=
  .next (if 30 ≤ log2Size ∧ log2Size ≤ 40 then barResize s fn log2Size else s)
def execVfFlr (fn : CtxId) (s : State) : Res_ :=
  .next (if fn ≠ 0 ∧ fn.val ≤ s.pkg.numVfs.val then vfFlr s fn else s)

end Sys2Proof.Machine
end

