-- ==== Sys2Proof/Machine/Convert.lean ====
section
/-! DEFINITION. The number formats a recipe names, their blocks and scales, and the conversion of exact values into
them with its scale rules, roundings and re-drains (sections 3.1 to 3.3, 3.6 and 3.9). -/

namespace Sys2Proof.Machine

/-! ### Formats by recipe code (Tables 3.1 to 3.3) -/

/-- The floating-point grid of a format's elements; code 8, MXINT8, has none. -/
def fmtElem (f : Nat) : FFmt := [fp32, bf16, fp16, e4m3, e5m2, e2m3, e3m2, e2m1, e4m3, e4m3, e2m1].getD f fp32
/-- Bits of an element as packed. -/
def fmtBits (f : Nat) : Nat := [32, 16, 16, 8, 8, 6, 6, 4, 8, 8, 4].getD f 32
def isScaled (f : Nat) : Bool := decide (3 ≤ f)
def isGrid (f : Nat) : Bool := f == 9 || f == 10
/-- Tile-store bytes of a block. -/
def blkBytes (f : Nat) : Nat := [4, 2, 2, 32, 32, 32, 32, 16, 32, 64, 32].getD f 4
/-- Elements of a block; a scalar format counts one value as its block. -/
def blkElems (f : Nat) : Nat := if isGrid f then 64 else if isScaled f then 32 else 1
/-- Bytes that n values take in tile store, scales apart. -/
def storeBytes (f n : Nat) : Nat := n / blkElems f * blkBytes f

/-- Largest finite element (Table 3.2). -/
def maxElem (f : Nat) : Nat × Int := if f = 8 then (127, -6) else (fmtElem f).maxFin

/-- Exact value of an element (Tables 3.1 and 3.2, R106). -/
def elemVal (f x : Nat) : XVal :=
  if f = 8 then let v := signed 8 x; .num (decide (v < 0)) v.natAbs (-6) else (fmtElem f).decode x

/-- n fields of `bits` bits from bytes, lowest first (R108). -/
def elems (bits n : Nat) (bs : List Byte) : List Nat :=
  let x := leNat bs
  (List.range n).map fun i => (x >>> (bits * i)) % 2 ^ bits

/-- The bytes of a block's elements in tile store; a 6-bit block ends in 8 zero bytes (R108). -/
def packElems (f : Nat) (xs : List Nat) : List Byte :=
  leBytes (storeBytes f xs.length) (xs.foldr (fun x acc => acc <<< fmtBits f ||| x) 0)

/-- The values of n elements of a block with scale field X (R106). -/
def blockVals (f scale n : Nat) (bs : List Byte) : List XVal :=
  if isScaled f && scale == 255 then List.replicate n .nan
  else (elems (fmtBits f) n bs).map fun x =>
    if isScaled f then XVal.scale (elemVal f x) ((scale : Int) - 127) else elemVal f x

/-! ### Stochastic rounding (R138, R139) -/

def srMix (z : Nat) : Nat :=
  let z := ((z ^^^ (z >>> 30)) * 0xBF58476D1CE4E5B9) % 2 ^ 64
  let z := ((z ^^^ (z >>> 27)) * 0x94D049BB133111EB) % 2 ^ 64
  z ^^^ (z >>> 31)

/-- The 24-bit number of a rounding. -/
def srBits (seed step tid index : Nat) : Nat :=
  let a := srMix (seed ^^^ ((step <<< 16) ||| tid))
  srMix (a ^^^ index) >>> 40

/-- What a conversion rounds by: its recipe, and the inputs of Table 3.10 with `base` the index of position 0. -/
structure Conv where
  rec_ : BitVec 64
  seed : Nat
  step : Nat
  tid  : Nat
  base : Nat
  deriving DecidableEq, Repr

/-- The rounding of the value at a position. -/
def Conv.rnd (k : Conv) (pos : Nat) : Rnd :=
  if rcRound k.rec_ then .sr (srBits k.seed k.step k.tid ((k.base + pos) % 2 ^ 48)) else .rne

/-! ### Block scales and elements (R114 to R117) -/

/-- Smallest e with m * 2^a * 2^-e at most the largest element. -/
def blockExp (f m : Nat) (a : Int) : Int :=
  let mx := maxElem f
  let e := ((Nat.log2 m : Int) + a) - ((Nat.log2 mx.1 : Int) + mx.2)
  if geMag mx.1 mx.2 m (a - e) then e else e + 1

/-- The largest magnitude of a list of numbers. -/
def amax (vs : List XVal) : Nat × Int :=
  vs.foldl (fun acc v => match v with
    | .num _ m e => if geMag acc.1 acc.2 m e then acc else (m, e)
    | _ => acc) (0, 0)

/-- The scale field that BLOCKMAX selects, before its upper limit (R114). -/
def blockMaxX (f : Nat) (vs : List XVal) : Nat :=
  let a := amax vs
  if a.1 = 0 then 127 else (127 + blockExp f a.1 a.2).toNat

/-- Does a block overflow at a scale field (R115)? -/
def overflows (f x : Nat) (vs : List XVal) : Bool :=
  let mx := maxElem f
  vs.any fun v => match v with
    | .num _ m e => !geMag mx.1 mx.2 m (e + 127 - x)
    | _ => false

/-- Under FIXED: the field at which the block fits, with at most `n` raises by `step`, and the raises made (R127). -/
def fixedField (f step : Nat) (vs : List XVal) : Nat → Nat → Option Nat × Nat
  | n, x =>
    if x > 254 then (none, 0)
    else if !overflows f x vs then (some x, 0)
    else match n with
      | 0 => (none, 0)
      | n + 1 =>
        if x + step > 254 then (none, 0)
        else let r := fixedField f step vs n (x + step); (r.1, r.2 + 1)

/-- One element at a scale field (R116). -/
def encElem (f : Nat) (rd : Rnd) (x : Nat) (v : XVal) : Nat :=
  let t := XVal.scale v (127 - (x : Int))
  if f = 8 then
    match t with
    | .num s m e =>
      let (q, r, k) := onGrid m e (-6)
      let q := if roundsUp rd s q r k then q + 1 else q
      if s then (256 - q) % 256 else q
    | _ => 0
  else (fmtElem f).roundElem rd t

/-- A converted block: scale field, elements, raises made, and whether its cause is CONVERSION. -/
structure BlkOut where
  field : Nat
  elems : List Nat
  tries : Nat
  conv  : Bool
  deriving DecidableEq, Repr

/-- Converts a block of values at positions, with the recompute shift k * s (R114 to R117, R127, R129). -/
def convBlock (k : Conv) (shift : Nat) (ps : List Nat) (vs : List XVal) : BlkOut :=
  let f := rcFormat k.rec_
  let none_ : List Nat := List.replicate vs.length 0
  let at_ (x : Nat) : List Nat := List.zipWith (fun p v => encElem f (k.rnd p) x v) ps vs
  if vs.any fun v => !XVal.isNum v then ⟨255, none_, 0, false⟩
  else if rcRule k.rec_ = 2 then
    match fixedField f (rcStep k.rec_) vs 2 (rcFixedX k.rec_ + shift) with
    | (some x, n) => ⟨x, at_ x, n, false⟩
    | (none, n) => ⟨255, none_, n, true⟩
  else
    let x := blockMaxX f vs
    if x > 254 then ⟨255, none_, 0, true⟩ else ⟨x, at_ x, 0, false⟩

/-- A converted tensor: its element bytes, its scale bytes (none for a scalar format), raises, CONVERSION, and whether a
non-finite value or a scale field 0xFF is written. -/
structure ConvOut where
  elems  : List Byte
  scales : List Byte
  tries  : Nat
  conv   : Bool
  bad    : Bool
  deriving DecidableEq, Repr

/-- Cuts a list into pieces of n. -/
def pieces {α : Type} (n : Nat) : Nat → List α → List (List α)
  | 0, _ => []
  | k + 1, l => l.take n :: pieces n k (l.drop n)

/-- Is an encoding of a scalar format finite? -/
def encFinite (f x : Nat) : Bool := XVal.isNum (elemVal f x)

/-- Converts blocks of positioned values to a recipe's format. -/
def convert (k : Conv) (shift : Nat) (blocks : List (List (Nat × XVal))) : ConvOut :=
  let f := rcFormat k.rec_
  if isScaled f then
    let os := blocks.map fun b => convBlock k shift (b.map (·.1)) (b.map (·.2))
    ⟨os.flatMap fun o => packElems f o.elems, os.map fun o => BitVec.ofNat 8 o.field, (os.map (·.tries)).sum,
     os.any (·.conv), os.any fun o => o.field == 255⟩
  else
    let xs := blocks.flatMap fun b => b.map fun p => (fmtElem f).round (k.rnd p.1) p.2
    ⟨xs.flatMap fun x => leBytes (fmtBits f / 8) x, [], 0, false, xs.any fun x => !encFinite f x⟩

/-- The 32 x 32 result of a drain as blocks of its output format, positions 32 x row + column (R124). -/
def drainBlocks (f : Nat) (vs : List XVal) : List (List (Nat × XVal)) :=
  let rows := pieces 32 32 ((List.range 1024).zip vs)
  if isGrid f then
    (pieces 8 4 rows).flatMap fun rs => (List.range 4).map fun j => rs.flatMap fun r => (r.drop (8 * j)).take 8
  else rows

/-- The 256 lanes of a CVT as blocks of its target format (R134). -/
def laneBlocks (f : Nat) (vs : List XVal) : List (List (Nat × XVal)) :=
  let n := if isGrid f then 64 else 32
  pieces n (256 / n) ((List.range 256).zip vs)

/-- Re-quantises a block along K under BLOCKMAX and RNE, and decodes it (R142); true when it has no representable
scale. -/
def requant (f : Nat) (vs : List XVal) : List XVal × Bool :=
  let o := convBlock ⟨BitVec.ofNat 64 (f * 2 ^ 60 + 2 ^ 58), 0, 0, 0, 0⟩ 0 (List.range vs.length) vs
  (if o.field = 255 then List.replicate vs.length .nan
   else o.elems.map fun x => XVal.scale (elemVal f x) ((o.field : Int) - 127), o.conv)

end Sys2Proof.Machine
end

