-- ==== Sys2Proof/Machine/Mover.lean ====
section
/-! DEFINITION. Data movers: descriptor checks, the segments of each operation, moves between local memory, host memory and
board peers, and completion (R74 to R76, R237, R238, R260, R321). -/

namespace Sys2Proof.Machine

/-! ### `MOVE_DESC` (Table 2.12) -/

def mdDstWin (d : BitVec 512) : Nat := fld d 447 416
def mdSrcWin (d : BitVec 512) : Nat := fld d 415 384
def mdIdx (d : BitVec 512) : Nat := fld d 351 288
def mdDst (d : BitVec 512) : Nat := fld d 287 224
def mdSrc (d : BitVec 512) : Nat := fld d 223 160
def mdDstStride (d : BitVec 512) : Nat := fld d 159 128
def mdSrcStride (d : BitVec 512) : Nat := fld d 127 96
def mdCount (d : BitVec 512) : Nat := fld d 83 64
def mdLen (d : BitVec 512) : Nat := fld d 51 32
def mdOp (d : BitVec 512) : Nat := fld d 31 28
def mdSrcSpace (d : BitVec 512) : Nat := fld d 27 26
def mdDstSpace (d : BitVec 512) : Nat := fld d 25 24
/-- Element bytes of a transposing copy. -/
def mdEsz (d : BitVec 512) : Nat := 2 ^ fld d 23 22

/-- Rows, stride and row length of the source and of the destination; the count of 0 rows marks an indexed side. -/
def mdSrcRows (d : BitVec 512) : Nat × Nat × Nat := (if mdOp d = 2 then 0 else mdCount d, mdSrcStride d, mdLen d)
def mdDstRows (d : BitVec 512) : Nat × Nat × Nat :=
  if mdOp d = 4 then (mdLen d / mdEsz d, mdDstStride d, mdCount d * mdEsz d)
  else (if mdOp d = 3 then 0 else mdCount d, mdDstStride d, mdLen d)

/-- Span of a strided side; 0 for an indexed one. -/
def spanOf (g : Nat × Nat × Nat) : Nat := if g.1 = 0 then 0 else (g.1 - 1) * g.2.1 + g.2.2

/-- The field checks in the order of R25 and R531 (R75). -/
def moveChecks (d : BitVec 512) : List Chk :=
  let op := mdOp d
  let indexed := op == 2 || op == 3
  [(16, fld d 21 16 != 0, stReserved),
   (22, if op = 4 then fld d 23 22 == 3 else fld d 23 22 != 0, stField),
   (24, decide (mdDstSpace d > 1), stField), (26, decide (mdSrcSpace d > 1), stField), (28, decide (op > 4), stField),
   (32, mdLen d == 0 || (op == 4 && mdLen d % mdEsz d != 0), stField),
   (32, decide (mdLen d > mdSrcWin d) || (op != 4 && decide (mdLen d > mdDstWin d)), stWindow),
   (52, fld d 63 52 != 0, stReserved),
   (64, mdCount d == 0 || (op == 0 && mdCount d != 1), stField),
   (64, decide (spanOf (mdSrcRows d) > mdSrcWin d) || decide (spanOf (mdDstRows d) > mdDstWin d), stWindow),
   (84, fld d 95 84 != 0, stReserved), (288, !indexed && mdIdx d != 0, stField), (352, fld d 383 352 != 0, stReserved),
   (448, fld d 511 448 != 0, stReserved)]

/-- Does the destination meet the line rule (R238)? Rows are those of R75, so a transposing copy counts its destination
rows (DEDUCED, log 29). -/
def lineRule (d : BitVec 512) : Bool :=
  let a := mdDst d
  if mdOp d = 3 then a % 64 == 0 && mdLen d % 64 == 0
  else
    let g := mdDstRows d
    ((g.1 == 1 || g.2.1 == g.2.2) && a % 64 == 0 && (a + spanOf g) % 64 == 0)
      || (a % 64 == 0 && g.2.1 % 64 == 0 && g.2.2 % 64 == 0)

/-! ### What a request moves -/

/-- A run of bytes: source offset, destination offset, length. -/
abbrev Seg := Nat × Nat × Nat

/-- The runs of a request in order; a transposing copy moves elements. -/
def moveSegs (d : BitVec 512) (idx : List Nat) : List Seg :=
  let n := mdLen d
  let ss := mdSrcStride d
  let ds := mdDstStride d
  match mdOp d with
  | 2 => (List.zip (List.range (mdCount d)) idx).map fun p => (p.2 * n, p.1 * ds, n)
  | 3 => (List.zip (List.range (mdCount d)) idx).map fun p => (p.1 * ss, p.2 * n, n)
  | 4 =>
    let e := mdEsz d
    (List.range (n / e)).flatMap fun j => (List.range (mdCount d)).map fun i => (i * ss + j * e, j * ds + i * e, e)
  | _ => (List.range (mdCount d)).map fun i => (i * ss, i * ds, n)

/-- Reads a run of the source. -/
def srcRead (s : State) (c : CtxId) (q : SrvReq) (space a n : Nat) : State × Except Status (List Byte) :=
  if space = 1 then
    match hostRead s a n with
    | some bs => (s, .ok bs)
    | none => (s, .error stHostDma)
  else virtRead s ⟨0, some c⟩ (getCtx s c) q.ret a n

/-! ### Board peers and the write-combining stage (R235, R237, R259, R260, R321) -/

/-- Is an address of a space on a board peer? -/
def onPeer (s : State) (x : Ctx) (ret : BitVec 512) (space a : Nat) : Bool :=
  space == 0 && match xlate s x ret a with | some t => !isLocal s t.addr | none => false

/-- The board address of a virtual address that translates. -/
def boardOf (s : State) (x : Ctx) (ret : BitVec 512) (va : Nat) : Nat :=
  match xlate s x ret va with | some t => t.addr | none => 0

/-- One line's part for the destination. HBM takes it by whole lines, here or at a peer; a peer's other lines are sent at the end,
on-chip memory of this package takes it at once. -/
def dstPart (c : CtxId) (r : State × SrvReq) (p : Nat × List Byte) : State × SrvReq :=
  let s := r.1
  let q := r.2
  let x := getCtx s c
  let peer := onPeer s x q.ret 0 p.1
  if !peer && !inHbm s x q.ret p.1 then (virtWrite s x q.ret p.1 p.2, q)
  else match combine q.wc p.1 p.2 with
    | (t, none) => (s, { q with wc := t })
    | (t, some l) =>
      if peer then (s, { q with wc := t, todo := q.todo ++ [⟨boardOf s x q.ret l.1, true, l.2.map some, []⟩] })
      else (virtWrite s x q.ret l.1 l.2, { q with wc := t })

/-- Bytes for the destination. -/
def dstWrite (s : State) (c : CtxId) (q : SrvReq) (space a : Nat) (bs : List Byte) : State × SrvReq × Option Status :=
  if space = 1 then
    match hostWriteTo s a bs with
    | some s => (s, q, none)
    | none => (s, q, some stHostDma)
  else
    let r := (byLines a bs).foldl (dstPart c) (s, q)
    (r.1, r.2, none)

/-- One part of a line to read from a peer: one REQ asks for all parts of a line (R260). -/
def askPart (line : Nat) (p : Nat × Nat × Nat × Nat) : List PeerOp → List PeerOp
  | [] => [⟨line, false, [], [p]⟩]
  | o :: r => if !o.write && o.line == line then { o with parts := o.parts ++ [p] } :: r else o :: askPart line p r

/-- Is byte i of the line under the mask of a REQ? -/
def opHas (o : PeerOp) (i : Nat) : Bool :=
  if o.write then (o.bytes.getD i none).isSome else o.parts.any fun p => decide (p.1 ≤ i) && decide (i < p.1 + p.2.1)

/-- The places under the mask, ascending. -/
def opPlaces (o : PeerOp) : List Nat := (List.range 64).filter (opHas o)

/-- A REQ for a peer joins the output queue of its Shroud port; without a port that may carry it the router discards it (R318). -/
def sendReq (s : State) (c : CtxId) (epoch : BitVec 16) (o : PeerOp) : State :=
  let peer := o.line / 0x10000000000 % 8
  let port := (peer + 8 - s.pins.plane.val) % 8 - 1
  let q : PeerQ := ⟨s.pins.plane, c, epoch, BitVec.ofNat 12 (partKey s), BitVec.ofNat 40 o.line, o.write,
    BitVec.ofNat 64 (ofBits (opPlaces o)), if o.write then (List.range 64).map fun i => (o.bytes.getD i none).getD 0 else []⟩
  if (getPort s port).st = .up ∧ mayClass s port .req then emitTo s port .req c 0 1 q.data (.peerReq q) else count s port ctNaks 1

/-- Sends waiting REQs while fewer than 512 are outstanding. -/
def pumpReqs (c : CtxId) : Nat → State → SrvReq → State × SrvReq
  | 0, s, q => (s, q)
  | fuel + 1, s, q =>
    match q.todo with
    | [] => (s, q)
    | o :: r =>
      if q.resv.length ≥ 512 then (s, q)
      else pumpReqs c fuel (sendReq s c q.epoch o) { q with todo := r, resv := q.resv ++ [o] }

/-! ### Moving -/

/-- A run cut at the lines of a virtual source: a read that fails leaves the lines before it moved, and a peer is asked line by
line. -/
def cutSrc (d : BitVec 512) (g : Seg) : List Seg :=
  if mdSrcSpace d = 1 then [g]
  else
    let n0 := min g.2.2 (64 - (mdSrc d + g.1) % 64)
    (0, n0) :: ((List.range ((g.2.2 - n0 + 63) / 64)).map fun i => (n0 + 64 * i, min 64 (g.2.2 - n0 - 64 * i)))
      |>.map fun p => (g.1 + p.1, g.2.1 + p.1, p.2)

/-- One part of a run: a peer's bytes are asked for, any other bytes move now. -/
def movePart (c : CtxId) (r : State × SrvReq × Option Status) (g : Seg) : State × SrvReq × Option Status :=
  match r with
  | (s, q, some st) => (s, q, some st)
  | (s, q, none) =>
    let x := getCtx s c
    let d := q.desc
    let sa := mdSrc d + g.1
    let da := mdDst d + g.2.1
    if onPeer s x q.ret (mdSrcSpace d) sa then
      let b := boardOf s x q.ret sa
      (s, { q with todo := askPart (b / 64 * 64) (b % 64, g.2.2, mdDstSpace d, da) q.todo }, none)
    else match srcRead s c q (mdSrcSpace d) sa g.2.2 with
      | (s, .error st) => (s, q, some st)
      | (s, .ok bs) => dstWrite s c q (mdDstSpace d) da bs

/-- When no read is left, what the stage still holds for peers goes out as REQs with their masks; when nothing is left at all, the
request is ready to complete. -/
def settleMove (s : State) (c : CtxId) (q : SrvReq) : State :=
  let x := getCtx s c
  let q :=
    if q.todo.isEmpty && q.resv.all (fun o => o.write) then
      { q with wc := [], todo := (q.wc.filter fun l => onPeer s x q.ret 0 (64 * l.1)).map fun l => ⟨boardOf s x q.ret (64 * l.1), true, l.2, []⟩ }
    else q
  let (s, q) := pumpReqs c (q.todo.length + 1) s q
  putHead s c (if q.todo.isEmpty && q.resv.isEmpty then { q with phase := .ready } else q)

/-- Every run of the request moves, in order. -/
def moveGo (s : State) (c : CtxId) (q : SrvReq) (idx : List Nat) : State :=
  let d := q.desc
  let gs := moveSegs d idx
  let rec_ := if mdDstSpace d = 1 then [] else gs.map fun g => (mdDst d + g.2.1, g.2.2)
  match (gs.flatMap (cutSrc d)).foldl (movePart c) (s, { q with written := rec_ }, none) with
  | (s, q, some st) => failHead s c q st
  | (s, q, none) => settleMove s c q

/-! ### Serving -/

/-- Is the request a gather or a scatter? -/
def indexed (d : BitVec 512) : Bool := mdOp d == 2 || mdOp d == 3

/-- Does a part of the index array lie on a board peer? -/
def idxOnPeer (s : State) (c : CtxId) (q : SrvReq) : Bool :=
  indexed q.desc && (parts (mdIdx q.desc) (4 * mdCount q.desc)).any fun p => onPeer s (getCtx s c) q.ret 0 p.1

/-- Every index of a gather or scatter, read at IDX_ADDR + 4i. -/
def readIdx (s : State) (c : CtxId) (q : SrvReq) : State × Except Status (List Nat) :=
  let d := q.desc
  if indexed d then
    match virtRead s ⟨0, some c⟩ (getCtx s c) q.ret (mdIdx d) (4 * mdCount d) with
    | (s, .error st) => (s, .error st)
    | (s, .ok bs) => (s, .ok (elems 32 (mdCount d) bs))
  else (s, .ok [])

/-- Do all bytes that the runs touch in virtual space exist? -/
def segsExist (s : State) (x : Ctx) (q : SrvReq) (gs : List Seg) : Bool :=
  let d := q.desc
  gs.all fun g =>
    (mdSrcSpace d == 1 || bytesOk s x q.ret (mdSrc d + g.1) g.2.2)
      && (mdDstSpace d == 1 || bytesOk s x q.ret (mdDst d + g.2.1) g.2.2)

/-- The checks once every index is known, before a byte moves (R75): every index, bytes that exist, the fence. -/
def idxCheck (s : State) (c : CtxId) (q : SrvReq) (idx : List Nat) : Option Status :=
  let d := q.desc
  let x := getCtx s c
  let win := if mdOp d = 2 then mdSrcWin d else mdDstWin d
  let gs := moveSegs d idx
  if idx.any fun i => decide (i * mdLen d + mdLen d > win) then some stWindow
  else if !segsExist s x q gs then some stTranslation
  else if s.pkg.fenced && gs.any (fun g => (cutSrc d g).any fun h => onPeer s x q.ret (mdSrcSpace d) (mdSrc d + h.1)
      || onPeer s x q.ret (mdDstSpace d) (mdDst d + h.2.1)) then some stFenced
  else none

/-- The checks before a byte moves, in the order of R75: fields, translation of the index array and both windows (a
destination page without WR counts as untranslated, log 29), the line rule, every index, bytes that exist, the fence. An index array
on a board peer is asked for first, and its indices are checked when they have come. -/
def moveCheck (s : State) (c : CtxId) (q : SrvReq) : State × Option Status :=
  let d := q.desc
  let x := getCtx s c
  match firstSt (moveChecks d) with
  | some st => (s, some st)
  | none =>
    if indexed d && !rangeOk s x q.ret false true (mdIdx d) (4 * mdCount d) then (s, some stTranslation)
    else if mdSrcSpace d == 0 && !rangeOk s x q.ret false true (mdSrc d) (mdSrcWin d) then (s, some stTranslation)
    else if mdDstSpace d == 0 && !rangeOk s x q.ret true true (mdDst d) (mdDstWin d) then (s, some stTranslation)
    else if mdDstSpace d == 0 && touchesHbm s x q.ret (mdDst d) (mdDstWin d) && !lineRule d then (s, some stLine)
    else if idxOnPeer s c q then (s, if s.pkg.fenced then some stFenced else none)
    else match readIdx s c q with
      | (s, .error st) => (s, some st)
      | (s, .ok idx) => (s, idxCheck s c q idx)

/-- Virtual ranges whose translations the request holds from its start to its end (R76, R230). -/
def moveSpans (_ : State) (_ : CtxId) (q : SrvReq) : List (Nat × Nat) :=
  let d := q.desc
  (if indexed d then [(mdIdx d, 4 * mdCount d)] else []) ++ (if mdSrcSpace d = 0 then [(mdSrc d, mdSrcWin d)] else [])
    ++ (if mdDstSpace d = 0 then [(mdDst d, mdDstWin d)] else [])

/-- Bytes of an index array that have come. -/
def layIdx (q : SrvReq) (off : Nat) (bs : List Byte) : SrvReq := { q with tab := q.tab.take off ++ bs ++ q.tab.drop (off + bs.length) }

/-- One part of the index array: asked of a peer, or read here. -/
def askIdx (c : CtxId) (r : State × SrvReq × Option Status) (p : Nat × List Byte) : State × SrvReq × Option Status :=
  match r with
  | (s, q, some st) => (s, q, some st)
  | (s, q, none) =>
    let x := getCtx s c
    let off := p.1 - mdIdx q.desc
    if onPeer s x q.ret 0 p.1 then
      let b := boardOf s x q.ret p.1
      (s, { q with todo := askPart (b / 64 * 64) (b % 64, p.2.length, 2, off) q.todo }, none)
    else match virtRead s ⟨0, some c⟩ x q.ret p.1 p.2.length with
      | (s, .error st) => (s, q, some st)
      | (s, .ok bs) => (s, layIdx q off bs, none)

/-- After a REQ has been answered, or the first ones asked: the index array is complete and the move begins, or the move goes
on. -/
def settle (s : State) (c : CtxId) (q : SrvReq) : State :=
  if q.ipos = 0 then settleMove s c q
  else
    let (s, q) := pumpReqs c (q.todo.length + 1) s q
    if !q.todo.isEmpty || !q.resv.isEmpty then putHead s c q
    else
      let idx := elems 32 (mdCount q.desc) q.tab
      match idxCheck s c q idx with
      | some st => failHead s c q st
      | none => moveGo s c { q with ipos := 0, tab := [] } idx

/-- The move itself: without peers every byte moves now, and the request is ready to complete. -/
def moveWork (s : State) (c : CtxId) (q : SrvReq) : State :=
  if idxOnPeer s c q then
    let zeros := List.replicate (4 * mdCount q.desc) 0
    match (byLines (mdIdx q.desc) zeros).foldl (askIdx c) (s, { q with ipos := 1, tab := zeros }, none) with
    | (s, q, some st) => failHead s c q st
    | (s, q, none) => settle s c q
  else match (readIdx s c q).2 with
    | .error st => failHead s c q st
    | .ok idx => moveGo s c q idx

/-- Starts the head request of a mover when its descriptor is of the row's kind. A reserved OP starts with any kind, and
fails. -/
def moveStart (op : Nat) (c : CtxId) (m : Fin 48) (s : State) : State :=
  serve 2 m.val (fun d => mdOp d == op || decide (mdOp d > 4)) moveCheck moveSpans moveWork s c

/-- Completion: the bytes are visible, DONE_TOKEN rises (R81). -/
def doneRow (cls : Nat) (c : CtxId) (u : Nat) (s : State) : State :=
  if !srvRuns s c then s
  else match headIn s c cls u .ready with
    | some q => finishHead s c q
    | none => s

def execMoveCopy (c : CtxId) (m : Fin 48) (s : State) : Res_ := .next (moveStart 0 c m s)
def execMoveStrided (c : CtxId) (m : Fin 48) (s : State) : Res_ := .next (moveStart 1 c m s)
def execMoveGather (c : CtxId) (m : Fin 48) (s : State) : Res_ := .next (moveStart 2 c m s)
def execMoveScatter (c : CtxId) (m : Fin 48) (s : State) : Res_ := .next (moveStart 3 c m s)
def execMoveTransposingCopy (c : CtxId) (m : Fin 48) (s : State) : Res_ := .next (moveStart 4 c m s)
def execMoveDone (c : CtxId) (m : Fin 48) (s : State) : Res_ := .next (doneRow 2 c m.val s)

end Sys2Proof.Machine
end

