-- ==== Sys2Proof/Machine/Update.lean ====
section
/-! DEFINITION. Update units: descriptors and streams, their checks, the update instructions, vector passes, the version raise and
the result record (chapter 5). -/

namespace Sys2Proof.Machine

/-! ### `UPD_DESC` and `UPD_STREAM` (Tables 5.2 and 5.3) -/

def udStreamVa (d : BitVec 512) : Nat := fld d 511 448
def udParam (d : BitVec 512) : Nat := fld d 447 384
def udResult (d : BitVec 512) : Nat := fld d 383 320
def udShard (d : BitVec 512) : Nat := fld d 319 256
def udGuard (d : BitVec 512) : Nat := fld d 255 192
def udVbase (d : BitVec 512) : Nat := fld d 191 160
def udNvec (d : BitVec 512) : Nat := fld d 159 128
def udStep (d : BitVec 512) : Nat := fld d 127 96
def udTid (d : BitVec 512) : Nat := fld d 95 80
def udEntry (d : BitVec 512) : Nat := fld d 79 76
def udVraise (d : BitVec 512) : Bool := bit d 75
def udResEn (d : BitVec 512) : Bool := bit d 74
def udGuardEn (d : BitVec 512) : Bool := bit d 73
/-- Grid walk? -/
def udGrid (d : BitVec 512) : Bool := bit d 72
def udRowLen (d : BitVec 512) : Nat := fld d 71 48

def usElem (r : BitVec 256) : Nat := fld r 255 192
def usScale (r : BitVec 256) : Nat := fld r 191 128
def usElemWin (r : BitVec 256) : Nat := fld r 127 64
def usScaleWin (r : BitVec 256) : Nat := fld r 63 32
def usRecipe (r : BitVec 256) : Nat := fld r 31 27
def usDir (r : BitVec 256) : Nat := fld r 26 25
def usIn (r : BitVec 256) : Bool := bit r 25
def usOut (r : BitVec 256) : Bool := bit r 26
def usFixed (r : BitVec 256) : Bool := bit r 24

def streamRec (tab : List Byte) (n : Nat) : BitVec 256 := recAt 256 tab (32 * n)
/-- Format code of a stream under the captured recipes. -/
def usRec (q : SrvReq) (r : BitVec 256) : BitVec 64 := q.recipes.getD (usRecipe r) 0
def usFmt (q : SrvReq) (r : BitVec 256) : Nat := rcFormat (usRec q r)

/-! ### Walks (Table 5.5) and what a vector reaches -/

/-- Is a format in the list of the walk? -/
def walkOk (grid : Bool) (f : Nat) : Bool := decide (f < 3) || (if grid then isGrid f else !isGrid f)

/-- Figure of Table 5.6 that VBASE and NVEC of an output stream are multiples of. -/
def lineGran (grid : Bool) (f : Nat) : Nat :=
  if f = 0 then 1 else if f < 3 then (if grid then 2 else 1) else if isGrid f then 32 else 16

/-- Element bytes of a vector of a block-scaled format as packed in HBM (R111). -/
def vecBytes (f : Nat) : Nat := 16 * fmtBits f
/-- Scale bytes of a vector. -/
def vecScales (f : Nat) : Nat := 128 / blkElems f

/-- The element runs of vector q, lane order aside: offset and bytes. Eight rows of sixteen elements under the grid walk of a
scalar format, else one run. -/
def vecRuns (d : BitVec 512) (f q : Nat) : List (Nat × Nat) :=
  let b := fmtBits f / 8
  if udGrid d && decide (f < 3) then
    let w := udRowLen d / 16
    (List.range 8).map fun r => (((8 * (q / w) + r) * udRowLen d + 16 * (q % w)) * b, 16 * b)
  else [(q * vecBytes f, vecBytes f)]

/-- Place of lane l in the runs of a grid walk of a scalar format: row r, column 8h + c for l = 64h + 8r + c. -/
def gridPos (l : Nat) : Nat := 16 * (l % 64 / 8) + 8 * (l / 64) + l % 8

/-- Element bytes that vectors up to q reach. -/
def reachElem (d : BitVec 512) (f q : Nat) : Nat := ((vecRuns d f q).map fun r => r.1 + r.2).foldl max 0

/-- Byte address of a lane's element in stream 0, the index of stochastic rounding (R201). -/
def laneAddr (d : BitVec 512) (r : BitVec 256) (f q l : Nat) : Nat :=
  let b := fmtBits f / 8
  let q := if usFixed r then 0 else q
  usElem r + (if udGrid d then
    let w := udRowLen d / 16
    ((8 * (q / w) + l % 64 / 8) * udRowLen d + 16 * (q % w) + 8 * (l / 64) + l % 8) * b
  else (128 * q + l) * b)

/-! ### Checks (R191 to R194, R198, R201, R202, R206) -/

/-- An address field: a multiple of n below 2^48, and 0 when the request does not use it. -/
def addrBad (v n : Nat) (used : Bool) : Bool := if used then v % n != 0 || decide (2 ^ 48 ≤ v) else v != 0

/-- The fields of the descriptor. -/
def updChecks (q : SrvReq) (d : BitVec 512) : List Chk :=
  let on := udNvec d != 0
  [(16, fld d 47 16 != 0, stReserved),
   (48, if udGrid d then udRowLen d == 0 || udRowLen d % 16 != 0 else udRowLen d != 0, stField),
   (76, on && !ueValid (updEntry q.updp (udEntry d)), stUpdDesc),
   (128, !on && !udVraise d, stField),
   (192, addrBad (udGuard d) 64 (udGuardEn d), stField),
   (256, addrBad (udShard d) 32 (udShard d != 0) || (udVraise d && udShard d == 0), stField),
   (320, addrBad (udResult d) 64 (udResEn d), stField),
   (384, addrBad (udParam d) 64 on, stField),
   (448, addrBad (udStreamVa d) 64 on, stField)]

/-- The fields of a stream table record by themselves, with the walk (R198) and the line granularity of outputs (R202). -/
def streamOwn (q : SrvReq) (d : BitVec 512) (r : BitVec 256) : List Chk :=
  let on := usDir r != 0
  let f := usFmt q r
  let g := lineGran (udGrid d) f
  [(0, fld r 23 0 != 0, stReserved),
   (24, usFixed r && usDir r != 1, stField),
   (27, !on && usRecipe r != 0, stField),
   (27, on && !walkOk (udGrid d) f, stWalk),
   (27, usOut r && (udVbase d % g != 0 || udNvec d % g != 0
      || (udGrid d && (f == 1 || f == 2) && udRowLen d % 32 != 0)), stLineAlign),
   (32, (!on && usScaleWin r != 0) || (usScale r == 0) != (usScaleWin r == 0), stField),
   (64, if on then usElemWin r == 0 || decide (usElem r + usElemWin r > 2 ^ 48) else usElemWin r != 0, stField),
   (128, usScale r % 64 != 0 || ((!on || !isScaled f) && usScale r != 0), stField),
   (192, usElem r % 64 != 0 || (!on && usElem r != 0), stField)]

/-- The stream records of a request, numbered. -/
def streams (tab : List Byte) : List (Nat × BitVec 256) := (List.range 8).map fun n => (n, streamRec tab n)

/-- The windows of a used stream: address and bytes. -/
def streamWins (r : BitVec 256) : List (Nat × Nat) :=
  if usDir r = 0 then [] else (usElem r, usElemWin r) :: (if usScaleWin r = 0 then [] else [(usScale r, usScaleWin r)])

/-- The fixed records of a request with their lines: address, bytes, written. -/
def fixedRecs (d : BitVec 512) : List (Nat × Nat × Bool) :=
  (if udGuardEn d then [(udGuard d, 64, false)] else [])
  ++ (if udShard d = 0 then [] else [(udShard d / 64 * 64, 64, udVraise d)])
  ++ (if udResEn d then [(udResult d, 64, true)] else [])
  ++ (if udNvec d = 0 then [] else [(udParam d, 64, false)])

/-- The body of the request's entry. -/
def bodyOf (q : SrvReq) (d : BitVec 512) : List (BitVec 32) := updBody q.updp (updEntry q.updp (udEntry d))

/-- Does the body disagree with the stream table (R194, R201)? -/
def bodyMismatch (q : SrvReq) (d : BitVec 512) (tab : List Byte) : Bool :=
  let r0 := streamRec tab 0
  ((bodyOf q d).any fun w =>
    (uiOpc w == 0x20 && !usIn (streamRec tab (uiStream w))) || (uiOpc w == 0x21 && !usOut (streamRec tab (uiStream w))))
  || (((streams tab).any fun r => usOut r.2 && rcRound (usRec q r.2)) && !(usIn r0 && decide (usFmt q r0 < 3)))

/-- The last vector that a stream reaches: vector 0 of a FIXED stream. -/
def lastVec (d : BitVec 512) (r : BitVec 256) : Nat := if usFixed r then 0 else udVbase d + udNvec d - 1

/-- Does a window overlap a fixed record of the request, a window of another used stream that passes its own checks, or the
other window of its own stream (R194)? `own` says which stream it is of. -/
def winHits (q : SrvReq) (d : BitVec 512) (tab : List Byte) (own : Nat) (w : Nat × Nat) : Bool :=
  ((fixedRecs d).any fun r => overlap r.1 r.2.1 w.1 w.2)
    || (streams tab).any fun r => (firstSt (streamOwn q d r.2)).isNone && (streamWins r.2).any fun v =>
        (r.1 != own || v != w) && overlap v.1 v.2 w.1 w.2

/-- Every check of stream n's record in the order of R25 and R531: an overlap of a window and a byte outside it belong to the
window's length field. -/
def streamChecks (q : SrvReq) (d : BitVec 512) (tab : List Byte) (n : Nat) : List Chk :=
  let r := streamRec tab n
  let on := usDir r != 0
  let f := usFmt q r
  let own := streamOwn q d r
  own.filter (fun k => decide (k.1 ≤ 32))
    ++ [(32, on && usScaleWin r != 0 && winHits q d tab n (usScale r, usScaleWin r), stStreamOver),
        (32, on && isScaled f && decide ((lastVec d r + 1) * vecScales f > usScaleWin r), stWindow)]
    ++ own.filter (fun k => k.1 == 64)
    ++ [(64, on && winHits q d tab n (usElem r, usElemWin r), stStreamOver),
        (64, on && decide (reachElem d f (lastVec d r) > usElemWin r), stWindow)]
    ++ own.filter (fun k => decide (64 < k.1))

/-- Translation of [va, va + n) leaf by leaf: every page mapped, local, writable when `wr`, and on the unit's own stack (R189). -/
def stackSt (s : State) (x : Ctx) (ret : BitVec 512) (stack : Nat) (wr : Bool) : Nat → Nat → Nat → Option Status
  | 0, _, _ => none
  | fuel + 1, va, n =>
    if n = 0 then none
    else match xlate s x ret va with
      | none => some stTranslation
      | some t =>
        if !isLocal s t.addr || (wr && !t.wr) then some stTranslation
        else if place (localPart t.addr) ≠ some (.hbm stack) then some stWrongStack
        else
          let k := match findLeaf x.maps va with
            | some l => min n (l.va + l.size - va)
            | none => chunkLen va n
          stackSt s x ret stack wr fuel (va + k) (n - k)

/-- The first failing translation of some ranges. -/
def stacksSt (s : State) (c : CtxId) (q : SrvReq) (rs : List (Nat × Nat × Bool)) : Option Status :=
  rs.findSome? fun r => stackSt s (getCtx s c) q.ret (q.unit / 2) r.2.2 (r.2.1 / 4096 + 2) r.1 r.2.1

/-- A local read of a request. -/
def reqRead (s : State) (c : CtxId) (q : SrvReq) (va n : Nat) : State × Except Status (List Byte) :=
  virtRead s ⟨0, some c⟩ (getCtx s c) q.ret va n

/-- Why a request does no work though it completes (R211, R212); the code is SKIP of the result record. -/
def updSkip (s : State) (c : CtxId) (q : SrvReq) : State × Except Status Nat :=
  let d := q.desc
  let guard (s : State) : State × Except Status Nat :=
    if udGuardEn d then
      match reqRead s c q (udGuard d) 4 with
      | (s, .error st) => (s, .error st)
      | (s, .ok bs) => (s, .ok (if leNat bs = 0 then 0 else 2))
    else (s, .ok 0)
  if udShard d = 0 then guard s
  else match reqRead s c q (udShard d) 32 with
    | (s, .error st) => (s, .error st)
    | (s, .ok bs) =>
      let r := recAt 256 bs 0
      if !bit r 0 then (s, .error stShardRec)
      else if fld r 127 2 != 0 then (s, .error stReserved)
      else if bit r 1 then (s, .ok 1)
      else guard s

/-- The checks of the stream table as read (R192): records in ascending number, the body, then every page. -/
def tableSt (s : State) (c : CtxId) (q : SrvReq) (tab : List Byte) : Option Status :=
  let d := q.desc
  match (List.range 8).findSome? fun n => firstSt (streamChecks q d tab n) with
  | some st => some st
  | none =>
    if bodyMismatch q d tab then some stStreamMis
    else stacksSt s c q (((streams tab).filter fun r => usDir r.2 != 0).flatMap fun r =>
      [(usElem r.2, usElemWin r.2, usOut r.2), (usScale r.2, usScaleWin r.2, usOut r.2)])

/-- Every check of a request before any effect, in the order of log 30, with the reads of the shard record and the guard word:
the stream table and the SKIP code. -/
def updCheck (s : State) (c : CtxId) (q : SrvReq) : State × Except Status (List Byte × Nat) :=
  let d := q.desc
  let skip (s : State) (tab : List Byte) : State × Except Status (List Byte × Nat) :=
    match updSkip s c q with
    | (s, .error st) => (s, .error st)
    | (s, .ok k) => (s, .ok (tab, k))
  match firstSt (updChecks q d) with
  | some st => (s, .error st)
  | none => match stacksSt s c q (fixedRecs d ++ (if udNvec d = 0 then [] else [(udStreamVa d, 256, false)])) with
    | some st => (s, .error st)
    | none =>
      if udNvec d = 0 then skip s []
      else match reqRead s c q (udStreamVa d) 256 with
        | (s, .error st) => (s, .error st)
        | (s, .ok tab) => match tableSt s c q tab with
          | some st => (s, .error st)
          | none => skip s tab

/-! ### Registers (Table 5.1) -/

/-- The 128 lanes of a vector register. -/
def vreg (u : UpdUnit) (n : Nat) : List Fp :=
  let w := u.v.filter fun p => decide (128 * n ≤ p.1) && decide (p.1 < 128 * n + 128)
  (List.range 128).map fun l => tget 0 w (128 * n + l)

/-- A vector register written. -/
def setVreg (u : UpdUnit) (n : Nat) (xs : List Fp) : UpdUnit :=
  { u with v := (u.v.filter fun p => decide (p.1 < 128 * n))
      ++ ((List.range 128).zip xs).map (fun p => (128 * n + p.1, p.2))
      ++ (u.v.filter fun p => decide (128 * n + 128 ≤ p.1)) }

/-- Operand b: a vector register, or a parameter register in every lane. -/
def operB (u : UpdUnit) (w : BitVec 32) : List Fp :=
  if uiBk w then List.replicate 128 (tget 0 u.p (uiVb w)) else vreg u (uiVb w)

def accOf (u : UpdUnit) (n : Nat) : Fp × Fp := tget (0, 0) u.a n

/-- A group value into accumulator A[ACC]: the exact sum of 128 lanes rounded once (R205). -/
def accAdd (u : UpdUnit) (n : Nat) (vs : List XVal) : UpdUnit := { u with a := tput u.a n (accumulate (accOf u n) (fpr (xsum vs))) }

/-- The instructions without a stream (Table 5.8). -/
def updArith (op : Nat) (w : BitVec 32) (u : UpdUnit) : UpdUnit :=
  let a := vreg u (uiVa w)
  let d := vreg u (uiVd w)
  let put (xs : List Fp) : UpdUnit := setVreg u (uiVd w) xs
  match op with
  | 0x01 => put (List.zipWith fadd a (operB u w))
  | 0x02 => put (List.zipWith fsub a (operB u w))
  | 0x03 => put (List.zipWith fmul a (operB u w))
  | 0x04 => put (List.zipWith (fun p z => ffma p.1 p.2 z) (a.zip (operB u w)) d)
  | 0x05 => put (List.zipWith fmax a (operB u w))
  | 0x06 => put (List.zipWith fmin a (operB u w))
  | 0x07 => put (a.map fabs)
  | 0x08 => put (a.map fsqrt)
  | 0x09 => put (a.map frsqrt)
  | 0x0A => put (a.map frecip)
  | 0x0B => put (a.map fexp2)
  | 0x0C => put (List.zipWith (fun p z => if p.2 = 0 then z else canonFp p.1) (a.zip (operB u w)) d)
  | 0x0D => put (a.map fnfcls)
  | 0x0E => put ((operB u w).map canonFp)
  | 0x10 => accAdd u (uiAcc w) (a.map fun v => XVal.mul (fpv v) (fpv v))
  | 0x11 => accAdd u (uiAcc w) (a.map fpv)
  | 0x12 => put (List.replicate 128 (pairRound (accOf u (uiAcc w))))
  | _ => u

/-! ### Streams -/

/-- Staged bytes of lines not yet whole, laid over bytes read at an address. -/
def overStaged (pend : List (Nat × List Byte)) (va : Nat) (bs : List Byte) : List Byte :=
  if pend.isEmpty then bs
  else (List.range bs.length).map fun i => pend.foldl (fun b p =>
    if p.1 ≤ va + i ∧ va + i < p.1 + p.2.length then p.2.getD (va + i - p.1) b else b) (bs.getD i 0)

/-- A line buffer takes the bytes of one line; a whole line goes to memory (R202). -/
def lineIn (s : State) (c : CtxId) (q : SrvReq) (va : Nat) (bs : List Byte) : State × SrvReq :=
  let line := va / 64 * 64
  let old : List Byte := match q.pending.find? fun p => p.1 == line with | some p => p.2 | none => []
  let o := va - line
  let buf : List Byte := old.take o ++ List.replicate (o - old.length) 0 ++ bs ++ old.drop (o + bs.length)
  let rest := q.pending.filter fun p => p.1 != line
  if buf.length < 64 then (s, { q with pending := rest ++ [(line, buf)] })
  else (virtWrite s (getCtx s c) q.ret line buf, { q with pending := rest, written := q.written ++ [(line, 64)] })

/-- A run of bytes cut at lines. -/
def cutLines : Nat → Nat → List Byte → List (Nat × List Byte)
  | 0, _, _ => []
  | fuel + 1, va, bs =>
    if bs.isEmpty then []
    else let k := 64 - va % 64; (va, bs.take k) :: cutLines fuel (va + k) (bs.drop k)

/-- A run of bytes into the line buffers. -/
def runIn (c : CtxId) (r : State × SrvReq) (p : Nat × List Byte) : State × SrvReq :=
  (cutLines (p.2.length / 64 + 2) p.1 p.2).foldl (fun r l => lineIn r.1 c r.2 l.1 l.2) r

/-- LD: vector q of a stream, decoded exactly (R199). -/
def loadVec (s : State) (c : CtxId) (q : SrvReq) (r : BitVec 256) (n : Nat) : State × Except Status (List Fp) :=
  let d := q.desc
  let f := usFmt q r
  let n := if usFixed r then 0 else n
  let get (r : State × Except Status (List Byte)) (g : Nat × Nat) : State × Except Status (List Byte) :=
    match r with
    | (s, .error st) => (s, .error st)
    | (s, .ok acc) => match reqRead s c q g.1 g.2 with
      | (s, .error st) => (s, .error st)
      | (s, .ok bs) => (s, .ok (acc ++ overStaged q.pending g.1 bs))
  match ((vecRuns d f n).map fun g => (usElem r + g.1, g.2)).foldl get (s, .ok []) with
  | (s, .error st) => (s, .error st)
  | (s, .ok bs) =>
    if isScaled f then
      match get (s, .ok []) (usScale r + n * vecScales f, vecScales f) with
      | (s, .error st) => (s, .error st)
      | (s, .ok sc) =>
        let e := blkElems f
        let k := e * fmtBits f / 8
        (s, .ok ((List.range (vecScales f)).flatMap fun j =>
          (blockVals f (sc.getD j 0).toNat e ((bs.drop (k * j)).take k)).map fpr))
    else
      let xs := elems (fmtBits f) 128 bs
      let ys := if udGrid d then (List.range 128).map fun l => xs.getD (gridPos l) 0 else xs
      (s, .ok (ys.map fun x => fpr (elemVal f x)))

/-- Bytes of a block's elements as packed in HBM. -/
def packHbm (f : Nat) (xs : List Nat) : List Byte := (packElems f xs).take (xs.length * fmtBits f / 8)

/-- The bytes that ST writes for vector n: runs of elements and scales, and the elements counted in NONFINITE (R200). -/
def storeVec (x : Ctx) (q : SrvReq) (r0 r : BitVec 256) (n : Nat) (vs : List Fp) : List (Nat × List Byte) × Nat :=
  let d := q.desc
  let f := usFmt q r
  let k : Conv := ⟨usRec q r, x.srSeed.toNat, udStep d, udTid d, 0⟩
  let ps := (List.range 128).map (laneAddr d r0 (usFmt q r0) n)
  if isScaled f then
    let e := blkElems f
    let os := (pieces e (128 / e) (ps.zip (vs.map fpv))).map fun b => convBlock k 0 (b.map (·.1)) (b.map (·.2))
    ([(usElem r + n * vecBytes f, os.flatMap fun o => packHbm f o.elems),
      (usScale r + n * vecScales f, os.map fun o => BitVec.ofNat 8 o.field)],
     ((os.filter fun o => o.field == 255).map fun _ => e).sum)
  else
    let xs := List.zipWith (fun p v => (fmtElem f).round (k.rnd p) (fpv v)) ps vs
    let b := fmtBits f / 8
    let ys := if udGrid d then (List.range 128).map fun i =>
        xs.getD (64 * (i % 16 / 8) + 8 * (i / 16) + i % 8) 0 else xs
    let bs := ys.flatMap fun y => leBytes b y
    ((vecRuns d f n).zip (pieces ((vecRuns d f n).map (·.2) |>.headD 0) (vecRuns d f n).length bs)
        |>.map fun p => (usElem r + p.1.1, p.2),
     (xs.filter fun y => !encFinite f y).length)

/-! ### Vector passes (R197) -/

/-- A request in service: state with the unit's registers, the request, and the status of an uncorrectable read. -/
structure URun where
  s  : State
  q  : SrvReq
  st : Option Status
  deriving DecidableEq, Repr

/-- One instruction at the unit's vector index. -/
def updOne (c : CtxId) (r : URun) (w : BitVec 32) : URun :=
  match r.st with
  | some _ => r
  | none =>
    let un := getUnit r.s r.q.unit
    let tab := r.q.tab
    match uiOpc w with
    | 0x20 => match loadVec r.s c r.q (streamRec tab (uiStream w)) un.q with
      | (s, .error st) => ⟨s, r.q, some st⟩
      | (s, .ok xs) => ⟨setUnit s r.q.unit (setVreg un (uiVd w) xs), r.q, none⟩
    | 0x21 =>
      let (runs, bad) := storeVec (getCtx r.s c) r.q (streamRec tab 0) (streamRec tab (uiStream w)) un.q (vreg un (uiVa w))
      let (s, q) := runs.foldl (runIn c) (r.s, r.q)
      ⟨s, { q with nonfin := q.nonfin + bad }, none⟩
    | 0x3F =>
      let d := r.q.desc
      if r.q.vdone < udNvec d then
        let v := r.q.vdone + 1
        ⟨setUnit r.s r.q.unit { un with q := if v < udNvec d then udVbase d + v else un.q }, { r.q with vdone := v }, none⟩
      else r
    | op => ⟨setUnit r.s r.q.unit (updArith op w un), r.q, none⟩

/-- The passes of a request: the body once per vector, in ascending q; END moves on to the next vector. The instructions of the
current pass that rows of their own have taken are not run again. -/
def updPasses (c : CtxId) (body : List (BitVec 32)) : Nat → URun → URun
  | 0, r => r
  | n + 1, r => match r.st with
    | some _ => r
    | none => updPasses c body n ((body.drop r.q.ipos).foldl (updOne c) { r with q := { r.q with ipos := 0 } })

/-- Vectors up to the next quiesce point after `done`, of n in all (R219). -/
def toQuiesce (n done : Nat) : Nat := min (32 - done % 32) (n - done)

/-- The request runs on for `k` vectors; after the last one it is ready to complete. -/
def updRun (s : State) (c : CtxId) (q : SrvReq) (k : Nat) : State :=
  let r := updPasses c (bodyOf q q.desc) k ⟨s, q, none⟩
  match r.st with
  | some st => failHead r.s c r.q st
  | none =>
    let q := r.q
    if q.vdone < udNvec q.desc then putHead r.s c q
    else putHead r.s c { q with phase := .ready, accs := (List.range 4).map fun n => pairRound (accOf (getUnit r.s q.unit) n) }

/-- Service after the checks: registers cleared, parameters loaded, and the passes up to the first quiesce point; a skipped or
raise-only request has none. A request of more vectors goes on by 32 at each further UPDATE_REQUEST row for its unit, and
UPDATE_DONE runs what is left (DESIGN CHOICE, log 59). -/
def updWork (s : State) (c : CtxId) (q : SrvReq) (skip : Nat) : State :=
  let d := q.desc
  let u0 : UpdUnit := { UpdUnit.init with ctx := c, q := udVbase d }
  if skip ≠ 0 ∨ udNvec d = 0 then
    putHead (setUnit s q.unit u0) c { q with phase := .ready, skip := skip }
  else match reqRead s c q (udParam d) 64 with
    | (s, .error st) => failHead s c q st
    | (s, .ok ps) =>
      let u := { u0 with p := (List.range 16).map fun n => (n, recAt 32 ps (4 * n)) }
      updRun (setUnit s q.unit u) c q (toQuiesce (udNvec d) 0)

/-- Virtual ranges whose translations the request holds: its fixed records, its stream table and its streams (R230). -/
def updSpans (d : BitVec 512) (tab : List Byte) : List (Nat × Nat) :=
  (fixedRecs d).map (fun r => (r.1, r.2.1)) ++ (if udNvec d = 0 then [] else (udStreamVa d, 256) :: (streams tab).flatMap fun r => streamWins r.2)

/-- The descriptor lies on the unit's own stack (R189). -/
def updPre (s : State) (c : CtxId) (q : SrvReq) : Option Status := stacksSt s c q [(q.va, 64, false)]

/-- The running request of a unit goes on to its next quiesce point. -/
def updOn (c : CtxId) (u : Nat) (s : State) : State :=
  match headIn s c 3 u .serving with
  | some q => if !srvRuns s c then s else updRun s c q (toQuiesce (udNvec q.desc) q.vdone)
  | none => s

/-- Starts the head request of a unit; `only` says which row it is, raise-only or with vectors. -/
def updStart (only : Bool) (c : CtxId) (u : Fin 24) (s : State) : State :=
  match startHead updPre s c 3 u.val with
  | .idle => if only then s else updOn c u.val s
  | .bad s q st => failHead s c q st
  | .go s q =>
    if (udNvec q.desc == 0) != only then s
    else match updCheck s c q with
      | (s, .error st) => failHead s c q st
      | (s, .ok (tab, k)) =>
        updWork (takeCredits s c q) c { q with phase := .serving, tab := tab, holds := updSpans q.desc tab } k

def execUpdateRequest (c : CtxId) (u : Fin 24) (s : State) : Res_ := .next (updStart false c u s)
def execUpdateRaiseOnly (c : CtxId) (u : Fin 24) (s : State) : Res_ := .next (updStart true c u s)

/-- Each update request that a context reset met between two quiesce points runs on to the next one, where it ends: no record,
no version raise, no token (R219). -/
def quiesce (s : State) (c : CtxId) : State :=
  ((getCtx s c).queue.filter midVector).foldl (fun s q =>
    (updPasses c (bodyOf q q.desc) (toQuiesce (udNvec q.desc) q.vdone) ⟨s, q, none⟩).s) s

/-! ### Completion (R196, R213, R215) -/

/-- The version raise: VSTEP of the line that holds the shard record. -/
def raiseVersion (s : State) (c : CtxId) (q : SrvReq) : State × Except Status SrvReq :=
  let d := q.desc
  if !udVraise d || q.skip != 0 then (s, .ok q)
  else
    let line := udShard d / 64 * 64
    match reqRead s c q line 64 with
    | (s, .error st) => (s, .error st)
    | (s, .ok bs) =>
      let o := udShard d - line + 20
      (virtWrite s (getCtx s c) q.ret line (bs.take o ++ leBytes 4 (udStep d) ++ bs.drop (o + 4)),
       .ok { q with written := q.written ++ [(line, 64)] })

/-- `UPD_RESULT` (Table 5.4). -/
def updResult (q : SrvReq) : List Byte :=
  let a (n : Nat) : Nat := (q.accs.getD n 0).toNat
  leBytes 64 (a 0 * 2 ^ 480 + a 1 * 2 ^ 448 + a 2 * 2 ^ 416 + a 3 * 2 ^ 384 + q.nonfin % 2 ^ 32 * 2 ^ 352
    + q.vdone % 2 ^ 32 * 2 ^ 320 + q.skip * 2 ^ 318)

/-- The event of a request that wrote non-finite elements (Table 11.22). -/
def updNonfinite (s : State) (c : CtxId) (q : SrvReq) : State :=
  let x := getCtx s c
  if q.nonfin = 0 then s
  else raise s (ctxEvent c evUpdNonfinite (x.fr.num.toNat + q.unit * 2 ^ 48) (progId x) 0 q.nonfin q.tag.toNat)

/-- UPDATE_DONE: the passes that are left, then the version raise, the result record, the event, and DONE_TOKEN. -/
def updDone (c : CtxId) (u : Fin 24) (s : State) : State :=
  let s := match headIn s c 3 u.val .serving with
    | some q => if srvRuns s c then updRun s c q (udNvec q.desc - q.vdone) else s
    | none => s
  if !srvRuns s c then s
  else match headIn s c 3 u.val .ready with
    | none => s
    | some q => match raiseVersion s c q with
      | (s, .error st) => failHead s c q st
      | (s, .ok q) =>
        let d := q.desc
        let (s, q) := if udResEn d then
            (virtWrite s (getCtx s c) q.ret (udResult d) (updResult q), { q with written := q.written ++ [(udResult d, 64)] })
          else (s, q)
        finishHead (updNonfinite s c q) c q

def execUpdateDone (c : CtxId) (u : Fin 24) (s : State) : Res_ := .next (updDone c u s)

/-! ### Instructions alone (Table 5.8) -/

/-- A running request whose next instruction is w has taken it: END ends the pass. -/
def stepBody (q : SrvReq) (w : BitVec 32) : SrvReq :=
  if (bodyOf q q.desc)[q.ipos]? = some w then { q with ipos := if uiOpc w = 0x3F then 0 else q.ipos + 1 } else q

/-- The request that a unit runs, with its context. -/
def runningOn (s : State) (u : Nat) : Option (CtxId × SrvReq) :=
  let c := (getUnit s u).ctx
  if !srvRuns s c then none else (headIn s c 3 u .serving).map fun q => (c, q)

/-- One update instruction on a unit at its vector index. The word's opcode is the row's, and its unused fields are 0 (R203);
any other word is invalid and has no effect. LD, ST and END act for the request in service; with none they have no effect. -/
def updAlone (op : Nat) (u : Fin 24) (w : BitVec 32) (s : State) : State :=
  if uiOpc w ≠ op ∨ (firstSt (instrChecks w)).isSome ∨ s.pkg.computeReset then s
  else if op < 0x20 then
    let s := setUnit s u.val (updArith op w (getUnit s u.val))
    match runningOn s u.val with
    | some (c, q) => putHead s c (stepBody q w)
    | none => s
  else match runningOn s u.val with
    | none => s
    | some (c, q) =>
      let r := streamRec q.tab (uiStream w)
      if (op = 0x20 ∧ !usIn r) ∨ (op = 0x21 ∧ !usOut r) then s
      else
        let r := updOne c ⟨s, stepBody q w, none⟩ w
        match r.st with
        | some st => failHead r.s c r.q st
        | none => putHead r.s c r.q

def execUpdAdd (u : Fin 24) (w : BitVec 32) (s : State) : Res_ := .next (updAlone 0x01 u w s)
def execUpdSub (u : Fin 24) (w : BitVec 32) (s : State) : Res_ := .next (updAlone 0x02 u w s)
def execUpdMul (u : Fin 24) (w : BitVec 32) (s : State) : Res_ := .next (updAlone 0x03 u w s)
def execUpdFma (u : Fin 24) (w : BitVec 32) (s : State) : Res_ := .next (updAlone 0x04 u w s)
def execUpdMax (u : Fin 24) (w : BitVec 32) (s : State) : Res_ := .next (updAlone 0x05 u w s)
def execUpdMin (u : Fin 24) (w : BitVec 32) (s : State) : Res_ := .next (updAlone 0x06 u w s)
def execUpdAbs (u : Fin 24) (w : BitVec 32) (s : State) : Res_ := .next (updAlone 0x07 u w s)
def execUpdSqrt (u : Fin 24) (w : BitVec 32) (s : State) : Res_ := .next (updAlone 0x08 u w s)
def execUpdRsqrt (u : Fin 24) (w : BitVec 32) (s : State) : Res_ := .next (updAlone 0x09 u w s)
def execUpdRecip (u : Fin 24) (w : BitVec 32) (s : State) : Res_ := .next (updAlone 0x0A u w s)
def execUpdExp2 (u : Fin 24) (w : BitVec 32) (s : State) : Res_ := .next (updAlone 0x0B u w s)
def execUpdSel (u : Fin 24) (w : BitVec 32) (s : State) : Res_ := .next (updAlone 0x0C u w s)
def execUpdNfcls (u : Fin 24) (w : BitVec 32) (s : State) : Res_ := .next (updAlone 0x0D u w s)
def execUpdMov (u : Fin 24) (w : BitVec 32) (s : State) : Res_ := .next (updAlone 0x0E u w s)
def execUpdSqacc (u : Fin 24) (w : BitVec 32) (s : State) : Res_ := .next (updAlone 0x10 u w s)
def execUpdSumacc (u : Fin 24) (w : BitVec 32) (s : State) : Res_ := .next (updAlone 0x11 u w s)
def execUpdAccrd (u : Fin 24) (w : BitVec 32) (s : State) : Res_ := .next (updAlone 0x12 u w s)
def execUpdLd (u : Fin 24) (w : BitVec 32) (s : State) : Res_ := .next (updAlone 0x20 u w s)
def execUpdSt (u : Fin 24) (w : BitVec 32) (s : State) : Res_ := .next (updAlone 0x21 u w s)
def execUpdEnd (u : Fin 24) (w : BitVec 32) (s : State) : Res_ := .next (updAlone 0x3F u w s)

end Sys2Proof.Machine
end

