-- ==== Sys2Proof/Machine/Resets.lean ====
section
/-! DEFINITION. Context and compute resets to their end, escalation, out of service, and the restarts of Halyard and
of the Trim controllers (11.2 to 11.5). -/

namespace Sys2Proof.Machine

/-! ### The end of a context reset (Table 11.2, steps 5 to 7) -/

/-- Answers every function whose command waits as given. -/
def answerWait (s : State) (w : Wait) (a : Ans) : State :=
  allCtxs.foldl (fun s n => if (getFn s n).busy = some w then answer s n a else s) s

/-- CONTEXT_RESET_DONE: the state of Table 11.4; a destroy command goes on under R416. -/
def ctxResetDone (s : State) (c : CtxId) : State :=
  let x := getCtx s c
  match x.reset with
  | none => s
  | some r =>
    if x.run ≠ .resetting ∨ s.pkg.crBusy then s
    else
      let s := clearTiles (quiesce s c) x
      let s := setCtx (clearGrants s c) c (reinit x)
      let s := resetRecord s 0 r.cause (2 ^ c.val) r.startNs 0 false false
      let s := raise s (ctxEvent c evCtxResetDone r.frame.toNat 0 0 r.cause 0)
      let s := if r.destroy then raise (destroyCtx s c) (ctxEvent c evCtxDestroyed 0 0 0 0 0) else s
      let s := if r.destroy then x.drains.foldl (fun s d => if d.late then s else answerTo s (some d.fn) (.unmap c) .ok) s else s
      answerWait (answerWait s (.reset c) .ok) (.destroy c) .ok

/-! ### Compute reset (R421 to R424, Table 11.5) -/

/-- A context reset in progress is taken over: its RESET record is abandoned and its command answered compute-reset. -/
def takeOver (s : State) (c : CtxId) : State :=
  let s := match (getCtx s c).reset with
    | some r => resetRecord s 0 r.cause (2 ^ c.val) r.startNs 0 false true
    | none => s
  let a := Ans.fail stComputeReset noField
  answerWait (answerWait s (.reset c) a) (.destroy c) a

/-- Entry: every existing context is reset, the compute domain stops. A request while one runs joins it. -/
def computeReset (s : State) (cause : Nat) (fn : Option CtxId) : State :=
  if s.pkg.crBusy then modPkg s fun p => { p with crFn := p.crFn.orElse fun _ => fn }
  else
    let cs := existing s
    let s := cs.foldl (fun s c =>
      if (getCtx s c).run = .resetting then takeOver s c
      else
        let s := match (getCtx s c).is.reset with
          | some _ => takeOver s c
          | none => s
        enterReset s c ⟨cause, none, false, s.clk.mastNs, 0⟩) s
    modPkg s fun p => { p with
      state := 2
      computeReset := true
      hbmUp := false
      crBusy := true
      crCause := cause
      crStartNs := s.clk.mastNs
      crFn := fn
      crSelf := false }

/-- Escalation events in the last WINDOW_S seconds (R426). -/
def escCount (s : State) : Nat :=
  (s.hal.escHist.filter fun e => decide (timeUs s ≤ e.2 + fld s.hal.escPol 27 16 * 1000000)).length

/-- Does a compute reset of this cause escalate? -/
def escalates (cause : Nat) : Bool := cause == 3 || cause == 4 || cause == 5

/-- The history with one more entry: the ring's slot and cause, and the time. -/
def escAdd (s : State) (cause : Nat) : State :=
  modHal s fun h => { h with
    escHist := (16 * h.escNext + cause, timeUs s) :: h.escHist.filter (fun e => e.1 / 16 != h.escNext)
    escNext := (h.escNext + 1) % 15 }

/-- Reef and clock after step 3 and 5: power rung 0, thermal rung kept, the highest usable step (R401, R407). -/
def stepUsable (s : State) (k : Nat) : Bool :=
  (List.range 2).all fun d => fld (tget vtabReset s.reef.vtab d) (8 * k + 7) (8 * k) != 0xFF

/-- The step in force when a step is asked for: unusable steps are skipped; none left in range gives the highest usable step
below DVFS_MIN, or 0.90 GHz, and MARGIN_LOW. `true`: the range has no usable step. -/
def usableStep (s : State) (want : Nat) : Nat × Bool :=
  let hi := fld s.reef.pol.act 93 91
  let lo := fld s.reef.pol.act 90 88
  let ok := (List.range 5).filter fun k => decide (hi ≤ k) && decide (k ≤ lo) && stepUsable s k
  match ok.find? fun k => decide (want ≤ k) with
  | some k => (k, false)
  | none => match ok.getLast? with
    | some k => (k, false)
    | none => match (List.range 5).find? fun k => decide (lo < k) && stepUsable s k with
      | some k => (k, true)
      | none => (4, true)

/-- Runs at the usable step for a wanted one. -/
def setStep (s : State) (want : Nat) : State :=
  let (k, low) := usableStep s want
  let was := s.reef.marginLow
  let s := modReef s fun r => { r with dvfsStep := k, marginLow := low }
  if low && !was then reasonOn (raise s (pkgEvent evMarginLow 0 0 k (fld s.reef.pol.act 90 88))) 13 else s

/-- Steps 5 to 7: clock, memory, on-chip stores. -/
def computeStart (s : State) : State :=
  let s := setStep s (fld s.reef.pol.act 93 91)
  let s := memZero (memZero s (dieBase 0) dieSize) (dieBase 1) dieSize
  memZero { s with tiles := [], units := [] } 0xF100000000 0x10000000

/-- Local HBM pages that the existing contexts map: marked by step 4 (R422). -/
def pagesToMark (s : State) : List Leaf :=
  (existing s).flatMap fun c =>
    ((getCtx s c).maps ++ (getCtx s c).drains.flatMap (·.leaves)).filter fun l => isLocal s l.addr && isHbm (localPart l.addr)

/-- Entry into OUT_OF_SERVICE (R427). -/
def enterOos (s : State) : State :=
  let s := modPkg s fun p => { p with state := 3, computeReset := true, hbmUp := false }
  let s := modHal s fun h => { h with alert := h.alert ||| 4 }
  reasonOn (raise s (pkgEvent evOos 0 0 (escCount s) (fld s.hal.escPol 31 28))) 14

/-- Counts an escalation; true when the policy's number is reached. -/
def escalate (s : State) (cause : Nat) : State × Bool :=
  let s := escAdd s cause
  let n := escCount s
  let limit := fld s.hal.escPol 31 28
  (raise s (pkgEvent evEscalation 0 0 n limit), decide (limit ≤ n))

/-- COMPUTE_RESET_DONE. Steps 5 to 8 need the core rails: once PWRGD_CORE is gone, only a package reset starts the part again (R511). -/
def computeResetDone (s : State) : State :=
  if !s.pkg.crBusy || !s.pins.pwrgdCore then s
  else
    let cs := existing s
    let mask := ofBits (cs.map (·.val))
    let cause := s.pkg.crCause
    let start := s.pkg.crStartNs
    let fn := s.pkg.crFn
    let self := s.pkg.crSelf
    let waiting := cs.flatMap fun c => ((getCtx s c).drains.filter fun d => !d.late).map fun d => (c, d.fn)
    let s := cs.foldl quiesce s
    let marks := pagesToMark s
    let s := modMem (cs.foldl dropAll s) fun m => { m with marked := (m.marked ++ marks).eraseDups, bwin := [] }
    let s := modReef { s with ctxs := [] } fun r => { r with rungC := 0, belowRun := 0, stretch := 0, stretchDie := [], droopUp := false }
    let s := computeStart s
    let s := modPkg s fun p => { p with state := 1, computeReset := false, hbmUp := true, crBusy := false, crFn := none, crSelf := false, tripped := false }
    let (s, out) := if escalates cause then escalate s cause else (s, false)
    let s := resetRecord s 1 cause mask start (if escalates cause then escCount s else 0) out false
    let s := if out then enterOos s else s
    let s := raise s (pkgEvent evCrDone 0 0 cause 0)
    let s := if self then raise (modHal s fun h => { h with alert := h.alert ||| 4 }) (pkgEvent evReturn 0 0 0 0) else s
    let s := waiting.foldl (fun s d => answerTo s (some d.2) (.unmap d.1) .ok) s
    answerTo (answerTo s fn .compute .ok) fn .service .ok

/-- TEARDOWN_STUCK: a context reset is not complete 10 ms after its entry. -/
def teardownStuck (s : State) (c : CtxId) : State :=
  if (getCtx s c).run = .resetting ∧ !s.pkg.crBusy then computeReset s 4 none else s

/-! ### Commands -/

/-- Is the compute domain held in reset: OUT_OF_SERVICE or a start-up that has not ended? -/
def heldInReset (s : State) : Bool := s.pkg.state == 3 || s.pkg.state == 0

/-- COMPUTE_RESET. -/
def bodyComputeReset : Body := fun s n _ _ =>
  if heldInReset s then (s, .now .ok) else (computeReset s 10 (some n), .later .compute)

/-- RETURN_TO_SERVICE: steps 5 to 8 run, the escalation history is cleared; the answer comes with COMPUTE_RESET_DONE. -/
def bodyReturn : Body := fun s n _ _ =>
  if s.pkg.state ≠ 3 then (s, .now (.fail stCtxState noField))
  else
    let s := modHal s fun h => { h with escHist := [], escNext := 0 }
    let s := fbCounters s
    (modPkg s fun p => { p with state := 2, crBusy := true, crCause := 9, crStartNs := s.clk.mastNs, crFn := some n, crSelf := true },
     .later .service)

/-- FLR on the PF: a compute reset, and the registers of function 0 go back (R421, R458). The manual says nothing of NumVFs or of the
VFs' registers there, and they stay (log 34). -/
def pfFlr (s : State) : State :=
  if !s.pins.perstN then s
  else
    let s := flrFn s 0
    let s := modPkg s fun p => { p with crFn := none }
    if heldInReset s then s else computeReset s 2 none

/-- ESC_WRITE (Table 11.6). -/
def bodyEscWrite : Body := fun s _ _ p =>
  let v := pf p 0 4
  checked s [(0, v % 2 ^ 16 != 0, stReserved), (16, v / 2 ^ 16 % 2 ^ 12 == 0 || decide (3600 < v / 2 ^ 16 % 2 ^ 12), stPolicy),
      (28, v / 2 ^ 28 == 0, stPolicy)]
    (modHal s fun h => { h with escPol := BitVec.ofNat 32 v }, .now .ok)

/-! ### Restarts (R428, R429) -/

/-- HALYARD_RESTART: the restart begins; commands outstanding end as Halyard-restarted (R458). Halyard serves again after a time that the
manual only bounds by 200 ms: a free value (log 45). -/
def halyardRestart (s : State) (memErr : Bool) : State :=
  if !s.pkg.halyardUp || restarting s then s
  else
    let (d, s) := drawNat s
    let s := allCtxs.foldl (fun s n => if (getFn s n).busy.isSome then answer (lateDrains s n) n (.fail stRestarted noField) else s) s
    modPkg s fun p => { p with restart := some ⟨s.clk.mastNs, if memErr then 12 else 11, s.clk.mastNs + d % 200000001⟩ }

/-- The compute domain is taken out of service: a compute reset in progress ends first, then every context goes (R426, R427). -/
def goOos (s : State) : State :=
  if s.pkg.state = 3 then s
  else
    let s := if s.pkg.crBusy then computeResetDone s else s
    if s.pkg.state = 3 then s
    else
      let s := (existing s).foldl (fun s c => enterReset s c ⟨4, none, false, s.clk.mastNs, 0⟩) s
      let s := (existing s).foldl quiesce s
      let marks := pagesToMark s
      let s := modMem ((existing s).foldl dropAll s) fun m => { m with marked := (m.marked ++ marks).eraseDups, bwin := [] }
      enterOos (modPkg { s with ctxs := [], tiles := [], units := [] } fun p => { p with crBusy := false, crFn := none, crSelf := false })

/-- Halyard serves again: the events that waited are taken in order, commands posted meanwhile wait for their rows, and the restart
counts toward escalation (R426, R428). -/
def restartOver (s : State) : State :=
  match s.pkg.restart with
  | none => s
  | some r =>
    if s.clk.mastNs < r.endNs then s
    else
      let evs := s.hal.evq
      let s := modHal (modPkg s fun p => { p with restart := none }) fun h => { h with evq := [] }
      let s := evs.foldl takeEvent s
      let (s, out) := escalate s r.cause
      let s := resetRecord s 4 r.cause 0 r.startNs (escCount s) out false
      let s := tallyAdd s 11 (7 * dayNs) 1 r.startNs false
      let s := raise s (pkgEvent evHalyard 0 0 r.cause 0)
      allCtxs.foldl answerUnknown (if out then goOos s else s)

/-- PLAN_SLOT_ADVANCE: the slot, and what its time brings to an end. -/
def slotTick (s : State) : State := restartOver (slotAdvance s)

/-- TRIM_RESTART of die 0 (Shroud) or 1 (Stay). -/
def trimRestart (s : State) (die : Fin 2) : State :=
  if !s.pins.perstN then s
  else
    let s := (allLoops.filter fun i => i / 1024 == die.val).foldl (fun s i =>
      let l := getLoop s i
      if l.st = .fault then s else moveLoop s i { l with st := .acquire }) s
    let s := resetRecord s 5 11 (2 ^ die.val) s.clk.mastNs 0 false false
    let s := tallyAdd s 11 (7 * dayNs) 1 (s.clk.mastNs + 1) false
    raise s (pkgEvent evTrim 0 0 die.val 0)

/-! ### The meanings -/

def execContextResetDone (c : CtxId) (s : State) : Res_ := .next (ctxResetDone s c)
def execTeardownStuck (c : CtxId) (s : State) : Res_ := .next (teardownStuck s c)
def execComputeResetDone (s : State) : Res_ := .next (computeResetDone s)
def execComputeReset (r : Req) (s : State) : Res_ := .next (mailbox ⟨0x0805, 0, false, .any⟩ bodyComputeReset r s)
def execReturnToService (r : Req) (s : State) : Res_ := .next (mailbox ⟨0x0806, 0, false, .any⟩ bodyReturn r s)
def execPfFlr (s : State) : Res_ := .next (pfFlr s)
def execEscWrite (r : Req) (s : State) : Res_ := .next (mailbox ⟨0x0507, 4, false, .any⟩ bodyEscWrite r s)
def execPlanSlotAdvance (s : State) : Res_ := .next (slotTick s)
def execHalyardRestart (memErr : Bool) (s : State) : Res_ := .next (halyardRestart s memErr)
def execTrimRestart (die : Fin 2) (s : State) : Res_ := .next (trimRestart s die)

end Sys2Proof.Machine
end

