-- ==== Sys2Proof/Machine/Boot.lean ====
section
/-! DEFINITION. Package and cold resets, the power-good inputs, start-up from PERST_N to READY, and the Field book's flash copy
(11.3, 11.6, 13.3, 14.3). -/

namespace Sys2Proof.Machine

/-! ### The Field book and its flash copy (R430, R536) -/

/-- FIELD_BOOK_FLUSH: new and updated records are copied; COMMITTED is set in each. -/
def fbFlush (s : State) : State :=
  if !s.pkg.halyardUp || restarting s then s
  else modHal s fun h =>
    let fb := h.dirty.foldl (fun m r => cwrite m (64 * r + 20) [cget 0 m (64 * r + 20) ||| 0x80]) h.fb
    { h with fb := fb, flash := fb, dirty := [] }

/-- Records found by walking rows from q on: (first row, ROWS, SEQ). -/
def fbWalk (m : Cells) : Nat → Nat → List (Nat × Nat × Nat)
  | 0, _ => []
  | n + 1, q =>
    let h : BitVec 256 := recAt 256 (cread m (64 * q) 32) 0
    if h = 0 then fbWalk m n (q + 1)
    else
      let k := max 1 (fld h 175 168)
      (q, k, fld h 95 64) :: fbWalk m (n + 1 - k) (q + k)

/-- The registers that the counters record holds, taken from a restored Field book. -/
def restoreCounters (h : Hal) : Hal :=
  let body := cread h.fb (64 * 1024 + 32) 992
  let u (off n : Nat) : Nat := leNat ((body.drop off).take n)
  let ring := fbWalk h.fb 27392 5376
  let recs := fbWalk h.fb 4352 1024 ++ ring
  let last := ring.foldl (fun m r => if r.2.2 ≥ m.2.2 then r else m) (5376, 0, 0)
  let next := last.1 + last.2.1
  { h with
    hours := u 0 4
    health := BitVec.ofNat 32 (u 4 4)
    escNext := u 8 1
    stopOver := u 12 4
    clean := (List.range 15).map fun n => (n, u (16 + 4 * n) 4)
    escHist := (List.range 15).filterMap fun j =>
      let e := u (80 + 8 * j) 8
      if (e >>> 52) % 2 = 1 then some (16 * j + (e >>> 48) % 16, e % 2 ^ 48) else none
    resets := (List.range 128).map fun i => (i, u (224 + 4 * i) 4)
    fbNext := if ring.isEmpty ∨ 32768 ≤ next then 5376 else next
    fbSeq := if recs.isEmpty then 0 else BitVec.ofNat 32 (recs.foldl (fun m r => max m r.2.2) 0 + 1)
    dirty := [] }

/-! ### Package reset (R423, R424) -/

/-- The RESET records of narrower resets in progress: abandoned. -/
def abandonResets (s : State) : State :=
  let s := match s.pkg.restart with
    | some r => resetRecord s 4 r.cause 0 r.startNs 0 false true
    | none => s
  if s.pkg.crBusy then resetRecord s 1 s.pkg.crCause (ofBits ((existing s).map (·.val))) s.pkg.crStartNs 0 false true
  else (existing s).foldl (fun s c => match (getCtx s c).reset with
    | some r => resetRecord s 0 r.cause (2 ^ c.val) r.startNs 0 false true
    | none => s) s

/-- Every domain in reset: what survives is Mast time, the Field book and the dump area, memory bytes until the next start-up,
boot flash and fuses, the margin tables, the cartridge's own store, and everything outside the package. -/
def packageReset (s : State) : State :=
  let s := if s.pins.perstN && s.pkg.halyardUp then abandonResets s else s
  let r := State.reset
  { r with
    clk := { s.clk with planSlot := 0 }
    pins := { s.pins with perstN := false, thermtripN := true, lcPwrEn := false, qspiRstN := false }
    pkg := { r.pkg with crCause := 7, crStartNs := s.clk.mastNs, brakeLatch := false }
    reef := { r.reef with vtab := s.reef.vtab, trimNs := s.reef.trimNs }
    mem := { s.mem with marked := [], bwin := [], cnt := [] }
    host := s.host
    optics := { r.optics with
      cartSerial := s.optics.cartSerial
      cartSeen := s.optics.cartSeen
      cartMap := s.optics.cartMap
      cartLife := s.optics.cartLife
      cartCtr := s.optics.cartCtr
      due := s.optics.swaps.map fun w => (w.role, 0, 0) }
    fab := { r.fab with tx := s.fab.tx, xferNo := s.fab.xferNo }
    hal := { s.hal with escHist := [], escNext := 0, escPol := r.hal.escPol, evq := [], evDrop := 0, alert := 0, smb := 0 }
    boot := { s.boot with
      staging := []
      writing := none
      sectors := []
      image := []
      hasImage := false
      spdm := 0 }
    msix := s.msix
    cpl := s.cpl
    freeCtr := s.freeCtr
    pending := s.pending }

/-- PERST_N_ASSERT. -/
def perstAssert (s : State) : State := if s.pins.perstN then packageReset s else s

/-- PWRGD_AUX_DEASSERT: as PERST_N; the dump area is lost, so that its slots read free. -/
def auxLost (s : State) : State :=
  let s := packageReset s
  modHal (modPins s fun p => { p with pwrgdAux := false }) fun h => { h with dumps := [] }

/-- PWRGD_CORE_DEASSERT: nothing further after a trip. -/
def coreLost (s : State) : State :=
  let s := if s.pins.thermtripN then packageReset s else s
  modPins s fun p => { p with pwrgdCore := false }

/-- PWRGD_MAST_DEASSERT: a cold reset; what the flash copy does not hold is lost. -/
def mastLost (s : State) (sramKept : Bool) : State :=
  let s := auxLost s
  let s := modPins s fun p => { p with pwrgdMast := false, pwrgdCore := false }
  let s := modHal s fun h => { h with fb := if sramKept then h.fb else [], fbBad := if sramKept then h.fbBad else [] }
  let s := modOpt s fun o => { o with due := [] }
  modReef s fun r => { r with vtab := [], trimNs := 0 }

/-- TEST_N_LOW: held in package reset. -/
def testLow (s : State) : State := modPins (perstAssert s) fun p => { p with testN := false }

/-- POWER_UP: the Mast domain starts; Mast time and its intervals from 0, the Field book restored from its flash copy. A cold reset does
what a package reset does, so the escalation history is cleared (R423, R427). -/
def powerUp (s : State) : State :=
  if s.pins.pwrgdMast then s
  else
    let boot := s.clk.boot + 1
    let h := { restoreCounters { Hal.init with fb := s.hal.flash, flash := s.hal.flash, spareCart := s.hal.spareCart } with escHist := [], escNext := 0 }
    { s with
      clk := ⟨0, boot, 0⟩
      pins := { s.pins with pwrgdMast := true, testN := true }
      pkg := { s.pkg with crCause := 8, crStartNs := 0 }
      mem := { s.mem with errs := [], rowCe := [], lineCe := [], remapQ := [] }
      hal := h }

/-! ### Start-up (R478 to R481, Table 13.4) -/

/-- Sequence stopped with Halyard running: a boot record, and BOOT_STEP shows the step with 0x8000 (R481). -/
def stopBoot (s : State) (step : Nat) : State :=
  let s := modPkg s fun p => { p with bootStep := BitVec.ofNat 16 (0x8000 + step) }
  bootRecord s (0x8000 + step) (imVersion (recAt 2048 s.boot.image 0)) 0

/-- R509: is the board configuration block acceptable? -/
def boardOk (b : BitVec 512) : Bool :=
  let ent (n : Nat) : Nat := fld b (16 * n + 15) (16 * n)
  fld b 511 480 == (crc32c (leBytes 60 b.toNat)).toNat && fld b 447 440 == 1 && fld b 439 192 == 0
    && (List.range 12).all fun n => ent n % 2 == 1 && ent n / 2 % 8 == 0
      && (List.range n).all fun m => ent m / 16 != ent n / 16

/-- A VTAB_Dd entry after the cold-start trim: 10 steps above the last good voltage, or unusable (R404). -/
def trimEntry (good : Nat) : Nat := if good > 90 then 0xFF else good + 10

/-- Step 0x0005: the cold-start margin trim, and dies whose regulator does not answer (R404, R508). The per-step voltages of the
record have no stated form: free values (log 1). -/
def bootTrim (s : State) (e : BootEnv) : State :=
  let unusable : BitVec 64 := vtabReset
  let table (d : Nat) : BitVec 64 :=
    if !e.vddcAck.getD d true then unusable
    else if s.pkg.crCause = 8 then
      BitVec.ofNat 64 ((List.range 5).foldl (fun acc k => acc + trimEntry ((e.trim.getD d []).getD k 0xFF).toNat * 2 ^ (8 * k)) 0)
    else tget vtabReset s.reef.vtab d
  let t0 := table 0
  let t1 := table 1
  let s := modReef s fun r => { r with vtab := [(0, t0), (1, t1)], trimNs := s.clk.mastNs }
  if s.pkg.crCause = 8 then
    let bs := (List.range 48).map (Config.freeByte s.freeCtr)
    fbAppend { s with freeCtr := s.freeCtr + 1 } 0x51 2 (leBytes 8 t0.toNat ++ leBytes 8 t1.toNat ++ bs)
  else s

/-- Every loop of a die enters FAULT: its Trim controller did not start (Table 13.4, R273). -/
def dieFault (s : State) (d : Nat) : State := (allLoops.filter fun i => i / 1024 == d).foldl (fun s i => loopFault s i 0) s

/-- Step 0x0007: HBM is zero-filled, at package reset all but the dump area; so are the on-chip stores (R225). -/
def zeroAll (s : State) : State :=
  let s := if s.pkg.crCause = 8 then memZero s 0 hbmEnd else memZero (memZero s 0 halyardBase) 0x8FC4000000 0x3C000000
  memZero (memZero s (dieBase 0) 0x20000000) 0xF100000000 0x10000000

/-- Step 0x000A: once light may leave, Shroud receive loops lock on their peers' pilots, or end in FAULT; the thousandth round ends the
2 s (R277). The heater codes and tones are free values (log 1). -/
def bootRotation (s : State) (faults : List (Nat × Nat)) : State :=
  if s.optics.dark then s
  else
    let s := ((List.range 56).map (176 + ·)).foldl (fun s i =>
      let l := getLoop s i
      if l.st = .fault then s
      else if faults.contains (0, i) then loopFault s i 3
      else
        let (h, s) := drawNat s
        let t : BitVec 6 := if loopPilot i then toneField ((expected s i)[h / 4096 % 4]?) else l.tone
        moveLoop s i { l with st := .locked, fails := 0, peaks := [], tone := t, heater := BitVec.ofNat 12 h }) s
    rotationRound (modOpt s fun o => { o with rot := 999 % 7 })

/-- Steps 0x0008 and 0x0009: calibration, then cartridge authentication. Without a cartridge, or while LC_FAULT_N is low, every
transmitter stays dark. -/
def bootCart (s : State) (e : BootEnv) : State :=
  if s.pins.lcPresN then s
  else if !s.pins.lcFaultN then modOpt s fun o => { o with lcWait := true }
  else
    let s := calibrateCart s (loopList (e.loopsOk.filter fun p => p.1 < 2))
    if e.authFail ≠ 0 then authFailed s e.authFail else lightOn (authPassed s false)

/-- Steps 0x0004 to 0x000C with Halyard running. -/
def bootRest (s : State) (e : BootEnv) : State :=
  let s := (List.range 2).foldl (fun s d => if e.trimOk.getD d true then s else dieFault s d) s
  let s := bootTrim s e
  if !e.hbmOk then stopBoot s 6
  else if !e.fillOk then stopBoot s 7
  else
    let s := zeroAll s
    let s := bootCart s e
    let s := bootRotation s e.rxFault
    let s := firstReady s
    let s := computeStart s
    let cause := s.pkg.crCause
    let s := modPkg s fun p => { p with state := 1, bootStep := 0x000C, computeReset := false, hbmUp := true }
    let s := resetRecord s (if cause = 8 then 3 else 2) cause 0 s.pkg.crStartNs 0 false false
    bootRecord s 0x000C (imVersion (recAt 2048 s.boot.image 0)) 0

/-- PERST_N_DEASSERT, with every rail good: the start-up sequence as one step. -/
def startUp (s : State) (e : BootEnv) : State :=
  if s.pins.perstN || !s.pins.pwrgdMast || !s.pins.testN then s
  else
    let s := modPins s fun p => { p with perstN := true, qspiRstN := true, pwrgdAux := true, pwrgdCore := true, plane := Config.plane }
    let s := modPkg s fun p => { p with linkUp := e.linkOk }
    let step (s : State) (n : Nat) : State := modPkg s fun p => { p with bootStep := BitVec.ofNat 16 n }
    if !e.romOk || !e.linkOk then step s 0x8001
    else match bootSelect s with
      | (s, false) => step (modPkg s fun p => { p with romService := true }) 0x8002
      | (s, true) =>
        if !e.halyardOk then step (modPkg s fun p => { p with romService := true }) 0x8003
        else
          let s := modPkg s fun p => { p with halyardUp := true }
          let s := fbCounters s
          if !boardOk e.boardCfg then stopBoot s 3
          else bootRest (modPkg s fun p => { p with ssIds := BitVec.ofNat 32 (fld e.boardCfg 463 448 * 65536 + fld e.boardCfg 479 464) }) e

/-! ### The meanings -/

def execPerstNAssert (s : State) : Res_ := .next (perstAssert s)
def execPerstNDeassert (e : BootEnv) (s : State) : Res_ := .next (startUp s e)
def execPwrgdMastDeassert (sramKept : Bool) (s : State) : Res_ := .next (mastLost s sramKept)
def execPwrgdAuxDeassert (s : State) : Res_ := .next (auxLost s)
def execPwrgdCoreDeassert (s : State) : Res_ := .next (coreLost s)
def execTestNLow (s : State) : Res_ := .next (testLow s)
def execPowerUp (s : State) : Res_ := .next (powerUp s)
def execFieldBookFlush (s : State) : Res_ := .next (fbFlush s)

end Sys2Proof.Machine
end

