-- ==== Sys2Proof/Machine/Link.lean ====
section
/-! DEFINITION. Link engines: PUT and CSEND, inbound transfers and their answers (R77, R78, R318, R322, R323, R331, R337,
R418). -/

namespace Sys2Proof.Machine

/-! ### `LINK_DESC` (Table 2.13) -/

def ldDst (d : BitVec 512) : Nat := fld d 255 192
def ldSrc (d : BitVec 512) : Nat := fld d 191 128
def ldLen (d : BitVec 512) : Nat := fld d 127 96
def ldCircuit (d : BitVec 512) : Nat := fld d 95 80
def ldCtx (d : BitVec 512) : CtxId := Fin.ofNat 8 (fld d 76 74)
def ldRtoken (d : BitVec 512) : Fin 1024 := Fin.ofNat 1024 (fld d 73 64)
def ldOp (d : BitVec 512) : Nat := fld d 31 28
def ldStation (d : BitVec 512) : BitVec 24 := BitVec.ofNat 24 (fld d 23 0)

/-- The ORIGIN record of a circuit for a context in the plan captured at issue (R331); its VALID bit is 0 once an epoch has dropped
it. -/
def originFor (q : SrvReq) (c : CtxId) (id : Nat) : Option (BitVec 64) :=
  q.origins.find? fun r => crId r == id && crRole r == 1 && crCtx r == c.val

/-- The field checks in the order of R25. -/
def linkChecks (q : SrvReq) (c : CtxId) (d : BitVec 512) : List Chk :=
  [(3, fld d 5 3 != 0, stReserved), (24, fld d 27 24 != 0, stReserved), (28, decide (ldOp d > 1), stField), (32, fld d 63 32 != 0, stReserved),
   (77, fld d 79 77 != 0, stReserved),
   (80, ldOp d == 0 && ldCircuit d != 0, stField), (80, ldOp d == 1 && (originFor q c (ldCircuit d)).isNone, stCircuit),
   (96, ldLen d == 0, stField), (128, decide (2 ^ 48 ≤ ldSrc d), stField), (192, decide (2 ^ 48 ≤ ldDst d), stField),
   (256, fld d 511 256 != 0, stReserved)]

/-- The checks before any effect: fields, the source range, which must be local (R233), the fence (R342), a circuit that an epoch has
dropped since the issue (R331). -/
def linkCheck (s : State) (c : CtxId) (q : SrvReq) : State × Option Status :=
  let d := q.desc
  let x := getCtx s c
  match firstSt (linkChecks q c d) with
  | some st => (s, some st)
  | none =>
    if !rangeOk s x q.ret false false (ldSrc d) (ldLen d) || !bytesOk s x q.ret (ldSrc d) (ldLen d) then (s, some stTranslation)
    else if s.pkg.fenced then (s, some stFenced)
    else if ldOp d = 1 ∧ !((originFor q c (ldCircuit d)).any fun r => bit r 0) then (s, some stCircBroken)
    else (s, none)

/-! ### Starting a transfer -/

/-- What a packet of a PUT carries to its destination: its bytes from `off` on. -/
def outXfer (s : State) (c : CtxId) (q : SrvReq) (off : Nat) (bs : List Byte) : InXfer :=
  let d := q.desc
  let r := reefStatus s
  { dstCtx := ldCtx d, srcSta := BitVec.ofNat 24 (ownStation s), srcCtx := c, xfer := q.xfer
    circuit := if ldOp d = 1 then some (BitVec.ofNat 16 (ldCircuit d)) else none
    dstVa := BitVec.ofNat 64 (ldDst d), len := ldLen d, off := off, data := bs, last := decide (ldLen d ≤ off + bs.length)
    rtoken := ldRtoken d, cpool := swCpool q.sw, ctake := swCtake q.sw, reef := r.1, level := BitVec.ofNat 4 r.2 }

/-- Payload bytes of a full packet: 14 codewords on Shroud, 20 elsewhere, of 600 bytes (Table 7.1). -/
def packetMax (port : Nat) : Nat := if port < 7 then 8400 else 12000

/-- Payload bytes of the packets to a destination: those of its first port; to this package itself, of the larger kind. -/
def hopMax (s : State) (dst : BitVec 24) : Nat :=
  match nextPort s dst.toNat 15 with
  | .port p => packetMax p
  | _ => 12000

/-- The parts of n bytes that packets of m bytes carry: offset and bytes. -/
def cutParts (m : Nat) (bs : List Byte) : List (Nat × List Byte) :=
  (List.range ((bs.length + m - 1) / m)).map fun i => (m * i, (bs.drop (m * i)).take m)

/-- The next transfer number. -/
def newXfer (s : State) : Nat × State := (s.fab.xferNo, modFab s fun f => { f with xferNo := f.xferNo + 1 })

/-- A PUT: its bytes wait for the router as MSG packets. One that it cannot send on fails the request (R318). -/
def putWork (s : State) (c : CtxId) (q : SrvReq) : State :=
  let d := q.desc
  let (n, s) := newXfer s
  let q := { q with xfer := n }
  match virtRead s ⟨0, some c⟩ (getCtx s c) q.ret (ldSrc d) (ldLen d) with
  | (s, .error st) => failHead s c q st
  | (s, .ok bs) => (cutParts (hopMax s (ldStation d)) bs).foldl (fun s p =>
      post s .msg c (ldStation d) (ldCtx d) n (codewords p.2.length) p.2 (.put (outXfer s c q p.1 p.2))) (putHead s c q)

/-- A CSEND: its chunks go in the COL slots of its circuit (PLAN_SLOT_ADVANCE). -/
def csendWork (s : State) (c : CtxId) (q : SrvReq) : State :=
  let (n, s) := newXfer s
  putHead s c { q with xfer := n }

/-- Virtual ranges whose translations the request holds: its source, until it has been read. -/
def linkSpans (_ : State) (_ : CtxId) (q : SrvReq) : List (Nat × Nat) := [(ldSrc q.desc, ldLen q.desc)]

/-- Starts the next request of a link engine when it is of the row's kind. -/
def linkStart (op : Nat) (c : CtxId) (e : Fin 2) (s : State) : State :=
  serve 6 e.val (fun d => ldOp d == op || decide (ldOp d > 1)) linkCheck linkSpans (if op = 0 then putWork else csendWork) s c

def execPut (c : CtxId) (e : Fin 2) (s : State) : Res_ := .next (linkStart 0 c e s)
def execCsend (c : CtxId) (e : Fin 2) (s : State) : Res_ := .next (linkStart 1 c e s)

/-! ### Arrival (R78, R238, R331, R337) -/

/-- Does the destination context take traffic (R337)? -/
def ctxOpen (s : State) (c : CtxId) : Bool := srvRuns s c

/-- May the whole destination range be written: mapped, local, writable, whole lines in HBM; a CSEND only by a TERMINAL record
of its circuit for this context? -/
def xferOk (s : State) (x : InXfer) : Bool :=
  let k := getCtx s x.dstCtx
  let va := x.dstVa.toNat
  rangeOk s k k.ret.act true false va x.len && bytesOk s k k.ret.act va x.len
    && (!touchesHbm s k k.ret.act va x.len || (va % 64 == 0 && x.len % 64 == 0))
    && match x.circuit with
      | none => true
      | some id => match findCirc (planA s) id.toNat with
        | some r => crRole r == 3 && crCtx r == x.dstCtx.val
        | none => false

/-- The record of an inbound transfer. -/
def findIn (s : State) (x : InXfer) : Option Inbound :=
  s.fab.inbound.find? fun i => i.srcSta == x.srcSta && i.srcCtx == x.srcCtx && i.xfer == x.xfer && i.dstCtx == x.dstCtx

/-- The record without it. -/
def dropIn (s : State) (i : Inbound) : State := modFab s fun f => { f with inbound := f.inbound.filter (· != i) }

/-- An inbound raise of a token, remembered for slips (R410). -/
def inboundRaise (s : State) (c : CtxId) (tok : Nat) (sta : BitVec 24) (ctx : CtxId) (reef : Bool) (level : BitVec 4) : State :=
  let s := modCtx s c fun x => { x with raises := ⟨tok, sta, ctx, reef, level, x.is.beatNo⟩ :: x.raises.filter (fun r => r.token != tok) }
  raiseToken s c tok 1

/-- The bytes of a part are written, whole lines where they lie in HBM (R235, R237, R240); with the last, RTOKEN rises and the
acknowledgement leaves with the credits. -/
def xferWrite (s : State) (x : InXfer) (i : Inbound) : State :=
  let k := getCtx s x.dstCtx
  let (s, wc) := stageWrite s k k.ret.act i.wc (x.dstVa.toNat + x.off) x.data
  let s := dropIn s i
  if x.last then
    let s := inboundRaise s x.dstCtx x.rtoken.val x.srcSta x.srcCtx x.reef x.level
    postAck s x.dstCtx x.srcSta x.srcCtx x.xfer (.ack x.xfer x.cpool x.ctake)
  else modFab s fun f => { f with inbound := f.inbound ++ [{ i with wc := wc }] }

/-- PUT_ARRIVAL: a part of a PUT or CSEND that a port has accepted. -/
def putArrival (s : State) (x : InXfer) : State :=
  let refuse (s : State) (kind : Nat) : State := postAck s x.dstCtx x.srcSta x.srcCtx x.xfer (.nak x.xfer kind)
  if !s.pins.perstN || s.pkg.fenced || partKey s == 0 then s
  else if !ctxOpen s x.dstCtx then refuse s 2
  else match findIn s x with
    | some i =>
      if i.closed then (if x.last then dropIn s i else s)
      else if i.epoch ≠ (getCtx s x.dstCtx).epoch then refuse (dropIn s i) 2
      else if x.off + x.data.length > x.len then s
      else xferWrite s x i
    | none =>
      if x.off ≠ 0 ∨ x.data.length > x.len then s
      else if !xferOk s x then refuse s 0
      else xferWrite s x ⟨x.srcSta, x.srcCtx, x.xfer, x.dstCtx, (getCtx s x.dstCtx).epoch, [], false⟩

def execPutArrival (x : InXfer) (s : State) : Res_ := .next (putArrival s x)

/-! ### Answers (R82, R318, R322, R323) -/

/-- A transfer of a link engine in service, by its number. -/
def findXfer (s : State) (c : CtxId) (e xfer : Nat) : Option SrvReq :=
  (getCtx s c).queue.find? fun q => q.cls == 6 && q.unit == e && q.phase != .queued && q.xfer == xfer

/-- The acknowledgement of a transfer: a PUT's credits return and DONE_TOKEN rises together; a late one is discarded. -/
def acknowledge (c : CtxId) (e : Fin 2) (xfer : Nat) (s : State) : State :=
  match findXfer s c e.val xfer with
  | none => s
  | some q => finishHead (creditBack s c q) c q

/-- Status of each kind of NAK: an unreachable destination counts as a refusal (DEDUCED, log 33). -/
def nakStatus (kind : Nat) : Status :=
  if kind = 2 then stCtxClosed else if kind = 3 then stCircBroken else if kind = 4 then stCollMis else stRemote

/-- A collective of an engine in service, by its group and sequence number. -/
def findColl (s : State) (c : CtxId) (e : Nat) (hash : BitVec 64) (seq : Nat) : Option SrvReq :=
  (getCtx s c).queue.find? fun q => q.cls == 5 && q.unit == e
    && match q.coll with | some k => k.hash == hash && k.seq == seq | none => false

/-- NAK: the request fails; a PUT gets its credits back. -/
def nakIn (c : CtxId) (e : Fin 2) (xfer kind : Nat) (coll : Option (BitVec 64 × Nat)) (s : State) : State :=
  match coll with
  | none => match findXfer s c e.val xfer with
    | some q => failHead (creditBack s c q) c q (nakStatus kind)
    | none => s
  | some g => match findColl s c e.val g.1 g.2 with
    | some q => failHead s c q (nakStatus kind)
    | none => s

/-- Does a piece of a collective still wait to leave: for the router, a lane, or a slot of its circuit? -/
def pieceWaits (s : State) (c : CtxId) (q : SrvReq) : Bool :=
  match q.coll with
  | none => false
  | some k =>
    let mine (o : OutPkt) : Bool := o.p.srcCtx == c && match o.carries with | .piece p => p.hash == k.hash && p.seq == k.seq | _ => false
    s.fab.inject.any mine || (s.fab.outq.any fun e => (e.2.from_.isNone) && mine e.2)
      || s.fab.circs.any fun e => e.2.out.any fun w => w.src.2.1 == c && w.src.2.2 == q.xfer

/-- Did the last byte leave 100 ms ago or more? -/
def sentLong (s : State) (q : SrvReq) : Bool := q.sentAll && decide (q.sentNs + 100000000 ≤ s.clk.mastNs)

/-- LINK_TIMEOUT: no answer within 100 ms of the last byte of a transfer, or of the bytes of a collective that have left last (R323,
R371). -/
def linkTimeout (c : CtxId) (e : Fin 2) (xfer : Nat) (s : State) : State :=
  match findXfer s c e.val xfer with
  | some q => if sentLong s q then failHead s c q stLinkTimeout else s
  | none => match (getCtx s c).queue.find? fun q => q.cls == 5 && q.unit == e.val && q.phase != .queued && q.xfer == xfer with
    | some q => if sentLong s q ∧ !pieceWaits s c q then failHead s c q stLinkTimeout else s
    | none => s

/-- CLOSE: the inbound transfer ends, and the destination context stops. A transfer already acknowledged, or unknown, is not
affected. -/
def closeIn (c : CtxId) (sta : BitVec 24) (ctx : CtxId) (xfer : Nat) (s : State) : State :=
  if !s.pins.perstN || s.pkg.fenced then s
  else if s.fab.inbound.any fun i => i.srcSta == sta && i.srcCtx == ctx && i.xfer == xfer && i.dstCtx == c && !i.closed then
    let s := modFab s fun f => { f with inbound := f.inbound.map fun i =>
      if i.srcSta == sta && i.srcCtx == ctx && i.xfer == xfer && i.dstCtx == c then { i with closed := true } else i }
    dueStopW s c stCtxClosed { Why.plain with source := some (sta, ctx) }
  else s

def execNak (c : CtxId) (e : Fin 2) (xfer kind : Nat) (coll : Option (BitVec 64 × Nat)) (s : State) : Res_ := .next (nakIn c e xfer kind coll s)
def execLinkTimeout (c : CtxId) (e : Fin 2) (xfer : Nat) (s : State) : Res_ := .next (linkTimeout c e xfer s)
def execClose (c : CtxId) (sta : BitVec 24) (ctx : CtxId) (xfer : Nat) (s : State) : Res_ := .next (closeIn c sta ctx xfer s)

end Sys2Proof.Machine
end

