-- ==== Sys2Proof/Machine/CollBase.lean ====
section
/-! DEFINITION. Collective engines: descriptors, group records and their checks, the pieces that a member sends and expects, and
the canonical order of a reduction (sections 9.1 to 9.3). -/

namespace Sys2Proof.Machine

/-! ### `COLL_DESC` (Table 9.4) -/

def cdGroup (d : BitVec 512) : Nat := fld d 511 448
def cdShard (d : BitVec 512) : Nat := fld d 447 384
def cdAux (d : BitVec 512) : Nat := fld d 383 320
def cdDst (d : BitVec 512) : Nat := fld d 319 256
def cdSrc (d : BitVec 512) : Nat := fld d 255 192
def cdAuxWin (d : BitVec 512) : Nat := fld d 191 160
def cdDstWin (d : BitVec 512) : Nat := fld d 159 128
def cdSrcWin (d : BitVec 512) : Nat := fld d 127 96
def cdLen (d : BitVec 512) : Nat := fld d 95 64
def cdOp (d : BitVec 512) : Nat := fld d 63 60
def cdArg (d : BitVec 512) : Nat := fld d 59 46
def cdAtoken (d : BitVec 512) : Nat := fld d 45 36
def cdAtokEn (d : BitVec 512) : Bool := bit d 35
def cdStamp (d : BitVec 512) : Nat := fld d 34 33
def cdItyp (d : BitVec 512) : Nat := fld d 32 31
def cdOtyp (d : BitVec 512) : Nat := fld d 30 29

def isReduce (d : BitVec 512) : Bool := cdOp d == 1 || cdOp d == 2
def isPinned (d : BitVec 512) : Bool := cdOp d == 3 && cdStamp d == 3
/-- Does an all-gather carry stamps: RECORD or CHECK? -/
def hasStamp (d : BitVec 512) : Bool := cdOp d == 3 && (cdStamp d == 1 || cdStamp d == 2)
/-- Element bytes of ITYPE and OTYPE. -/
def cdIb (d : BitVec 512) : Nat := if cdItyp d = 0 then 4 else 2
def cdOb (d : BitVec 512) : Nat := if cdOtyp d = 0 then 4 else 2
/-- Elements of a reduction, and of one chunk of n. -/
def cdElems (d : BitVec 512) : Nat := cdLen d / cdIb d
def chunkElems (d : BitVec 512) (n : Nat) : Nat := cdElems d / n
/-- PERMUTE: blocks per member and block size. -/
def cdB (d : BitVec 512) : Nat := cdArg d + 1
def cdK (d : BitVec 512) : Nat := cdLen d / cdB d

/-! ### Group records (Tables 9.1 to 9.3) -/

def gHash (h : BitVec 512) : BitVec 64 := BitVec.ofNat 64 (fld h 511 448)
def gN (h : BitVec 512) : Nat := fld h 447 434 + 1
def gLevel (h : BitVec 512) (l : Nat) : BitVec 32 := BitVec.ofNat 32 (fld h (319 + 32 * l) (288 + 32 * l))
def lvSize (l : BitVec 32) : Nat := fld l 31 18 + 1
def lvKind (l : BitVec 32) : Nat := fld l 17 16
def lvCirc (l : BitVec 32) : Nat := fld l 15 0

/-- The levels in use (R354). -/
def gLevels (h : BitVec 512) : List (BitVec 32) :=
  let ls := (List.range 4).map (gLevel h)
  ls.take (((List.range 4).filter fun l => lvKind (ls.getD l 0) != 0).foldl (fun _ l => l + 1) 0)

/-- Product of the sizes of the levels below l. -/
def lvBase (ls : List (BitVec 32)) (l : Nat) : Nat := (ls.take l).foldl (fun a v => a * lvSize v) 1
/-- Digit of a rank at level l. -/
def digit (ls : List (BitVec 32)) (l r : Nat) : Nat := r / lvBase ls l % lvSize (ls.getD l 0)
/-- The rank with another digit at level l. -/
def withDigit (ls : List (BitVec 32)) (l r a : Nat) : Nat := r - digit ls l r * lvBase ls l + a * lvBase ls l

/-- A level record breaks Table 9.2. -/
def levelBad (l : BitVec 32) : Bool :=
  match lvKind l with
  | 0 => l != 0
  | 3 => decide (lvCirc l + lvSize l > 0x10000)
  | _ => lvCirc l != 0

/-- Do the ranks of each subgroup of a BOARD level share X, Y and Z? -/
def boardGroup (ls : List (BitVec 32)) (st : Nat → Nat) (n l : Nat) : Bool :=
  decide (lvSize (ls.getD l 0) ≤ 8) && (List.range n).all fun r => st r / 64 == st (withDigit ls l r 0) / 64

/-- Two members with one STATION and CTX? -/
def sameMember : List (BitVec 64) → Bool
  | [] => false
  | a :: r => r.any (fun b => fld b 63 37 == fld a 63 37) || sameMember r

/-- The group record of a request, checked: its levels in use, its members, the own rank. -/
structure Group where
  hash   : BitVec 64
  levels : List (BitVec 32)
  mbrs   : List (BitVec 64)
  rank   : Nat
  deriving DecidableEq, Repr

/-- Members. -/
def Group.n (g : Group) : Nat := g.mbrs.length

/-- Has the active plan an ORIGIN record of a circuit for the context (R331)? -/
def originNow (s : State) (c : CtxId) (id : Nat) : Bool := s.fab.planA.isSome && originIn (planA s) c id

/-- The checks of a group record (R355): fields, then the rules; with no plan active no member is this package. -/
def groupOf (s : State) (c : CtxId) (h : BitVec 512) (ms : List (BitVec 64)) : Option Group :=
  let ls := gLevels h
  let n := gN h
  let st (r : Nat) : Nat := fld (ms.getD r 0) 63 40
  let me := (List.range n).filter fun r => s.fab.planA.isSome && st r == ownStation s && fld (ms.getD r 0) 39 37 == c.val
  if fld h 287 0 ≠ 0 ∨ lvKind (gLevel h 0) = 0 ∨ ((List.range 4).any fun l => levelBad (gLevel h l)) ∨ fld h 433 416 ≠ 0 ∨ gHash h = 0
      ∨ ms.any (fun m => fld m 36 0 != 0) ∨ lvBase ls ls.length ≠ n
      ∨ ((List.range ls.length).any fun l => lvKind (ls.getD l 0) == 1 && !boardGroup ls st n l)
      ∨ sameMember ms then none
  else match me with
    | [r] =>
      if (List.range ls.length).all fun l => lvKind (ls.getD l 0) != 3 || originNow s c (lvCirc (ls.getD l 0) + digit ls l r) then
        some ⟨gHash h, ls, ms, r⟩
      else none
    | _ => none

/-! ### Checks of the descriptor (R359 to R361, Table 9.5) -/

/-- Is each of SRC, DST, AUX used? `root`: this member is the root of a broadcast. -/
def usesSrc (d : BitVec 512) (root : Bool) : Bool := !(isPinned d || (cdOp d == 4 && !root))
def usesDst (d : BitVec 512) : Bool := !isPinned d
def usesAux (d : BitVec 512) : Bool := !(cdOp d == 4 || (cdOp d == 3 && cdStamp d == 0))

/-- Staging bytes that a level needs (Table 9.7). -/
def stagingOf (d : BitVec 512) (l : Nat) (v : BitVec 32) : Nat :=
  if lvKind v = 1 then (lvSize v - 1) * 2 * 16384 * (if l = 0 then cdIb d else 4) else if lvKind v = 0 then 0 else 262144

def stagingAll (d : BitVec 512) (ls : List (BitVec 32)) : Nat := ((List.range ls.length).map fun l => stagingOf d l (ls.getD l 0)).sum

/-- Bytes that an operation needs at SRC, DST and AUX; what its counts decide is checked with them. -/
def needSrc (d : BitVec 512) (root : Bool) : Nat := if !usesSrc d root || cdOp d == 5 then 0 else cdLen d
def needDst (d : BitVec 512) (n : Nat) : Nat :=
  match cdOp d with
  | 1 => cdElems d * cdOb d
  | 2 => cdElems d / n * cdOb d
  | 3 => if isPinned d then 0 else n * cdLen d
  | 4 => cdLen d
  | 6 => cdK d
  | _ => 0
def needAux (d : BitVec 512) (ls : List (BitVec 32)) (n : Nat) : Nat :=
  match cdOp d with
  | 1 => stagingAll d ls
  | 2 => stagingAll d ls
  | 3 => if cdStamp d = 0 then 0 else 16 * n
  | 5 => 16 * n
  | 6 => 4 * n * cdB d
  | _ => 0

/-- Does LEN break the line rule of its operation (R361)? The part that counts members is left out while they are not known. -/
def lenBad (d : BitVec 512) (g : Option Group) : Bool :=
  match cdOp d with
  | 1 => cdLen d % cdIb d != 0 || g.any fun g => cdElems d % (32 * g.n) != 0
  | 2 => cdLen d % cdIb d != 0 || g.any fun g => cdElems d % (32 * g.n) != 0
  | 3 => cdLen d % 64 != 0
  | 4 => cdLen d % 64 != 0
  | 6 => cdLen d % (64 * cdB d) != 0
  | _ => false

/-- Is this member the root of a broadcast? -/
def isRoot (d : BitVec 512) (g : Group) : Bool := cdOp d == 4 && g.rank == cdArg d

/-- A range that a request uses: the bit position of the lowest field that bounds it, its address, bytes, and whether it is
written. -/
abbrev CRange := Nat × Nat × Nat × Bool

/-- The ranges of a request (R360): windows, shard record, group record. -/
def collRanges (d : BitVec 512) (n : Nat) (root : Bool) : List CRange :=
  (if usesSrc d root then [(96, cdSrc d, cdSrcWin d, cdOp d == 6)] else [])
  ++ (if usesDst d then [(128, cdDst d, cdDstWin d, true)] else [])
  ++ (if usesAux d then [(160, cdAux d, cdAuxWin d, cdOp d != 6 && !(cdOp d == 3 && cdStamp d != 1))] else [])
  ++ (if hasStamp d then [(384, cdShard d, 32, false)] else [])
  ++ [(448, cdGroup d, 64 + 8 * n, false)]

/-- May SRC and DST be one buffer (R360, R379)? -/
def inPlace (d : BitVec 512) : Bool :=
  cdSrc d == cdDst d && ((cdOp d == 1 && cdItyp d == cdOtyp d) || cdOp d == 4)

/-- Does every byte of a range lie in a die store? -/
def inDieStore (s : State) (x : Ctx) (ret : BitVec 512) (va n : Nat) : Bool :=
  (parts va n).all fun p => match xlate s x ret p.1 with
    | some t => (match place (localPart t.addr) with | some (.die ..) => true | _ => false)
    | none => false

/-- Does the range bounded by the field at `pos` overlap one bounded by a later field? Where SRC and DST may be one buffer that pair
alone is not compared; a range whose address breaks its own rule is left out (R531). -/
def collOverlap (d : BitVec 512) (n : Nat) (root : Bool) (pos : Nat) : Bool :=
  let rs := (collRanges d n root).filter fun r => !addrBad r.2.1 (if r.1 = 384 then 32 else 64) true
  rs.any fun a => a.1 == pos && rs.any fun b => decide (pos < b.1) && !(inPlace d && pos == 96 && b.1 == 128)
    && overlap a.2.1 a.2.2.1 b.2.1 b.2.2.1

/-- Every check of a descriptor that needs no translation, each in the turn of the field that it bounds (R25, R531, R359 to R361,
R379, R380). `g` is the group record; what needs it is left out when it cannot be read or fails, which GROUP_VA's turn reports. -/
def collChecks (d : BitVec 512) (g : Except Status Group) : List Chk :=
  let op := cdOp d
  let ok := op != 0 && decide (op ≤ 6)
  let o : Option Group := g.toOption
  let root : Option Bool := if op = 4 then o.map (isRoot d) else some false
  let used (f : BitVec 512 → Bool → Bool) : Option Bool := root.map (f d)
  let win (u : Option Bool) (v : Nat) : Bool := u == some false && v != 0
  let addr (u : Option Bool) (v : Nat) : Bool := match u with | some u => addrBad v 64 u | none => decide (2 ^ 48 ≤ v)
  let short (f : Group → Nat) (v : Nat) : Bool := o.any fun g => decide (v < f g)
  let past (pos : Nat) : Chk := (pos, (o.any fun g => collOverlap d g.n (isRoot d g) pos), stOverlap)
  [(16, fld d 28 16 != 0, stReserved),
   (29, ok && (if isReduce d then cdOtyp d == 3 else cdOtyp d != 0), stField),
   (31, ok && (if isReduce d then cdItyp d == 3 else cdItyp d != 0), stField),
   (33, ok && op != 3 && cdStamp d != 0, stField),
   (35, op == 6 && cdAtokEn d, stField),
   (36, !cdAtokEn d && cdAtoken d != 0, stField),
   (46, ok && op != 4 && op != 6 && cdArg d != 0, stField),
   (46, op == 4 && (o.any fun g => decide (g.n ≤ cdArg d)), stGroup),
   (60, !ok, stField),
   (64, if op = 5 then cdLen d != 0 else cdLen d == 0, stField),
   (64, lenBad d o, stLine),
   (96, win (used usesSrc) (cdSrcWin d), stField),
   (96, short (fun g => needSrc d (isRoot d g)) (cdSrcWin d), stWindow),
   past 96,
   (128, win (some (usesDst d)) (cdDstWin d), stField),
   (128, short (fun g => needDst d g.n) (cdDstWin d), stWindow),
   (128, op == 6 && cdDstWin d % cdK d != 0, stField),
   past 128,
   (160, win (some (usesAux d)) (cdAuxWin d), stField),
   (160, short (fun g => needAux d g.levels g.n) (cdAuxWin d), stWindow),
   past 160,
   (192, addr (used usesSrc) (cdSrc d), stField),
   (256, addr (some (usesDst d)) (cdDst d), stField),
   (320, addr (some (usesAux d)) (cdAux d), stField),
   (384, addrBad (cdShard d) 32 (hasStamp d), stField),
   past 384,
   (448, addrBad (cdGroup d) 64 true, stField),
   (448, (match g with | .error _ => true | .ok _ => false), match g with | .error st => st | .ok _ => stGroup)]

/-- The checks of the pages, after those of the fields (log 31): every page local and, where it is written, writable; PERMUTE's staging
in die store (R360, R380). -/
def collPages (s : State) (c : CtxId) (q : SrvReq) (g : Group) : Option Status :=
  let d := q.desc
  let x := getCtx s c
  if (collRanges d g.n (isRoot d g)).any fun r => !rangeOk s x q.ret r.2.2.2 false r.2.1 r.2.2.1 || !bytesOk s x q.ret r.2.1 r.2.2.1 then
    some stTranslation
  else if cdOp d = 6 ∧ !inDieStore s x q.ret (cdDst d) (cdDstWin d) then some stField
  else none

/-! ### Group sequence (R357) -/

/-- The sequence number of a request of this group on this engine, or the failure of the table. -/
def groupSeq (x : Ctx) (e : Nat) (hash : BitVec 64) : Except Status Nat :=
  match x.groups.find? fun g => g.hash == hash with
  | some g => if g.eng = e then .ok g.next else .error stGroupEng
  | none => if x.groups.length ≥ 64 then .error stGroupFull else .ok 0

/-- The table after the request has started. -/
def bumpGroup (x : Ctx) (e : Nat) (hash : BitVec 64) : Ctx :=
  if x.groups.any fun g => g.hash == hash then
    { x with groups := x.groups.map fun g => if g.hash == hash then { g with next := g.next + 1 } else g }
  else { x with groups := x.groups ++ [⟨hash, e, 1, []⟩] }

/-- A request of the group has completed: a packet that names it is stale from now on (R358). -/
def endGroup (x : Ctx) (hash : BitVec 64) (seq : Nat) : Ctx :=
  { x with groups := x.groups.map fun g => if g.hash == hash then { g with done := seq :: g.done } else g }

/-! ### Pieces (Table 9.5, R362, R364, R378, R379) -/

/-- The name of a piece at this member: the other member, level, part. -/
abbrev PieceKey := Nat × Nat × Nat

/-- Levels in use. -/
def kL (k : CollSt) : Nat := k.levels.length
/-- Own digit at level l, and the size of the level. -/
def kDig (k : CollSt) (l : Nat) : Nat := digit k.levels l k.rank
def kSize (k : CollSt) (l : Nat) : Nat := lvSize (k.levels.getD l 0)
/-- Is level l a ring? -/
def kRing (k : CollSt) (l : Nat) : Bool := decide (2 ≤ lvKind (k.levels.getD l 0))
/-- The member of the own level-l subgroup at a position. -/
def kAt (k : CollSt) (l a : Nat) : Nat := withDigit k.levels l k.rank a

/-- Do two ranks agree in every digit below l? -/
def agree (k : CollSt) (l r t : Nat) : Bool := r % lvBase k.levels l == t % lvBase k.levels l

/-- Chunks of a part at level l: those that agree with the own rank below l and have digit a there. -/
def partChunks (k : CollSt) (l a : Nat) : List Nat :=
  (List.range k.n).filter fun j => agree k l j k.rank && digit k.levels l j == a

/-- Partials that this member sends in a reduction, level by level. -/
def redOut (k : CollSt) : List PieceKey :=
  (List.range (kL k)).flatMap fun l =>
    let n := kSize k l
    let p := kDig k l
    ((List.range n).filter (· != p)).map fun a => (kAt k l (if kRing k l then (p + 1) % n else a), l, a)

/-- Partials that it receives. -/
def redIn (k : CollSt) : List PieceKey :=
  (List.range (kL k)).flatMap fun l =>
    let n := kSize k l
    let p := kDig k l
    if kRing k l then (List.range (n - 1)).map fun t => (kAt k l ((p + n - 1) % n), l, (p + 2 * n - 2 - t) % n)
    else ((List.range n).filter (· != p)).map fun b => (kAt k l b, l, p)

/-- The ranks whose pieces are gathered or broadcast. -/
def gatherFrom (d : BitVec 512) (k : CollSt) : List Nat := if cdOp d = 4 then [cdArg d] else List.range k.n
/-- First level number of the gathering phase. -/
def gBase (d : BitVec 512) (k : CollSt) : Nat := if cdOp d = 1 then kL k else 0

/-- Pieces that it passes on: those that agree with its rank up to the level. -/
def gatherOut (d : BitVec 512) (k : CollSt) : List PieceKey :=
  (List.range (kL k)).flatMap fun l => ((gatherFrom d k).filter fun r => agree k (l + 1) r k.rank).flatMap fun r =>
    ((List.range (kSize k l)).filter (· != kDig k l)).map fun a => (kAt k l a, gBase d k + l, r)

/-- Pieces that reach it: from each other rank, at the lowest level where they differ. -/
def gatherIn (d : BitVec 512) (k : CollSt) : List PieceKey :=
  ((gatherFrom d k).filter (· != k.rank)).filterMap fun r =>
    ((List.range (kL k)).find? fun l => digit k.levels l r != kDig k l).map fun l => (r, gBase d k + l, r)

/-- PERMUTE: owner of a block, and its inverse. -/
def blkOwner (d : BitVec 512) (g : Nat) : Nat := g / cdB d
def permTo (k : CollSt) (g : Nat) : Nat := k.table.getD g 0
def permFrom (k : CollSt) (g : Nat) : Nat := (k.table.findIdx? (· == g)).getD 0
/-- The member's own blocks. -/
def ownBlocks (d : BitVec 512) (k : CollSt) : List Nat := (List.range (cdB d)).map (k.rank * cdB d + ·)

/-- Every piece that this member sends to another. -/
def outKeys (d : BitVec 512) (k : CollSt) : List PieceKey :=
  match cdOp d with
  | 1 => redOut k ++ gatherOut d k
  | 2 => redOut k
  | 3 => if isPinned d then [] else gatherOut d k
  | 4 => gatherOut d k
  | 5 => ((List.range k.n).filter (· != k.rank)).map fun r => (r, 0, r)
  | _ => (ownBlocks d k).filterMap fun g =>
      let r := blkOwner d (permTo k g)
      if r = k.rank then none else some (r, 0, g)

/-- Every piece that it receives. -/
def inKeys (d : BitVec 512) (k : CollSt) : List PieceKey :=
  match cdOp d with
  | 1 => redIn k ++ gatherIn d k
  | 2 => redIn k
  | 3 => if isPinned d then [] else gatherIn d k
  | 4 => gatherIn d k
  | 5 => ((List.range k.n).filter (· != k.rank)).map fun r => (r, 0, k.rank)
  | _ => (ownBlocks d k).filterMap fun g =>
      let b := permFrom k g
      let r := blkOwner d b
      if r = k.rank then none else some (r, 0, b)

/-! ### Segments (R368) -/

/-- Is a level one of the reduction? -/
def isRed (d : BitVec 512) (k : CollSt) (l : Nat) : Bool := isReduce d && decide (l < kL k)

/-- Bytes of an element on the wire of a reduction level (R365). -/
def wireBytes (d : BitVec 512) (k : CollSt) (l : Nat) : Nat := if kRing k l then 8 else if l = 0 then cdIb d else 4

/-- Cuts n at s: offsets and lengths, at least one. -/
def cutAt (s n : Nat) : List (Nat × Nat) :=
  if n = 0 then [(0, 0)] else (List.range ((n + s - 1) / s)).map fun i => (i * s, min s (n - i * s))

/-- Bytes of a piece that is not a partial. -/
def wholeBytes (d : BitVec 512) (k : CollSt) (key : PieceKey) (inbound : Bool) : Nat :=
  match cdOp d with
  | 1 => chunkElems d k.n * cdOb d
  | 5 => if inbound then k.recvs.getD key.1 0 else k.sends.getD key.1 0
  | 6 => cdK d
  | _ => cdLen d

/-- The segments of a partial: chunk, first element, elements. -/
def redSegs (d : BitVec 512) (k : CollSt) (l a : Nat) : List (Nat × Nat × Nat) :=
  (partChunks k l a).flatMap fun j => (cutAt 16384 (chunkElems d k.n)).map fun g => (j, g.1, g.2)

/-- Number of segments of a piece. -/
def segCount (d : BitVec 512) (k : CollSt) (key : PieceKey) (inbound : Bool) : Nat :=
  if isRed d k key.2.1 then (redSegs d k key.2.1 key.2.2).length else (cutAt 65536 (wholeBytes d k key inbound)).length

/-- Bytes of a whole piece. -/
def pieceBytes (d : BitVec 512) (k : CollSt) (key : PieceKey) (inbound : Bool) : Nat :=
  if isRed d k key.2.1 then (partChunks k key.2.1 key.2.2).length * chunkElems d k.n * wireBytes d k key.2.1
  else wholeBytes d k key inbound

/-- Bytes held of a piece: level, source, part. -/
def held (k : CollSt) (l src part : Nat) : List Byte :=
  match k.held.find? fun h => h.1 == l && h.2.1 == src && h.2.2.1 == part with
  | some h => h.2.2.2
  | none => []

/-- n held bytes of a piece from an offset, when they have come. -/
def heldAt (k : CollSt) (l src part off n : Nat) : Option (List Byte) :=
  let bs := held k l src part
  if off + n ≤ bs.length then some ((bs.drop off).take n) else none

def addHeld (k : CollSt) (l src part : Nat) (bs : List Byte) : CollSt :=
  if k.held.any fun h => h.1 == l && h.2.1 == src && h.2.2.1 == part then
    { k with held := k.held.map fun h => if h.1 == l && h.2.1 == src && h.2.2.1 == part then (l, src, part, h.2.2.2 ++ bs) else h }
  else { k with held := k.held ++ [(l, src, part, bs)] }

/-- A number kept per piece. -/
def pieceNo (t : List PieceNo) (key : PieceKey) : Nat :=
  match t.find? fun p => (p.1, p.2.1, p.2.2.1) == key with | some p => p.2.2.2 | none => 0
def setPieceNo (t : List PieceNo) (key : PieceKey) (n : Nat) : List PieceNo :=
  (key.1, key.2.1, key.2.2, n) :: t.filter fun p => (p.1, p.2.1, p.2.2.1) != key

/-! ### The reduction (R364, R365) -/

/-- FP32 values from bytes of a format, ITYPE coded. -/
def decodeEls (ty n : Nat) (bs : List Byte) : List Fp :=
  if ty = 0 then (elems 32 n bs).map (BitVec.ofNat 32)
  else (elems 16 n bs).map fun x => fpr ((if ty = 1 then bf16 else fp16).decode x)

/-- Byte place in a partial of an element of one of its chunks. -/
def partOff (d : BitVec 512) (k : CollSt) (l a j off : Nat) : Nat :=
  (((partChunks k l a).findIdx? (· == j)).getD 0 * chunkElems d k.n + off) * wireBytes d k l

/-- Pairs from a ring partial. -/
def decodePairs (n : Nat) (bs : List Byte) : List (Fp × Fp) :=
  (List.range n).map fun i => (recAt 32 bs (8 * i), recAt 32 bs (8 * i + 4))

/-- Adds one contribution to a run of accumulators. -/
def addAll (ps : List (Fp × Fp)) (xs : List Fp) : List (Fp × Fp) := List.zipWith accumulate ps xs

/-- The accumulators of level l for a run of a chunk on the own path, once every contribution is in; `own` is the own value. -/
def levelPairs (d : BitVec 512) (k : CollSt) (l j off n : Nat) (own : List Fp) : Option (List (Fp × Fp)) :=
  let p := kDig k l
  let sz := kSize k l
  let zero := List.replicate n ((0, 0) : Fp × Fp)
  if kRing k l then
    if sz = 1 then some (addAll zero own)
    else (heldAt k l (kAt k l ((p + sz - 1) % sz)) p (partOff d k l p j off) (8 * n)).map fun bs => addAll (decodePairs n bs) own
  else (List.range sz).foldl (fun acc b => match acc with
    | none => none
    | some ps =>
      if b = p then some (addAll ps own)
      else (heldAt k l (kAt k l b) p (partOff d k l p j off) (wireBytes d k l * n)).map fun bs =>
        addAll ps (decodeEls (if l = 0 then cdItyp d else 0) n bs)) (some zero)

/-- The value that this member holds for a run of a chunk when level l begins: its input, or the rounded result of the level
below. -/
def levelValue (d : BitVec 512) (k : CollSt) (j off n : Nat) : Nat → Option (List Fp)
  | 0 => some (decodeEls (cdItyp d) n ((k.src.drop ((j * chunkElems d k.n + off) * cdIb d)).take (n * cdIb d)))
  | l + 1 => match levelValue d k j off n l with
    | none => none
    | some own => (levelPairs d k l j off n own).map fun ps => ps.map pairRound

/-- The result of a run of the own chunk, encoded in OTYPE. -/
def redResult (d : BitVec 512) (k : CollSt) (off n : Nat) : Option (List Byte) :=
  let f := if cdOtyp d = 0 then fp32 else if cdOtyp d = 1 then bf16 else fp16
  match levelValue d k k.rank off n (kL k - 1) with
  | none => none
  | some own => (levelPairs d k (kL k - 1) k.rank off n own).map fun ps => ps.flatMap fun p => leBytes (cdOb d) (f.round .rne (pairVal p))

/-- What this member sends for a run of a chunk in part a at level l, once it can. -/
def redSend (d : BitVec 512) (k : CollSt) (l a j off n : Nat) : Option (List Byte) :=
  match levelValue d k j off n l with
  | none => none
  | some own =>
    let p := kDig k l
    let sz := kSize k l
    if kRing k l then
      let before : Option (List (Fp × Fp)) :=
        if (a + 1) % sz = p then some (List.replicate n (0, 0))
        else (heldAt k l (kAt k l ((p + sz - 1) % sz)) a (partOff d k l a j off) (8 * n)).map (decodePairs n)
      before.map fun ps => (addAll ps own).flatMap fun q => leBytes 4 q.1.toNat ++ leBytes 4 q.2.toNat
    else if l = 0 then some ((k.src.drop ((j * chunkElems d k.n + off) * cdIb d)).take (n * cdIb d))
    else some (own.flatMap fun v => leBytes 4 v.toNat)

/-- Non-finite elements of encoded bytes of a format (R367). -/
def badEls (ty : Nat) (bs : List Byte) : Nat :=
  let b := if ty = 0 then 4 else 2
  let f := if ty = 0 then fp32 else if ty = 1 then bf16 else fp16
  ((elems (8 * b) (bs.length / b) bs).filter fun x => !XVal.isNum (f.decode x)).length

end Sys2Proof.Machine
end

