-- ==== Sys2Proof/Machine/Collect.lean ====
section
/-! DEFINITION. Collectives at one member: start, grants, pieces in and out, counts, completion, and PERMUTE (sections 9.2 to
9.7). -/

namespace Sys2Proof.Machine

/-- A collective in service under way: the state, the request, the status of a failure with the detail of its event. -/
structure CRun where
  s   : State
  q   : SrvReq
  k   : CollSt
  st  : Option Status := none
  why : Why := .plain
  deriving DecidableEq, Repr

def CRun.next (r : CRun) (f : CRun → CRun) : CRun := if r.st.isSome then r else f r
def CRun.bad (r : CRun) (st : Status) : CRun := { r with st := some st }

/-- The request back in its queue, or failed. -/
def CRun.done (r : CRun) (c : CtxId) : State :=
  match r.st with
  | some st => failHeadW r.s c r.q st r.why
  | none => putHead r.s c { r.q with coll := some r.k }

/-- Bytes written at a virtual address by the request. -/
def CRun.write (r : CRun) (c : CtxId) (va : Nat) (bs : List Byte) : CRun :=
  if bs.isEmpty then r
  else { r with s := virtWrite r.s (getCtx r.s c) r.q.ret va bs, q := { r.q with written := r.q.written ++ [(va, bs.length)] } }

/-- Bytes read by the request, given to what follows. -/
def CRun.read (r : CRun) (c : CtxId) (va n : Nat) (f : CRun → List Byte → CRun) : CRun :=
  match reqRead r.s c r.q va n with
  | (s, .error st) => { r with s := s, st := some st, why := if st = stMemUe then ueWhy s else .plain }
  | (s, .ok bs) => f { r with s := s } bs

/-! ### What a packet and a grant carry (R358) -/

/-- The fields that both sides compare. -/
def collTag (d : BitVec 512) (k : CollSt) : List Nat := [cdOp d, cdLen d, cdItyp d, cdOtyp d, cdArg d, k.crc.toNat]

/-- What a packet on the ACK channels carries of the request to member `who`: a grant for the next segment of a piece, or with
another key the fields alone. -/
def grantTo (s : State) (c : CtxId) (q : SrvReq) (k : CollSt) (who level part : Nat) : CollGrant :=
  let d := q.desc
  ⟨mbrCtx k who, k.hash, k.seq, cdOp d, cdLen d, cdItyp d, cdOtyp d, cdArg d, k.crc, k.rank, level, part, BitVec.ofNat 24 (ownStation s), c⟩

/-- What a packet of a piece carries. -/
def pieceTo (s : State) (c : CtxId) (q : SrvReq) (k : CollSt) (key : PieceKey) (src : Nat) (stamp : BitVec 128) (bs : List Byte) : Piece :=
  let d := q.desc
  let r := reefStatus s
  ⟨mbrCtx k key.1, k.hash, k.seq, cdOp d, cdLen d, cdItyp d, cdOtyp d, cdArg d, k.crc,
    key.2.1, src, key.2.2, stamp, bs, BitVec.ofNat 24 (ownStation s), c, r.1, BitVec.ofNat 4 r.2⟩

/-- A packet to a member on the ACK channels (R368). -/
def tell (s : State) (c : CtxId) (k : CollSt) (who : Nat) (carries : Says) : State := postAck s c (mbrStation k who) (mbrCtx k who) 0 carries

/-- The circuit on which this member sends at a level: none but at a reduction's RING-on-circuits level (R373). -/
def sendCirc (d : BitVec 512) (k : CollSt) (l : Nat) : Option Nat :=
  if isRed d k l && lvKind (k.levels.getD l 0) == 3 then some (lvCirc (k.levels.getD l 0) + kDig k l) else none

/-- A segment leaves this member: a partial waits for the slots of its circuit, anything else goes as MSG packets (R319, R373). -/
def postSeg (s : State) (c : CtxId) (q : SrvReq) (k : CollSt) (key : PieceKey) (src : Nat) (stamp : BitVec 128) (bs : List Byte) : State :=
  let p := pieceTo s c q k key src stamp
  match sendCirc q.desc k key.2.1 with
  | some id =>
    let x := getCirc s id
    setCirc s id { x with out := x.out ++ [⟨(BitVec.ofNat 24 (ownStation s), c, q.xfer), p bs, 0⟩] }
  | none =>
    let cuts := cutParts (hopMax s (mbrStation k key.1)) bs
    (if cuts.isEmpty then [(0, [])] else cuts).foldl (fun s x =>
      post s .msg c (mbrStation k key.1) (mbrCtx k key.1) q.xfer (max 1 (codewords x.2.length)) x.2 (.piece (p x.2))) s

/-! ### Stamps (R185 to R187, R378) -/

/-- The stamp of the member's own shard record. -/
def stampOf (rec_ : List Byte) : BitVec 128 :=
  let r := recAt 256 rec_ 0
  BitVec.ofNat 128 (fld r 255 192 * 2 ^ 64 + fld r 191 160 * 2 ^ 32 + 1)

/-- A stamp as a RECORD gather leaves it in its slot: both fields of the piece's stamp, VALID set, the rest 0 (Table 4.11). -/
def recorded (stamp : BitVec 128) : BitVec 128 := BitVec.ofNat 128 (fld stamp 127 32 * 2 ^ 32 + 1)

/-- RECORD writes a piece's stamp into its source's slot; CHECK compares it, and a difference stops the context with both stamps
in the detail of its event. A reserved bit set in the slot rejects it (R17). -/
def stampIn (c : CtxId) (src : Nat) (stamp : BitVec 128) (r : CRun) : CRun :=
  let d := r.q.desc
  if !hasStamp d then r
  else
    let r := { r with k := { r.k with stamps := (src, stamp) :: r.k.stamps.filter (fun p => p.1 != src) } }
    if cdStamp d = 1 then r.write c (cdAux d + 16 * src) (leBytes 16 (recorded stamp).toNat)
    else r.read c (cdAux d + 16 * src) 16 fun r bs =>
      let slot := recAt 128 bs 0
      if fld slot 31 1 != 0 then r.bad stReserved
      else if bit slot 0 && fld slot 127 32 == fld stamp 127 32 then r
      else { r.bad stShardVer with why := { Why.plain with shard := some (src, slot, stamp) } }

/-- The own stamp read anew. -/
def ownStamp (c : CtxId) (r : CRun) (f : CRun → BitVec 128 → CRun) : CRun :=
  if !hasStamp r.q.desc then f r 0
  else r.read c (cdShard r.q.desc) 32 fun r bs => if fld (recAt 256 bs 0) 127 2 != 0 then r.bad stReserved else f r (stampOf bs)

/-! ### Sending (R368) -/

/-- The bytes of the next segment of a piece that is not a PERMUTE block, once they are held. -/
def segData (d : BitVec 512) (k : CollSt) (key : PieceKey) (i : Nat) : Option (List Byte) :=
  if isRed d k key.2.1 then
    match (redSegs d k key.2.1 key.2.2)[i]? with
    | some g => redSend d k key.2.1 key.2.2 g.1 g.2.1 g.2.2
    | none => none
  else
    match (cutAt 65536 (wholeBytes d k key false))[i]? with
    | none => none
    | some g =>
      if cdOp d = 5 then some ((k.src.drop ((k.sends.take key.1).sum + g.1)).take g.2)
      else match k.held.find? fun h => decide (gBase d k ≤ h.1) && h.2.1 == key.2.2 with
        | some h => if g.1 + g.2 ≤ h.2.2.2.length then some ((h.2.2.2.drop g.1).take g.2) else none
        | none => none

/-- The source that a piece names: the sender of a partial or ragged piece, else the rank it comes from. -/
def srcOf (d : BitVec 512) (k : CollSt) (key : PieceKey) : Nat :=
  if isRed d k key.2.1 || cdOp d == 5 || cdOp d == 6 then k.rank else key.2.2

/-- Sends granted segments of one piece while their bytes are held. -/
def sendKey (c : CtxId) (key : PieceKey) : Nat → CRun → CRun
  | 0, r => r
  | n + 1, r =>
    let d := r.q.desc
    let i := pieceNo r.k.sent key
    if r.st.isSome ∨ i ≥ pieceNo r.k.granted key then r
    else match segData d r.k key i with
      | none => r
      | some bs =>
        let go (r : CRun) (stamp : BitVec 128) : CRun :=
          { r with
            s := postSeg r.s c r.q r.k key (srcOf d r.k key) stamp bs
            k := { r.k with sent := setPieceNo r.k.sent key (i + 1) } }
        let r :=
          if hasStamp d && key.2.2 == r.k.rank && i == 0 then
            ownStamp c r fun r st => go { r with k := { r.k with stamps := (r.k.rank, st) :: r.k.stamps.filter (fun p => p.1 != r.k.rank) } } st
          else go r (match r.k.stamps.find? fun p => p.1 == key.2.2 with | some p => p.2 | none => 0)
        sendKey c key n r

/-! ### Granting (R368 to R370) -/

/-- Segments of an inbound partial that no longer need staging: folded, or passed on round the ring. -/
def consumed (d : BitVec 512) (k : CollSt) (key : PieceKey) : Nat :=
  let l := key.2.1
  if kRing k l && key.2.2 != kDig k l then pieceNo k.sent (kAt k l ((kDig k l + 1) % kSize k l), l, key.2.2)
  else ((redSegs d k l key.2.2).takeWhile fun g =>
    match levelValue d k g.1 g.2.1 g.2.2 l with
    | some own => (levelPairs d k l g.1 g.2.1 g.2.2 own).isSome
    | none => false).length

/-- The member that sends an inbound piece. -/
def senderOf (d : BitVec 512) (k : CollSt) (key : PieceKey) : Nat :=
  if isRed d k key.2.1 || cdOp d == 5 || cdOp d == 6 then key.1
  else let l := key.2.1 - gBase d k; kAt k l (digit k.levels l key.1)

/-- Grants up to a number of segments of a piece. -/
def askTo (c : CtxId) (r : CRun) (key : PieceKey) (target : Nat) : CRun :=
  let x := pieceNo r.k.asked key
  let n := target - x
  if n = 0 then r
  else { r with
    s := (List.range n).foldl (fun s _ =>
      let who := senderOf r.q.desc r.k key
      tell s c r.k who (.grant (grantTo s c r.q r.k who key.2.1 key.2.2))) r.s
    k := { r.k with asked := setPieceNo r.k.asked key target } }

/-- Two segments of staging for a ring, shared by its parts in the order in which they come. -/
def askRing (c : CtxId) (keys : List PieceKey) (r : CRun) : CRun :=
  let d := r.q.desc
  let used := (keys.map fun y => pieceNo r.k.asked y - consumed d r.k y).sum
  (keys.foldl (fun a y =>
    let x := pieceNo a.1.k.asked y
    let n := min a.2 (segCount d a.1.k y true - x)
    (askTo c a.1 y (x + n), a.2 - n)) (r, 2 - used)).1

/-- Grants for every segment that has space: two per source of a board level, two for a ring, all where the destination itself is
the space. -/
def askAll (c : CtxId) (r : CRun) : CRun :=
  let d := r.q.desc
  let k := r.k
  if cdOp d = 6 ∨ (cdOp d = 5 ∧ k.recvs.isEmpty) then r
  else
    let keys := inKeys d k
    let r := (List.range (kL k)).foldl (fun r l =>
      if isReduce d && kRing k l then askRing c (keys.filter fun y => y.2.1 == l) r else r) r
    keys.foldl (fun r y =>
      if isRed d k y.2.1 then (if kRing k y.2.1 then r else askTo c r y (min (segCount d k y true) (consumed d r.k y + 2)))
      else askTo c r y (segCount d k y true)) r

/-! ### The own result, and what follows an event -/

/-- The own chunk of a reduction, written once every contribution is in. -/
def writeOwn (c : CtxId) (r : CRun) : CRun :=
  let d := r.q.desc
  let k := r.k
  if !isReduce d || k.wrote then r
  else match redResult d k 0 (chunkElems d k.n) with
    | none => r
    | some bs =>
      let va := cdDst d + (if cdOp d = 1 then k.rank * chunkElems d k.n * cdOb d else 0)
      let r := { r with k := addHeld { k with wrote := true } (gBase d k) k.rank k.rank bs }
      ({ r with q := { r.q with nonfin := r.q.nonfin + badEls (cdOtyp d) bs } }).write c va bs

/-! ### PERMUTE (R380 to R383) -/

/-- Are all indices from x on round its cycle, up to g, above g? -/
def orbitAbove (k : CollSt) (g : Nat) : Nat → Nat → Bool
  | 0, _ => true
  | n + 1, x => x == g || (decide (g < x) && orbitAbove k g n (permTo k x))

/-- The leader of a cycle of more than one block. -/
def isLeader (k : CollSt) (g : Nat) : Bool := permTo k g != g && orbitAbove k g k.table.length (permTo k g)

def slotVa (d : BitVec 512) (k : CollSt) (g : Nat) : Nat := cdSrc d + (g - k.rank * cdB d) * cdK d
def stageVa (d : BitVec 512) (i : Nat) : Nat := cdDst d + i * cdK d

/-- Where a block's bytes are: staging, or its slot. -/
def blkVa (d : BitVec 512) (k : CollSt) (b : Nat) : Nat :=
  match k.staged.find? fun p => p.1 == b with
  | some p => stageVa d p.2
  | none => slotVa d k b

def unstage (b : Nat) (r : CRun) : CRun := { r with k := { r.k with staged := r.k.staged.filter fun p => p.1 != b } }

/-- A free slot takes its predecessor: from this member at once, from another by grants. -/
def freeSlot (c : CtxId) : Nat → Nat → CRun → CRun
  | 0, _, r => r
  | n + 1, g, r =>
    let d := r.q.desc
    let b := permFrom r.k g
    if r.st.isSome then r
    else if blkOwner d b = r.k.rank then
      r.read c (blkVa d r.k b) (cdK d) fun r bs =>
        let r := (r.write c (slotVa d r.k g) bs)
        let r := { r with k := { r.k with filled := g :: r.k.filled } }
        if r.k.staged.any fun p => p.1 == b then unstage b r else freeSlot c n b r
    else let key : PieceKey := (blkOwner d b, 0, b); askTo c r key (segCount d r.k key true)

/-- Stages leaders in ascending index while staging has room. -/
def stageNext (c : CtxId) : Nat → CRun → CRun
  | 0, r => r
  | n + 1, r =>
    let d := r.q.desc
    let room := cdDstWin d / cdK d
    match (ownBlocks d r.k).find? fun g => isLeader r.k g && !r.k.led.contains g, (List.range room).find? fun i => !(r.k.staged.any fun p => p.2 == i) with
    | some g, some i =>
      if r.st.isSome then r
      else stageNext c n (r.read c (slotVa d r.k g) (cdK d) fun r bs =>
        let r := r.write c (stageVa d i) bs
        freeSlot c (r.k.table.length + 1) g { r with k := { r.k with staged := (g, i) :: r.k.staged, led := g :: r.k.led } })
    | _, _ => r

/-- A granted segment of a block. -/
def permSend (c : CtxId) (key : PieceKey) (r : CRun) : CRun :=
  let d := r.q.desc
  let i := pieceNo r.k.sent key
  match (cutAt 65536 (cdK d))[i]? with
  | none => r
  | some g => r.read c (blkVa d r.k key.2.2 + g.1) g.2 fun r bs =>
      { r with
        s := postSeg r.s c r.q r.k key r.k.rank 0 bs
        k := { r.k with sent := setPieceNo r.k.sent key (i + 1) } }

/-- Has every other member's table been compared with its own (R381)? -/
def agreedAll (k : CollSt) : Bool := (List.range k.n).all fun i => i == k.rank || k.agreed.contains i

/-- Segments of blocks that are granted, once the tables agree. -/
def permPump (c : CtxId) (r : CRun) : CRun :=
  if !agreedAll r.k then r
  else (outKeys r.q.desc r.k).foldl (fun r y =>
    (List.range (pieceNo r.k.granted y - pieceNo r.k.sent y)).foldl (fun r _ => r.next (permSend c y)) r) r

/-- A block of another member's slot has been written there: its own slot, or its staging, is free, and staging that this gave back
takes the next leader (R382). -/
def permFree (c : CtxId) (b : Nat) (r : CRun) : CRun :=
  stageNext c (cdB r.q.desc + 1)
    (if r.k.staged.any fun p => p.1 == b then unstage b r else freeSlot c (r.k.table.length + 1) b r)

/-- Another member's table is the same. With the last one the blocks begin to move: those that stay have their slots filled, and
leaders are staged. -/
def permAgree (c : CtxId) (who : Nat) (r : CRun) : CRun :=
  let was := agreedAll r.k
  let r := { r with k := { r.k with agreed := if r.k.agreed.contains who then r.k.agreed else who :: r.k.agreed } }
  if was || !agreedAll r.k then r else stageNext c (cdB r.q.desc + 1) r

/-- Has every segment of a piece that it sends been sent? -/
def sentKey (d : BitVec 512) (k : CollSt) (key : PieceKey) : Bool := pieceNo k.sent key == segCount d k key false

/-- What has been sent is noted: the circuits that carry no further partial, and that no piece is left (R323, R371, R373). -/
def noteSent (r : CRun) : CRun :=
  let d := r.q.desc
  let spent := (List.range (kL r.k)).filterMap fun l =>
    let v := r.k.levels.getD l 0
    if lvKind v == 3 && (!isReduce d || ((redOut r.k).all fun y => y.2.1 != l || sentKey d r.k y)) then some (lvCirc v + kDig r.k l) else none
  { r with k := { r.k with spent := spent }, q := { r.q with sentAll := (outKeys d r.k).all (sentKey d r.k) } }

/-- Results, sends and grants that an event makes possible. -/
def pump (c : CtxId) (r : CRun) : CRun :=
  (((r.next (writeOwn c)).next fun r =>
    if cdOp r.q.desc = 6 then permPump c r
    else (outKeys r.q.desc r.k).foldl (fun r y => sendKey c y (segCount r.q.desc r.k y false) r) r).next (askAll c)).next noteSent

/-! ### Start -/

/-- The first failing send count (R376): a partial line, or a sum beyond SRC_WIN. -/
def sendsBad (win : Nat) : Nat → List Nat → Option Status
  | _, [] => none
  | acc, n :: r => if n % 64 ≠ 0 then some stLine else if acc + n > win then some stWindow else sendsBad win (acc + n) r

/-- Is every entry below n and none twice (R381)? -/
def permOk (n : Nat) (t : List Nat) : Bool := t.all (fun g => decide (g < n)) && t.eraseDups.length == t.length

/-- The group record of a request as memory holds it (R353, R355). -/
def readGroup (s : State) (c : CtxId) (q : SrvReq) : State × Except Status Group :=
  if addrBad (cdGroup q.desc) 64 true then (s, .error stField)
  else match reqRead s c q (cdGroup q.desc) 64 with
    | (s, .error st) => (s, .error st)
    | (s, .ok hb) =>
      let h := recAt 512 hb 0
      match reqRead s c q (cdGroup q.desc + 64) (8 * gN h) with
      | (s, .error st) => (s, .error st)
      | (s, .ok mb) => (s, match groupOf s c h ((List.range (gN h)).map fun i => recAt 64 mb (8 * i)) with
        | some g => .ok g
        | none => .error stGroup)

/-- The checks of a request before any effect (R355, R360, R361, R376, R381, R357, in the order of log 31), and the collective it
starts. -/
def collCheck (s : State) (c : CtxId) (q : SrvReq) : State × Except Status CollSt :=
  let d := q.desc
  let x := getCtx s c
  let get (s : State) (va n : Nat) (f : State → List Byte → State × Except Status CollSt) : State × Except Status CollSt :=
    match reqRead s c q va n with
    | (s, .error st) => (s, .error st)
    | (s, .ok bs) => f s bs
  let (s, g) := readGroup s c q
  match firstSt (collChecks d g), g with
  | some st, _ => (s, .error st)
  | none, .error st => (s, .error st)
  | none, .ok g =>
    match collPages s c q g with
    | some st => (s, .error st)
    | none =>
      let n := g.n
      let k : CollSt := { hash := g.hash
                          seq := 0
                          n := n
                          rank := g.rank
                          mbrs := g.mbrs
                          levels := g.levels
                          crc := 0
                          table := []
                          src := []
                          held := []
                          granted := []
                          sent := []
                          asked := []
                          wrote := false
                          stamps := []
                          sends := []
                          recvs := []
                          filled := []
                          led := []
                          staged := []
                          agreed := []
                          acked := []
                          spent := []
                          arrivals := 0 }
      let last (s : State) (k : CollSt) : State × Except Status CollSt :=
        if s.pkg.fenced then (s, .error stFenced)
        else match groupSeq x q.unit k.hash with
          | .error st => (s, .error st)
          | .ok m => (s, .ok { k with seq := m })
      if cdOp d = 5 then get s (cdAux d) (8 * n) fun s bs =>
          let cs := elems 64 n bs
          match sendsBad (cdSrcWin d) 0 cs with
          | some st => (s, .error st)
          | none => last s { k with sends := cs }
      else if cdOp d = 6 then get s (cdAux d) (4 * n * cdB d) fun s bs =>
          let t := elems 32 (n * cdB d) bs
          if permOk (n * cdB d) t then last s { k with table := t, crc := crc32c bs } else (s, .error stPerm)
      else last s k

/-- The bytes of the member's own input. -/
def ownBytes (d : BitVec 512) (k : CollSt) : Nat :=
  match cdOp d with
  | 4 => if k.rank = cdArg d then cdLen d else 0
  | 5 => k.sends.sum
  | 6 => 0
  | _ => if isPinned d then 0 else cdLen d

/-- Staging is written in an order that the manual does not give: its bytes are free values (log 1). -/
def fillStaging (c : CtxId) (r : CRun) : CRun :=
  let d := r.q.desc
  if !isReduce d then r
  else
    let (i, s) := drawNat r.s
    ({ r with s := s }).write c (cdAux d) ((List.range (stagingAll d r.k.levels)).map (Config.freeByte i))

/-- What the member does by itself at the start: its own piece, its counts; for PERMUTE it sends every other member the CRC of its table,
in a grant of no block (DESIGN CHOICE: the manual names no packet by which tables are compared before a block moves; log 31). -/
def ownStart (c : CtxId) (r : CRun) : CRun :=
  let d := r.q.desc
  let k := r.k
  match cdOp d with
  | 3 =>
    if isPinned d then r
    else (ownStamp c r fun r st => stampIn c k.rank st r).next fun r =>
      ({ r with k := addHeld r.k 0 k.rank k.rank k.src }).write c (cdDst d + k.rank * cdLen d) k.src
  | 4 =>
    if k.rank ≠ cdArg d then r
    else
      let r := { r with k := addHeld k 0 k.rank k.rank k.src }
      if cdSrc d = cdDst d then r else r.write c (cdDst d) k.src
  | 5 => { r with s := (List.range k.n).foldl (fun s i =>
      if i = k.rank then s else tell s c k i (.sendCount ⟨grantTo s c r.q k i 0 0, k.sends.getD i 0⟩)) r.s }
  | 6 =>
    let r := { r with
      s := (List.range k.n).foldl (fun s i => if i = k.rank then s else tell s c k i (.grant (grantTo s c r.q k i 0 k.table.length))) r.s
      k := { k with filled := (ownBlocks d k).filter fun g => permTo k g == g } }
    if agreedAll r.k then stageNext c (cdB d + 1) r else r
  | _ => fillStaging c r

/-- A grant for a started request: counted, unless the piece has no further segment. A PERMUTE's grant of no block says that the
tables agree. -/
def takeGrant (c : CtxId) (r : CRun) (g : CollGrant) : CRun :=
  let d := r.q.desc
  let key : PieceKey := (g.rank, g.level, g.part)
  let n := pieceNo r.k.granted key
  if cdOp d = 6 ∧ g.part = r.k.table.length then permAgree c g.rank r
  else if !(outKeys d r.k).contains key || decide (segCount d r.k key false ≤ n) then r
  else { r with k := { r.k with granted := setPieceNo r.k.granted key (n + 1) } }

/-- Does what a grant or packet carries differ from the request? -/
def grantDiffers (d : BitVec 512) (k : CollSt) (g : CollGrant) : Bool := collTag d k != [g.op, g.len, g.ityp, g.otyp, g.arg, g.crc.toNat]
def pieceDiffers (d : BitVec 512) (k : CollSt) (p : Piece) : Bool := collTag d k != [p.op, p.len, p.ityp, p.otyp, p.arg, p.crc.toNat]

/-- A difference: the other member is told, and this one stops. -/
def mismatch (c : CtxId) (r : CRun) (sta : BitVec 24) (ctx : CtxId) : CRun :=
  { r with s := postAck r.s c sta ctx 0 (.collNak r.k.hash r.k.seq 4), st := some stCollMis }

/-- Grants that came before the request started. -/
def takeEarly (c : CtxId) (r : CRun) : CRun :=
  let mine (g : CollGrant) : Bool := g.hash == r.k.hash && g.seq == r.k.seq
  let gs := (getCtx r.s c).early.filter mine
  let r := { r with s := modCtx r.s c fun x => { x with early := x.early.filter fun g => !mine g } }
  gs.foldl (fun r g => r.next fun r => if grantDiffers r.q.desc r.k g then mismatch c r g.srcSta g.srcCtx else takeGrant c r g) r

/-- The start of a request that has passed its checks and taken its credits. -/
def collWork (s : State) (c : CtxId) (q : SrvReq) (k : CollSt) : State :=
  let d := q.desc
  let (n, s) := newXfer (modCtx s c fun x => bumpGroup x q.unit k.hash)
  let rs := collRanges d k.n (cdOp d == 4 && k.rank == cdArg d)
  let r : CRun := { s := s, q := { q with xfer := n, holds := rs.map fun r => (r.2.1, r.2.2.1) }, k := k }
  let r := r.read c (cdSrc d) (ownBytes d k) fun r bs => { r with k := { r.k with src := bs } }
  (((r.next (ownStart c)).next (takeEarly c)).next (pump c)).done c

/-- Starts the next request of a collective engine when it is of the row's operation. -/
def collStart (op : Nat) (c : CtxId) (e : Fin 2) (s : State) : State :=
  match startHead noPre s c 5 e.val with
  | .idle => s
  | .bad s q st => failHead s c q st
  | .go s1 q =>
    if cdOp q.desc ≠ op ∧ 1 ≤ cdOp q.desc ∧ cdOp q.desc ≤ 6 then s
    else match collCheck s1 c q with
      | (s, .error st) => failHead s c q st
      | (s, .ok k) => collWork (takeCredits s c q) c { q with phase := .serving } k

def execAllReduce (c : CtxId) (e : Fin 2) (s : State) : Res_ := .next (collStart 1 c e s)
def execReduceScatter (c : CtxId) (e : Fin 2) (s : State) : Res_ := .next (collStart 2 c e s)
def execAllGather (c : CtxId) (e : Fin 2) (s : State) : Res_ := .next (collStart 3 c e s)
def execBroadcast (c : CtxId) (e : Fin 2) (s : State) : Res_ := .next (collStart 4 c e s)
def execAllToAllRagged (c : CtxId) (e : Fin 2) (s : State) : Res_ := .next (collStart 5 c e s)
def execPermute (c : CtxId) (e : Fin 2) (s : State) : Res_ := .next (collStart 6 c e s)

/-! ### Events from the fabric -/

/-- A collective in service, by group and sequence number, on either engine. -/
def findCollAny (s : State) (c : CtxId) (hash : BitVec 64) (seq : Nat) : Option (SrvReq × CollSt) :=
  (getCtx s c).queue.findSome? fun q => match q.coll with
    | some k => if q.cls == 5 && k.hash == hash && k.seq == seq then some (q, k) else none
    | none => none

/-- Has this context completed the request of the group already? What names it now comes from a member that is not in step, and
cannot agree (R358). -/
def pastSeq (s : State) (c : CtxId) (hash : BitVec 64) (seq : Nat) : Bool :=
  (getCtx s c).groups.any fun g => g.hash == hash && g.done.contains seq

/-- Has it started the request? -/
def begun (s : State) (c : CtxId) (hash : BitVec 64) (seq : Nat) : Bool :=
  (getCtx s c).groups.any fun g => g.hash == hash && decide (seq < g.next)

/-- Does the package hear collective traffic? -/
def collHeard (s : State) : Bool := s.pins.perstN && !s.pkg.fenced && partKey s != 0

/-- A stale packet or grant: both contexts stop (R358). -/
def staleStop (s : State) (c : CtxId) (sta : BitVec 24) (ctx : CtxId) (hash : BitVec 64) (seq : Nat) : State :=
  dueStop (postAck s c sta ctx 0 (.collNak hash seq 4)) c stCollMis

/-- COLL_SEGMENT_GRANT. A grant for a request not yet started here is kept for it; one for a request that has failed is discarded. -/
def grantIn (s : State) (g : CollGrant) : State :=
  let c := g.ctx
  if !collHeard s then s
  else if !ctxOpen s c then postAck s c g.srcSta g.srcCtx 0 (.collNak g.hash g.seq 2)
  else match findCollAny s c g.hash g.seq with
    | some (q, k) =>
      let r : CRun := { s := s, q := q, k := k }
      (if grantDiffers q.desc k g then mismatch c r g.srcSta g.srcCtx else (takeGrant c r g).next (pump c)).done c
    | none =>
      if pastSeq s c g.hash g.seq then staleStop s c g.srcSta g.srcCtx g.hash g.seq
      else if begun s c g.hash g.seq then s
      else modCtx s c fun x => { x with early := x.early ++ [g] }

/-- Has a piece come whole? -/
def whole (d : BitVec 512) (k : CollSt) (key : PieceKey) : Bool :=
  (k.held.any fun h => h.1 == key.2.1 && h.2.1 == key.1 && h.2.2.1 == key.2.2)
    && (held k key.2.1 key.1 key.2.2).length == pieceBytes d k key true

/-- Where the bytes of an inbound piece go; none for a partial. -/
def pieceVa (d : BitVec 512) (k : CollSt) (key : PieceKey) : Option Nat :=
  if isRed d k key.2.1 then none
  else match cdOp d with
    | 1 => some (cdDst d + key.1 * chunkElems d k.n * cdOb d)
    | 3 => some (cdDst d + key.1 * cdLen d)
    | 4 => some (cdDst d)
    | 5 => some (cdDst d + (k.recvs.take key.1).sum)
    | _ => some (slotVa d k (permTo k key.2.2))

/-- After its last byte a piece is acknowledged and is an arrival; a PERMUTE block fills its slot instead (R362, R363). -/
def pieceLast (c : CtxId) (p : Piece) (r : CRun) : CRun :=
  let d := r.q.desc
  let r := { r with s := postAck r.s c p.srcSta p.srcCtx 0 (.collAck ⟨r.k.hash, r.k.seq, r.k.rank, p.level, p.part⟩) }
  if cdOp d = 6 then { r with k := { r.k with filled := permTo r.k p.part :: r.k.filled } }
  else
    let r := { r with k := { r.k with arrivals := r.k.arrivals + 1 } }
    if cdAtokEn d then { r with s := inboundRaise r.s c (cdAtoken d) p.srcSta p.srcCtx p.reef p.rlevel } else r

/-- A segment of an expected piece: stamp, bytes, arrival. -/
def pieceTake (c : CtxId) (p : Piece) (key : PieceKey) (r : CRun) : CRun :=
  let d := r.q.desc
  let off := (held r.k p.level p.src p.part).length
  let r := if off = 0 then stampIn c p.src p.stamp r else r
  r.next fun r =>
    let r := match pieceVa d r.k key with
      | some va => r.write c (va + off) p.data
      | none => r
    let r := { r with
      k := addHeld r.k p.level p.src p.part p.data
      q := { r.q with nonfin := r.q.nonfin + (if cdOp d = 1 ∧ !isRed d r.k p.level then badEls (cdOtyp d) p.data else 0) } }
    if whole d r.k key then pieceLast c p r else r

/-- COLL_PIECE_ARRIVAL. A packet of no request in service is discarded, unless it is stale. -/
def pieceIn (s : State) (p : Piece) : State :=
  let c := p.ctx
  if !collHeard s then s
  else if !ctxOpen s c then postAck s c p.srcSta p.srcCtx 0 (.collNak p.hash p.seq 2)
  else match findCollAny s c p.hash p.seq with
    | none => if pastSeq s c p.hash p.seq then staleStop s c p.srcSta p.srcCtx p.hash p.seq else s
    | some (q, k) =>
      let d := q.desc
      let r : CRun := { s := s, q := q, k := k }
      let key : PieceKey := (p.src, p.level, p.part)
      if pieceDiffers d k p then (mismatch c r p.srcSta p.srcCtx).done c
      else if !(inKeys d k).contains key || whole d k key || (cdOp d == 5 && k.recvs.isEmpty)
          || decide (pieceBytes d k key true < (held k p.level p.src p.part).length + p.data.length) then s
      else ((pieceTake c p key r).next (pump c)).done c

/-- COUNTS_EXCHANGED: a send count of every other member has come, and is compared (R358); the receive counts are written to AUX; when
they exceed DST_WIN the member refuses every sender (R377). -/
def countsIn (c : CtxId) (e : Fin 2) (hash : BitVec 64) (seq : Nat) (counts : List SendCount) (s : State) : State :=
  if !collHeard s || !srvRuns s c then s
  else match findColl s c e.val hash seq with
    | none => s
    | some q => match q.coll with
      | none => s
      | some k =>
        let d := q.desc
        let from_ (i : Nat) : Option SendCount := counts.find? fun n => n.req.rank == i
        let r : CRun := { s := s, q := q, k := k }
        if cdOp d ≠ 5 ∨ !k.recvs.isEmpty ∨ !((List.range k.n).all fun i => i == k.rank || (from_ i).isSome) then s
        else match counts.find? fun n => grantDiffers d k n.req with
        | some n => (mismatch c r n.req.srcSta n.req.srcCtx).done c
        | none =>
          let cs := (List.range k.n).map fun i => if i = k.rank then k.sends.getD i 0 else ((from_ i).map (·.n)).getD 0
          let r := { r with k := { k with recvs := cs } }
          let r := r.write c (cdAux d + 8 * k.n) (cs.flatMap (leBytes 8))
          if cs.sum > cdDstWin d then
            ({ r with
              s := (List.range k.n).foldl (fun s i => if i = k.rank then s else tell s c k i (.collNak k.hash k.seq 0)) r.s
              st := some stRecvOver }).done c
          else
            let own := (k.src.drop (k.sends.take k.rank).sum).take (k.sends.getD k.rank 0)
            (pump c (r.write c (cdDst d + (cs.take k.rank).sum) own)).done c

/-- A receiver has acknowledged a piece (R363): of a PERMUTE its slot, or its staging, is free (R382). -/
def collAck (c : CtxId) (e : Fin 2) (a : PieceAck) (s : State) : State :=
  if !collHeard s || !srvRuns s c then s
  else match findColl s c e.val a.hash a.seq with
    | none => s
    | some q => match q.coll with
      | none => s
      | some k =>
        let key : PieceKey := (a.rank, a.level, a.part)
        if !(outKeys q.desc k).contains key || !sentKey q.desc k key || k.acked.contains key then s
        else
          let r : CRun := { s := s, q := q, k := { k with acked := key :: k.acked } }
          ((if cdOp q.desc = 6 then permFree c a.part r else r).next (pump c)).done c

/-- ACKNOWLEDGEMENT: of a transfer, or of a piece of a collective. -/
def ackIn (c : CtxId) (e : Fin 2) (a : Acked) (s : State) : State :=
  match a with
  | .xfer n => acknowledge c e n s
  | .piece a => collAck c e a s

/-- Has every write of the request been made, and every piece it sends been acknowledged? -/
def collOver (d : BitVec 512) (k : CollSt) : Bool :=
  (inKeys d k).all (whole d k) && ((outKeys d k).all fun y => k.acked.contains y)
    && (!isReduce d || k.wrote) && (cdOp d != 5 || !k.recvs.isEmpty)
    && (cdOp d != 6 || ((ownBlocks d k).all fun g => k.filled.contains g))

/-- COLL_DONE: every piece this member sent has been acknowledged (R363, R188, R383). -/
def collDone (c : CtxId) (e : Fin 2) (hash : BitVec 64) (seq : Nat) (s : State) : State :=
  if !srvRuns s c then s
  else match findColl s c e.val hash seq with
    | none => s
    | some q => match q.coll with
      | none => s
      | some k => if collOver q.desc k then finishHead (collNonfinite (modCtx s c fun x => endGroup x hash seq) c q) c q else s

/-- CONTEXT_CLOSED: the collective ends with no further write, and the context stops; its event records the source (R374, R418). -/
def contextClosed (c : CtxId) (e : Fin 2) (hash : BitVec 64) (seq : Nat) (sta : BitVec 24) (ctx : CtxId) (s : State) : State :=
  if !collHeard s then s
  else match findColl s c e.val hash seq with
    | some q => failHeadW s c q stCtxClosed { Why.plain with source := some (sta, ctx) }
    | none => s

def execCollSegmentGrant (g : CollGrant) (s : State) : Res_ := .next (grantIn s g)
def execCollPieceArrival (p : Piece) (s : State) : Res_ := .next (pieceIn s p)
def execCountsExchanged (c : CtxId) (e : Fin 2) (hash : BitVec 64) (seq : Nat) (counts : List SendCount) (s : State) : Res_ :=
  .next (countsIn c e hash seq counts s)
def execCollDone (c : CtxId) (e : Fin 2) (hash : BitVec 64) (seq : Nat) (s : State) : Res_ := .next (collDone c e hash seq s)
def execContextClosed (c : CtxId) (e : Fin 2) (hash : BitVec 64) (seq : Nat) (srcSta : BitVec 24) (srcCtx : CtxId) (s : State) : Res_ :=
  .next (contextClosed c e hash seq srcSta srcCtx s)
def execAcknowledgement (c : CtxId) (e : Fin 2) (a : Acked) (s : State) : Res_ := .next (ackIn c e a s)

end Sys2Proof.Machine
end

