-- ==== Sys2Proof/Machine/Diag.lean ====
section
/-! DEFINITION. Diagnostics: dumps, the hang sequence, tracing, retrieval of the Field book and of dumps, and the patrol scrub
(6.8, 11.4, 11.7, 11.10). -/

namespace Sys2Proof.Machine

/-! ### Dump sections (Table 11.15) -/

/-- A section: KIND, CTX, UNIT, content. -/
structure DumpSec where
  kind : Nat
  ctx  : Nat
  unit : Nat
  data : List Byte
  deriving DecidableEq, Repr

def padTo (n : Nat) (bs : List Byte) : List Byte := bs.take n ++ List.replicate (n - bs.length) 0

/-- Engine number of a unit, for the UNIT field: movers 0 to 47, update units 48 to 71, then dispatch, collective and link
engines (log 24). -/
def engineNo (cls u : Nat) : Nat :=
  if cls = 2 then u else if cls = 3 then 48 + u else if cls = 4 then 72 + u else if cls = 5 then 74 + u else 76 + u

/-- KIND 1. The order of the last items is Table 11.15's, each in whole bytes (log 24). -/
def secCtx (c : CtxId) (x : Ctx) : DumpSec :=
  ⟨1, c.val, 0, padTo 4096
    ((List.range 1024).flatMap (fun k => leBytes 2 (tget 0 x.tokens k).toNat)
      ++ (List.range 256).flatMap (fun p => leBytes 2 (tget 0 x.cap p).toNat ++ leBytes 2 (tget 0 x.value p).toNat)
      ++ (List.range 64).flatMap (fun n => leBytes 4 (tget 0 x.cnt n).toNat)
      ++ leBytes 1 (match x.run with | .none => 0 | .idle => 1 | .running => 2 | .stopped => 3 | .resetting => 4)
      ++ leBytes 2 x.stop.toNat ++ leBytes 6 x.fr.num.toNat ++ leBytes 4 x.fr.beats ++ leBytes 8 x.is.pc ++ leBytes 2 x.is.lastTag.toNat
      ++ leBytes 1 x.is.loops.length ++ x.is.loops.flatMap (fun l => leBytes 8 l.start ++ leBytes 4 l.count ++ leBytes 4 l.iter)
      ++ leBytes 1 x.is.lastHold)⟩

/-- One request of KIND 2: slot word, descriptor, progress. -/
def secReq (q : SrvReq) : List Byte :=
  padTo 128 (leBytes 16 q.sw.toNat ++ leBytes 64 q.desc.toNat ++ leBytes 8 (q.written.map (·.2)).sum ++ leBytes 8 q.vdone
    ++ leBytes 8 (match q.coll with | some k => k.arrivals | none => 0))

/-- KIND 2 for the engines that hold requests of a context. -/
def secQueues (c : CtxId) (x : Ctx) : List DumpSec :=
  ((x.queue.map fun q => (q.cls, q.unit)).eraseDups).map fun e =>
    ⟨2, c.val, engineNo e.1 e.2, (x.queue.filter fun q => q.cls == e.1 && q.unit == e.2).flatMap secReq⟩

/-- KIND 3 for a link engine. -/
def secLink (s : State) (u : Nat) : DumpSec :=
  let qs := (existing s).flatMap fun c => (getCtx s c).queue.filter fun q => q.cls == 6 && q.unit == u && q.phase != .queued
  ⟨3, 0xFF, u, padTo 32768 (qs.flatMap fun q =>
    padTo 32 (leBytes 8 q.xfer ++ leBytes 3 (fld q.desc 23 0) ++ leBytes 1 (fld q.desc 76 74) ++ leBytes 4 0 ++ leBytes 8 0))⟩

/-- An accumulator set as its pairs. -/
def setBytes (a : ASet) : List Byte :=
  (List.range 1024).flatMap fun i => let p := tget (0, 0) a.pairs i; leBytes 4 p.1.toNat ++ leBytes 4 p.2.toNat

/-- KIND 4 for eight tiles. -/
def secTiles (s : State) (g : Nat) : DumpSec :=
  ⟨4, 0xFF, g, (List.range 8).flatMap fun i => let t := getTile s (8 * g + i); setBytes t.set0 ++ setBytes t.set1⟩

def secGroups (c : CtxId) (x : Ctx) : DumpSec :=
  ⟨5, c.val, 0, padTo 1024 (x.groups.flatMap fun g => leBytes 8 g.hash.toNat ++ leBytes 4 g.eng ++ leBytes 4 g.next)⟩

/-- KIND 6: no request is outstanding at a controller between commands. -/
def secMem (s : State) : DumpSec :=
  ⟨6, 0xFF, 0, padTo 4096 (allCtxs.flatMap fun c => leBytes 2 (getCtx s c).epoch.toNat)⟩

def secFab (s : State) : DumpSec :=
  ⟨7, 0xFF, 0, padTo 16384 (leBytes 8 s.clk.planSlot.toNat
    ++ (List.range 15).flatMap (fun p => leBytes 1 (match (getPort s p).st with | .down => 0 | .held => 1 | .up => 2))
    ++ leBytes 1 0 ++ (List.range 15).flatMap (fun p => leBytes 32 (getPort s p).disc.toNat)
    ++ (s.fab.circs.filter fun e => e.2.hold || e.2.held).flatMap fun e => leBytes 2 e.1)⟩

def secPower (s : State) : DumpSec :=
  ⟨8, 0xFF, 0, padTo 64 (leBytes 8 s.reef.stat.toNat ++ leBytes 16 s.reef.pol.act.toNat ++ leBytes 1 s.reef.rungC
    ++ leBytes 1 s.reef.rungM ++ leBytes 1 s.reef.rungL ++ leBytes 1 s.reef.thermRung)⟩

/-- KIND 9: the newest 256 records of the ring, oldest of them first. -/
def secBook (s : State) : DumpSec :=
  let ring := fbWalk (fbSeen s.hal) 27392 5376
  let inOrder := (ring.filter fun r => decide (s.hal.fbNext ≤ r.1)) ++ ring.filter fun r => decide (r.1 < s.hal.fbNext)
  ⟨9, 0xFF, 0, padTo 16384 ((inOrder.drop (inOrder.length - 256)).flatMap fun r => fbRow s r.1)⟩

def dumpSecs (s : State) : List DumpSec :=
  (existing s).flatMap (fun c => secCtx c (getCtx s c) :: secQueues c (getCtx s c))
    ++ (List.range 2).map (secLink s) ++ (List.range 32).map (secTiles s)
    ++ (existing s).map (fun c => secGroups c (getCtx s c)) ++ [secMem s, secFab s, secPower s, secBook s]

/-! ### Writing a dump (R433, Tables 11.13 and 11.14) -/

def dumpBase (slot : Nat) : Nat := halyardBase + slot * 0x1000000

/-- Section table and section bytes, each section at a multiple of 64 from the slot base. -/
def layoutSecs (timeLo : Nat) : Nat → List DumpSec → List Byte × List Byte
  | _, [] => ([], [])
  | off, d :: r =>
    let pad := (64 - d.data.length % 64) % 64
    let (t, b) := layoutSecs timeLo (off + d.data.length + pad) r
    (leBytes 16 (d.kind * 2 ^ 112 + d.ctx * 2 ^ 104 + d.unit * 2 ^ 96 + off * 2 ^ 64 + d.data.length * 2 ^ 32 + timeLo) ++ t,
     d.data ++ List.replicate pad 0 ++ b)

/-- The image of a dump. -/
def dumpImage (s : State) (seq cause hung : Nat) : List Byte :=
  let secs := dumpSecs s
  let n := secs.length
  let first := (64 + 16 * n + 63) / 64 * 64
  let (tab, data) := layoutSecs (timeUs s % 2 ^ 32) first secs
  let rest := tab ++ List.replicate (first - 64 - 16 * n) 0 ++ data
  leBytes 64 (Config.serial.toNat * 2 ^ 448 + timeUs s % 2 ^ 48 * 2 ^ 400 + s.clk.boot.toNat * 2 ^ 384 + seq * 2 ^ 352 + cause * 2 ^ 344
    + hung * 2 ^ 336 + n * 2 ^ 320 + (64 + rest.length) * 2 ^ 288 + (crc32c rest).toNat * 2 ^ 256 + 1 * 2 ^ 240) ++ rest

/-- The slot a dump takes: the lowest free one, else that of the oldest dump. -/
def dumpSlot (s : State) : Nat :=
  match (List.range 4).find? fun n => !(s.hal.dumps.any fun d => d.1 == n) with
  | some n => n
  | none => (s.hal.dumps.foldl (fun m d => if d.2.1 < m.2.1 then d else m) (s.hal.dumps.headD (0, 0, 0))).1

/-- Writes a dump; the slot it took. -/
def writeDump (s : State) (seq cause hung : Nat) : State × Nat :=
  let n := dumpSlot s
  let img := dumpImage s seq cause hung
  let s := memWrite s (dumpBase n) img
  (modHal s fun h => { h with dumps := (n, h.dumpNo, img.length) :: h.dumps.filter (fun d => d.1 != n), dumpNo := h.dumpNo + 1 }, n)

/-- Is a context over the hang threshold (R97)? -/
def overHang (x : Ctx) : Bool := decide (4 * frameLimit x < x.fr.beats)

def hungMask (s : State) : Nat := ofBits (((existing s).filter fun c => overHang (getCtx s c)).map (·.val))

/-! ### Hangs (R425, Table 11.11) -/

/-- HANG: a running context is over the threshold. Halyard does the work, and so not while it restarts. -/
def hangSeq (s : State) (c : CtxId) : State :=
  let x := getCtx s c
  if x.run ≠ .running ∨ !overHang x ∨ restarting s then s
  else
    let s := (existing s).foldl (fun s d => stopCtx s d (if d = c then stHang else stHangAbort)) s
    let mask := hungMask s
    let seq := s.hal.fbSeq.toNat
    let ex := existing s
    let (s, slot) := writeDump s seq 3 mask
    let body := leBytes 32 (ex.foldl (fun acc d => acc + (getCtx s d).fr.beats % 2 ^ 32 * 2 ^ (32 * d.val)) 0)
      ++ leBytes 32 (ex.foldl (fun acc d => acc + (getCtx s d).fr.num.toNat % 2 ^ 32 * 2 ^ (32 * d.val)) 0)
      ++ leBytes 32 (mask * 2 ^ 248 + ofBits (ex.map (·.val)) * 2 ^ 240 + slot * 2 ^ 238 + 2 ^ 237)
    let s := fbAppend s 0x11 2 body
    let s := raise s (pkgEvent evHang 7 c.val x.fr.beats (4 * frameLimit x))
    ex.foldl (fun s d => requestReset s d ⟨3, none, false, s.clk.mastNs, 0⟩) s

/-! ### Commands -/

def bodyDump : Body := fun s _ _ _ =>
  let (s, n) := writeDump s 0 14 (hungMask s)
  (s, .now (.pay_ (leBytes 8 n)))

def bodyDumpRelease : Body := fun s _ _ p =>
  checked s [bad 0 (decide (3 < pf p 0 1)), rsv p 1 8]
    (modHal s fun h => { h with dumps := h.dumps.filter fun d => d.1 != pf p 0 1 }, .now .ok)

/-- TRACE (R438). A buffer of no bytes is none. -/
def bodyTrace : Body := fun s _ c p =>
  let x := getCtx s c
  let va := pf p 0 8
  let len := pf p 8 8
  let first := pf p 16 8
  let last := pf p 24 8
  let lenOk := len != 0 && len % 64 == 0
  checked s
    [(0, va % 64 != 0 || (lenOk && !hbmWritable s x va len), stTrace), (64, !lenOk, stTrace),
     bad 24 (decide (2 ^ 48 ≤ last) || decide (last < first)), bad 32 (decide (1 < pf p 32 1)), rsv p 33 40]
    (setCtx s c { x with trace := ⟨true, va, len, first, last, pf p 32 1 == 1, 0, false⟩ }, .now .ok)

def bodyFbCopy : Body := fun s _ _ p =>
  let row := pf p 0 4
  let n := pf p 4 4
  checked s [bad 4 (n == 0 || decide (32768 < row + n))]
    (match hostWriteTo s (pf p 8 8) (cread (fbSeen s.hal) (64 * row) (64 * n)) with
     | none => (s, .now (.fail stHostDma noField))
     | some s => (s, .now .ok))

def bodyDumpCopy : Body := fun s _ _ p =>
  let slot := pf p 0 1
  let off := pf p 4 4
  let len := pf p 8 4
  let size := match s.hal.dumps.find? fun d => d.1 == slot with | some d => d.2.2 | none => 0
  checked s [bad 0 (decide (3 < slot)), (0, decide (slot ≤ 3) && size == 0, stSlotEmpty), rsv p 1 4, bad 8 (len == 0 || decide (size < off + len)), rsv p 12 16]
    (match memRead s ⟨0, none⟩ (dumpBase slot + off) len with
     | (s, .error _) => (s, .now (.fail stMemUe noField))
     | (s, .ok bs) => match hostWriteTo s (pf p 16 8) bs with
       | none => (s, .now (.fail stHostDma noField))
       | some s => (s, .now .ok))

/-! ### Patrol scrub (R253 to R256) -/

/-- One more symbol of a location goes wrong: a byte of a line by a value, a bit of an on-chip byte as it stands. What was wrong
before stays wrong but where the two cancel (R250). -/
def flipSym (a : Nat) (pat : List (Nat × Byte)) (p : Nat × Byte) : List (Nat × Byte) :=
  let one : Byte := 1
  let v : Byte := if isHbm a then p.2 else one
  let w := match pat.find? fun q => q.1 == p.1 with | some q => q.2 ^^^ v | none => v
  (if w = 0 then [] else [(p.1, w)]) ++ pat.filter fun q => q.1 != p.1

/-- PATROL_SCRUB_READ: the symbols that have gone wrong since the location was last read, then the read, which writes nothing. A
location of HBM is a line, of a die store a byte; tile stores are not scrubbed. -/
def scrub (s : State) (addr : Nat) (upset : List (Nat × Byte)) (pass : Nat) : State :=
  let a := if isHbm addr then addr - addr % 64 else addr
  let ok := match place a with
    | some (.hbm _) => s.pkg.hbmUp
    | some (.die ..) => !s.pkg.computeReset
    | _ => false
  if !ok then s
  else
    let s := if upset.isEmpty then s
      else modMem s fun m =>
        let old : List (Nat × Byte) := match m.upset.find? fun u => u.1 == a with | some u => u.2 | none => []
        let new := upset.foldl (flipSym a) old
        { m with upset := (if new.isEmpty then [] else [(a, new)]) ++ m.upset.filter fun u => u.1 != a }
    match s.mem.upset.find? fun u => u.1 == a with
    | none => s
    | some u =>
      match clsCode (patClass a u.2) with
      | none => s
      | some (cls, pos) =>
        let syn := if isHbm a then lineSynField u.2 else byteSyn u.2
        let s := logErr s ⟨1, none⟩ a cls pos syn (some pass)
        if cls = 0 then s
        else raise s { code := evMemUe, kind := if isHbm a then 4 else 6, subj := (errUnit ⟨1, none⟩ a).2.2 % 12, v0 := a,
                       status := stMemUe.toNat, aux0 := cls }

/-! ### The meanings -/

def execDump (r : Req) (s : State) : Res_ := .next (mailbox ⟨0x0801, 0, false, .any⟩ bodyDump r s)
def execDumpRelease (r : Req) (s : State) : Res_ := .next (mailbox ⟨0x0802, 8, false, .any⟩ bodyDumpRelease r s)
def execTrace (r : Req) (s : State) : Res_ := .next (mailbox ⟨0x0803, 40, true, .exists_⟩ bodyTrace r s)
def execFbCopy (r : Req) (s : State) : Res_ := .next (mailbox ⟨0x0C01, 16, false, .any⟩ bodyFbCopy r s)
def execDumpCopy (r : Req) (s : State) : Res_ := .next (mailbox ⟨0x0C02, 24, false, .any⟩ bodyDumpCopy r s)
def execHang (c : CtxId) (s : State) : Res_ := .next (hangSeq s c)
def execPatrolScrubRead (addr : BitVec 40) (upset : List (Nat × Byte)) (pass : Nat) (s : State) : Res_ :=
  .next (scrub s addr.toNat upset pass)

end Sys2Proof.Machine
end

