-- ==== Sys2Proof/Machine/DispEng.lean ====
section
/-! DEFINITION. Dispatch engines: routing, bitmap lists, count sums and flag counts (section 4.8). -/

namespace Sys2Proof.Machine

/-! ### `DISP_DESC` and `DISP_OP` (Tables 4.7 and 4.8) -/

def ddAddr (d : BitVec 512) (k : Nat) : Nat := fld d (319 + 64 * k) (256 + 64 * k)
def ddWin (d : BitVec 512) (k : Nat) : Nat := fld d (159 + 32 * k) (128 + 32 * k)
def ddStride (d : BitVec 512) : Nat := fld d 127 96
def ddN (d : BitVec 512) : Nat := fld d 95 72
def ddOp (d : BitVec 512) : Nat := fld d 63 58
def ddCnt (d : BitVec 512) : Nat := fld d 57 52

def doKind (e : BitVec 256) : Nat := fld e 255 252
def doK (e : BitVec 256) : Nat := fld e 251 249 + 1
def doExp (e : BitVec 256) : Nat := fld e 248 241 + 1
def doBf16 (e : BitVec 256) : Bool := bit e 240
def doNorm (e : BitVec 256) : Nat := fld e 239 238
def doCap (e : BitVec 256) : Nat := fld e 237 222
def doDest (e : BitVec 256) : Nat := fld e 221 214 + 1
def doBytes (e : BitVec 256) : Nat := fld e 213 194
def doFirst (e : BitVec 256) : Nat := fld e 193 186
def doLocal (e : BitVec 256) : Nat := fld e 185 179
def doRows (e : BitVec 256) : Nat := fld e 178 175

/-- The dispatch program entry of a request. -/
def dispOp (q : SrvReq) (d : BitVec 512) : BitVec 256 := q.disp.getD (ddOp d) 0

/-- Tokens that an expert may take. -/
def capOf (d : BitVec 512) (e : BitVec 256) : Nat := if 0 < doCap e ∧ doCap e < ddN d then doCap e else ddN d

/-! ### Checks (R176, R177) -/

/-- Bytes that a kind needs at each address, the list of BITMAP_LIST apart; 0 for one it does not use. -/
def dispNeed (d : BitVec 512) (e : BitVec 256) (k : Nat) : Nat :=
  let n := ddN d
  match doKind e, k with
  | 1, 0 => n * doExp e * (if doBf16 e then 2 else 4)
  | 1, 1 => doExp e * ddStride d
  | 1, 2 => 16 + 4 * doExp e
  | 1, 3 => 8 * doDest e
  | 2, 0 => (n + 7) / 8
  | 3, 0 => (n - 1) * ddStride d + 4 * doExp e
  | 3, 1 => 4 * doLocal e
  | 4, 0 => 32 * n
  | _, _ => 0

/-- Does a kind use an address? -/
def dispUses (kind k : Nat) : Bool :=
  k == 0 || (k == 1 && decide (kind ≤ 3)) || kind == 1

/-- The field checks in the order of R25. -/
def dispChecks2 (q : SrvReq) (d : BitVec 512) : List Chk :=
  let e := dispOp q d
  let kind := doKind e
  let n := ddN d
  let lists := kind == 1 || kind == 3
  let writes := if kind = 2 then 1 else if kind = 3 then doLocal e else if kind = 4 then n else 0
  [(16, fld d 51 16 != 0, stReserved),
   (52, if kind = 1 then ddCnt d != 0 else kind != 0 && decide (ddCnt d + writes > 64), stField),
   (58, kind == 0, stField),
   (64, fld d 71 64 != 0, stReserved),
   (72, n == 0 || (kind == 3 && decide (n > 16384)) || (kind == 4 && decide (n > 64)), stField),
   (96, if lists then ddStride d % 8 != 0 || decide (ddStride d < (if kind = 1 then 8 * capOf d e else 4 * doExp e)) else ddStride d != 0, stField)]
  ++ (List.range 4).map (fun k => (128 + 32 * k,
      if dispUses kind k then decide (ddWin d k < dispNeed d e k) else ddWin d k != 0, if dispUses kind k then stWindow else stField))
  ++ (List.range 4).map (fun k => (256 + 64 * k,
      if dispUses kind k then ddAddr d k % 16 != 0 || decide (2 ^ 48 ≤ ddAddr d k) else ddAddr d k != 0, stField))

/-- May the engine reach its windows: mapped, local, writable where it writes? -/
def dispReach (s : State) (c : CtxId) (q : SrvReq) : Bool :=
  let d := q.desc
  let kind := doKind (dispOp q d)
  (List.range 4).all fun k => !dispUses kind k ||
    (rangeOk s (getCtx s c) q.ret (k != 0) false (ddAddr d k) (ddWin d k) && bytesOk s (getCtx s c) q.ret (ddAddr d k) (ddWin d k))

/-- The checks before any effect, the fields first, then translation. -/
def dispCheck (s : State) (c : CtxId) (q : SrvReq) : State × Option Status :=
  match firstSt (dispChecks2 q q.desc) with
  | some st => (s, some st)
  | none => if dispReach s c q then (s, none) else (s, some stTranslation)

/-! ### Results: the memory writes and the count registers of a request -/

/-- What a request leaves behind when it completes. -/
structure DispOut where
  writes : List (Nat × List Byte)
  counts : List (Nat × BitVec 32)
  deriving DecidableEq, Repr

/-- A logit as FP32. -/
def logitOf (e : BitVec 256) (x : Nat) : Fp := if doBf16 e then BitVec.ofNat 32 (x * 65536) else BitVec.ofNat 32 x

/-- Does logit a rank above b: NaN below all, zeros equal (R178)? -/
def logitAbove (a b : Fp) : Bool :=
  match fpv a, fpv b with
  | .nan, _ => false
  | _, .nan => true
  | x, y => XVal.lt y x

/-- Insertion behind every logit that is not below: equal rank keeps ascending expert index. -/
def insLogit (p : Nat × Fp) : List (Nat × Fp) → List (Nat × Fp)
  | [] => [p]
  | a :: r => if logitAbove p.2 a.2 then p :: a :: r else a :: insLogit p r

/-- The k highest logits of a token with their experts, highest first. -/
def topk (k : Nat) (ls : List Fp) : List (Nat × Fp) :=
  (((List.range ls.length).zip ls).foldl (fun acc p => insLogit p acc) []).take k

/-- Is either a NaN? -/
def fpNan (x : Fp) : Bool := XVal.isNan (fpv x)

/-- Gating weights of the selected experts (R179). -/
def gateWeights (norm : Nat) (all_ : List Fp) (sel : List (Nat × Fp)) : List Fp :=
  if norm = 0 then sel.map fun p => canonFp p.2
  else
    let set_ := if norm = 1 then all_ else sel.map (·.2)
    if set_.any fpNan then sel.map fun _ => 0x7FC00000
    else
      let m := set_.foldl (fun a b => if logitAbove b a then b else a) (set_.headD 0)
      let ex (l : Fp) : Fp := fexpNeg (fsub l m)
      let sum := fpr (xsum (set_.map fun l => fpv (ex l)))
      sel.map fun p => fdiv (ex p.2) sum

/-- The lists under construction: counts per expert, entries newest first (expert, place, entry), kept, dropped, tokens with a
NaN. -/
structure RouteAcc where
  cnt     : Tbl Nat
  ents    : List (Nat × Nat × Nat)
  kept    : Nat
  dropped : Nat
  nans    : Nat
  deriving DecidableEq, Repr

/-- One assignment (R180). -/
def routeOne (cap tok : Nat) (r : RouteAcc) (a : Nat × Nat × Fp) : RouteAcc :=
  let n := tget 0 r.cnt a.2.1
  if n ≥ cap then { r with dropped := r.dropped + 1 }
  else { r with
    cnt := (tput r.cnt a.2.1 (n + 1)), kept := r.kept + 1
    ents := (a.2.1, n, a.2.2.toNat * 2 ^ 32 + a.1 * 2 ^ 29 + tok) :: r.ents }

/-- One token. -/
def routeTok (e : BitVec 256) (cap : Nat) (r : RouteAcc) (t : Nat × List Fp) : RouteAcc :=
  let sel := topk (doK e) t.2
  let ws := gateWeights (doNorm e) t.2 sel
  let r := if t.2.any fpNan then { r with nans := r.nans + 1 } else r
  ((List.range sel.length).zip (sel.zip ws)).foldl (fun r p => routeOne cap t.1 r (p.1, p.2.1.1, p.2.2)) r

/-- Experts of a destination (R181): first and number. -/
def destExperts (nexp dests d : Nat) : Nat × Nat :=
  let q := nexp / dests
  let r := nexp % dests
  (d * q + min d r, if d < r then q + 1 else q)

/-- TOPK_ROUTE on its logits. -/
def routeOut (d : BitVec 512) (e : BitVec 256) (logits : List Byte) : DispOut :=
  let b := if doBf16 e then 2 else 4
  let ne := doExp e
  let xs := (elems (8 * b) (ddN d * ne) logits).map (logitOf e)
  let toks := (List.range (ddN d)).zip (pieces ne (ddN d) xs)
  let r := toks.foldl (routeTok e (capOf d e)) ⟨[], [], 0, 0, 0⟩
  let dest (i : Nat) : Nat :=
    let g := destExperts ne (doDest e) i
    doBytes e * ((List.range g.2).map fun j => tget 0 r.cnt (g.1 + j)).sum
  ⟨r.ents.reverse.map (fun p => (ddAddr d 1 + p.1 * ddStride d + 8 * p.2.1, leBytes 8 p.2.2))
     ++ [(ddAddr d 2, leBytes 16 (r.nans * 2 ^ 64 + r.dropped * 2 ^ 32 + r.kept) ++ (List.range ne).flatMap fun i => leBytes 4 (tget 0 r.cnt i)),
         (ddAddr d 3, (List.range (doDest e)).flatMap fun i => leBytes 8 (dest i))], []⟩

/-- Indices of the set bits of a bitmap (R173). -/
def bitmapIdx (n : Nat) (bs : List Byte) : List Nat :=
  (List.range n).filter fun i => bit (bs.getD (i / 8) 0) (i % 8)

/-- Totals of local experts over source arrays (R182). -/
def sumCounts (d : BitVec 512) (e : BitVec 256) (bs : List Byte) : List Nat :=
  (List.range (doLocal e)).map fun j =>
    ((List.range (ddN d)).map fun i => leNat ((bs.drop (i * ddStride d + 4 * (doFirst e + j))).take 4)).sum

/-- Why a shard record as read is refused: VALID clear (R182), or a reserved bit set (Table 4.4, R17). -/
def recSt (r : BitVec 256) : Option Status :=
  if !bit r 0 then some stShardRec else if fld r 127 2 != 0 then some stReserved else none

/-- A request's results from the bytes at ADDR0, or its failure (R177, R182). -/
def dispOut (d : BitVec 512) (e : BitVec 256) (bs : List Byte) : Except Status DispOut :=
  match doKind e with
  | 1 => .ok (routeOut d e bs)
  | 2 =>
    let is := bitmapIdx (ddN d) bs
    if 4 * is.length > ddWin d 1 then .error stWindow
    else .ok ⟨[(ddAddr d 1, is.flatMap fun i => leBytes 4 i)], [(ddCnt d, BitVec.ofNat 32 is.length)]⟩
  | 3 =>
    let ts := sumCounts d e bs
    if ts.any fun t => decide (t > 0xFFFFFFFF) then .error stCountOver
    else .ok ⟨[(ddAddr d 1, ts.flatMap fun t => leBytes 4 t)],
      (List.range ts.length).zip ts |>.map fun p => (ddCnt d + p.1, BitVec.ofNat 32 ((p.2 + 2 ^ doRows e - 1) / 2 ^ doRows e))⟩
  | _ =>
    let rs := (List.range (ddN d)).map fun i => recAt 256 bs (32 * i)
    match rs.findSome? recSt with
    | some st => .error st
    | none => .ok ⟨[], (List.range rs.length).zip rs |>.map fun p =>
      (ddCnt d + p.1, if bit p.2 1 then 0 else BitVec.ofNat 32 (fld p.2 159 128))⟩

/-! ### Serving -/

/-- Bytes of a line that the writes of a request cover; they do not overlap. -/
def lineCover (ws : List (Nat × List Byte)) (line : Nat) : Nat :=
  (ws.map fun w => min (w.1 + w.2.length) (64 * line + 64) - max w.1 (64 * line)).sum

/-- Is every line of HBM that the writes touch written in full (R237)? -/
def linesWhole (s : State) (x : Ctx) (ret : BitVec 512) (ws : List (Nat × List Byte)) : Bool :=
  ws.all fun w => w.2.isEmpty || [w.1 / 64, (w.1 + w.2.length - 1) / 64].all fun l =>
    !touchesHbm s x ret (64 * l) 64 || lineCover ws l == 64

/-- The work: the operand is read, and every write and count register is kept for completion (R183). -/
def dispWork (s : State) (c : CtxId) (q : SrvReq) : State :=
  let d := q.desc
  let e := dispOp q d
  match virtRead s ⟨0, some c⟩ (getCtx s c) q.ret (ddAddr d 0) (dispNeed d e 0) with
  | (s, .error st) => failHead s c q st
  | (s, .ok bs) => match dispOut d e bs with
    | .error st => failHead s c q st
    | .ok o =>
      if !linesWhole s (getCtx s c) q.ret o.writes then failHead s c q stLine
      else putHead s c { q with phase := .ready, pending := o.writes, counts := o.counts }

/-- Virtual ranges whose translations the request holds (R230). -/
def dispSpans (q : SrvReq) : List (Nat × Nat) :=
  let d := q.desc
  ((List.range 4).filter (dispUses (doKind (dispOp q d)))).map fun k => (ddAddr d k, ddWin d k)

/-- Starts the head request of a dispatch engine when its entry is of the row's kind; an unused entry starts with any kind, and
fails. -/
def dispStart (kind : Nat) (c : CtxId) (e : Fin 2) (s : State) : State :=
  match startHead noPre s c 4 e.val with
  | .idle => s
  | .bad s q st => failHead s c q st
  | .go s1 q =>
    let k := doKind (dispOp q q.desc)
    if k ≠ kind ∧ 1 ≤ k ∧ k ≤ 4 then s
    else match dispCheck s1 c q with
      | (s, some st) => failHead s c q st
      | (s, none) => dispWork (takeCredits s c q) c { q with phase := .serving, holds := dispSpans q }

def execTopkRoute (c : CtxId) (e : Fin 2) (s : State) : Res_ := .next (dispStart 1 c e s)
def execBitmapList (c : CtxId) (e : Fin 2) (s : State) : Res_ := .next (dispStart 2 c e s)
def execCountSum (c : CtxId) (e : Fin 2) (s : State) : Res_ := .next (dispStart 3 c e s)
def execFlagCount (c : CtxId) (e : Fin 2) (s : State) : Res_ := .next (dispStart 4 c e s)

/-- DISPATCH_DONE: memory writes and count registers in one cycle, with the token (R183). -/
def dispDone (c : CtxId) (e : Fin 2) (s : State) : State :=
  if !srvRuns s c then s
  else match headIn s c 4 e.val .ready with
    | none => s
    | some q =>
      let x := getCtx s c
      let s := q.pending.foldl (fun s w => virtWrite s x q.ret w.1 w.2) s
      let s := q.counts.foldl (fun s w => setCount s c w.1 w.2) s
      finishHead s c { q with pending := [], written := q.pending.map fun w => (w.1, w.2.length) }

def execDispatchDone (c : CtxId) (e : Fin 2) (s : State) : Res_ := .next (dispDone c e s)

end Sys2Proof.Machine
end

