-- ==== Sys2Proof/Machine/Tile.lean ====
section
/-! DEFINITION. One routine word on one tile: operand addresses, operand reads with their failures, the matrix unit,
the transpose unit, the mesh and the vector unit (sections 2.4, 3.4 to 3.7, 4.2 and 4.6). -/

namespace Sys2Proof.Machine

/-! ### The TILE slot word (Table 2.7) -/

def twRoutine (w : BitVec 128) : Nat := fld w 107 100
def twRecipe (w : BitVec 128) : Nat := fld w 99 95
def twAset (w : BitVec 128) : Nat := fld w 94 94
def twAccOp (w : BitVec 128) : Nat := fld w 93 92
def twBlk (w : BitVec 128) : Nat := fld w 91 80
def twArg (w : BitVec 128) (k : Nat) : Nat := fld w (79 - 20 * k) (60 - 20 * k)

/-- A routine word as one tile runs it: its slot word and IDX, the cycle (32 x beat + cycle of the tile's own die), and
what its slot word captured. -/
structure TW where
  c      : CtxId
  t      : Nat            -- physical tile
  lt     : Nat            -- logical tile
  sw     : BitVec 128
  rw     : BitVec 64
  idx    : Nat
  cyc    : Nat
  replay : Bool           -- in a replay beat (R130)
  cnt    : Tbl (BitVec 32)
  tag    : BitVec 16
  deriving DecidableEq, Repr

/-- Operand addresses (R62). -/
def twAddr (w : TW) (base off : Nat) : Nat := twArg w.sw base + 256 * (off + fld w.rw 44 41 * w.idx)
def twA (w : TW) : Nat := twAddr w (fld w.rw 50 49) (fld w.rw 32 22)
def twB (w : TW) : Nat := twAddr w (fld w.rw 48 47) (fld w.rw 21 11)
def twD (w : TW) : Nat := twAddr w (fld w.rw 46 45) (fld w.rw 10 0)

/-- A suppressed access: its place in the order of R101 within a tile and cycle, its status, the detail of its event. -/
abbrev TBad := Nat × Status × Why

def badAddr : TBad := (0, stTileAddr, .plain)
def badMem (s : State) : TBad := (1, stMemUe, ueWhy s)
def badAcc : TBad := (2, stAccState, .plain)
def badTr : TBad := (3, stTranspose, .plain)
def badSparse : TBad := (4, stSparse, .plain)

/-- What a unit's action leaves: the state, the bytes it writes to its own tile store in this cycle, and every access it
suppressed. -/
structure URes where
  s      : State
  writes : List (Nat × List Byte)
  bads   : List TBad
  deriving DecidableEq, Repr

def URes.ok (s : State) : URes := ⟨s, [], []⟩
def URes.fail (s : State) (bs : List TBad) : URes := ⟨s, [], bs⟩

/-- An operand read: its value, or every access of it that is suppressed. -/
abbrev Rd (α : Type) := State → State × Except (List TBad) α

/-- Nothing to read. -/
def Rd.none {α : Type} (a : α) : Rd α := fun s => (s, .ok a)

/-- A read that is suppressed. -/
def Rd.bad {α : Type} (b : TBad) : Rd α := fun s => (s, .error [b])

/-- Two reads of one word: both are made, and every failure is kept (R101). -/
def Rd.both {α β : Type} (f : Rd α) (g : Rd β) : Rd (α × β) := fun s =>
  let (s, x) := f s
  let (s, y) := g s
  (s, match x, y with
    | .ok a, .ok b => .ok (a, b)
    | .error e, .error d => .error (e ++ d)
    | .error e, .ok _ => .error e
    | .ok _, .error d => .error d)

/-- The outcome of an action from its reads and the further accesses of the word that are suppressed. -/
def Rd.act {α : Type} (f : Rd α) (bads : List TBad) (k : State → α → URes) (s : State) : URes :=
  match f s with
  | (s, .error e) => .fail s (e ++ bads)
  | (s, .ok a) => if bads.isEmpty then k s a else .fail s bads

/-- One failure if a condition holds. -/
def badIf (p : Bool) (b : TBad) : List TBad := if p then [b] else []

/-- Reads n bytes of a tile's store for a routine of context c. -/
def tileRead (w : TW) (a n : Nat) : Rd (List Byte) := fun s =>
  if a + n > tileSize then (s, .error [badAddr])
  else match memRead s ⟨0, some w.c⟩ (tileBase w.t + a) n with
    | (s, .ok bs) => (s, .ok bs)
    | (s, .error _) => (s, .error [badMem s])

/-! ### Operands (R110, R119, R170 to R172) -/

/-- Class of the operand pairs that a format belongs to (Table 3.4): FP32, 16 bits, MXFP8 and MXFP6, MXINT8, GB8, MXFP4,
GB4. -/
def pairClass (f : Nat) : Nat := [0, 1, 1, 2, 2, 2, 2, 5, 3, 4, 6].getD f 7

/-- Group size, K per word and output rows of a class (Table 3.4). -/
def macShape (cl : Nat) : Nat × Nat × Nat :=
  [(4, 4, 4), (8, 8, 16), (16, 32, 8), (16, 32, 8), (8, 8, 32), (16, 32, 16), (8, 16, 32)].getD cl (4, 4, 4)

/-- Has a B format a 2:4 form (Table 4.6)? -/
def has24 (f : Nat) : Bool := [1, 2, 3, 4, 8, 9].contains f

/-- An enabled sparse window: start, length, metadata. -/
abbrev SpWin := Nat × Nat × Nat

def spWindows (x : Ctx) : List SpWin :=
  (x.spw.filter fun r => bit r 0).map fun r => (fld r 23 4, fld r 43 24, fld r 63 44)

/-- The sparse window that a span [a, a + n) lies in; an error when it lies partly inside one. -/
def spFind (x : Ctx) (a n : Nat) : Except TBad (Option SpWin) :=
  match (spWindows x).find? fun w => overlap w.1 w.2.1 a n with
  | none => .ok none
  | some w => if w.1 ≤ a ∧ a + n ≤ w.1 + w.2.1 then .ok (some w) else .error badSparse

/-- Two stored values of a group of four laid at the positions of its nibble (R171). -/
def expandPair (zero : XVal) (nib : Nat) (p : List XVal) : Option (List XVal) :=
  let i := nib % 4
  let j := nib / 4 % 4
  if i ≥ j then none
  else some ((List.range 4).map fun k => if k = i then p.getD 0 zero else if k = j then p.getD 1 zero else zero)

/-- The groups of a run of stored values, expanded; none where a nibble is not ascending. -/
def expandRun (nibs : List Nat) (vs : List XVal) : Option (List XVal) :=
  (List.zip nibs (pieces 2 nibs.length vs)).foldr (fun g acc =>
    match acc, expandPair (.num false 0 0) g.1 g.2 with
    | some r, some e => some (e ++ r)
    | _, _ => none) (some [])

/-- Reads `n` stored units of `m` elements each from an address: blocks with their scales under a recipe, or rows of a
scalar format; expanded to logical values when they lie in a sparse window. -/
def readUnits (w : TW) (rec_ : BitVec 64) (a n m : Nat) (sp : Option SpWin) : Rd (List (List XVal)) := fun s =>
  let f := rcFormat rec_
  let esz := if isScaled f then 0 else fmtBits f / 8
  -- bytes of a stored unit
  let u := if isScaled f then (if sp.isSome then blkBytes f / 2 else blkBytes f) else m * esz
  let e := if isScaled f then 1 else esz
  let scales : Rd (List Byte) := if isScaled f then tileRead w (rcSplane rec_ + a / u) n else .none []
  let nibbles : Rd (List Byte) := match sp with
    | none => .none []
    | some (base, _, meta_) =>
      let m0 := meta_ + (a - base) / (4 * e)
      tileRead w m0 (meta_ + (a + n * u - 1 - base) / (4 * e) + 1 - m0)
  match (tileRead w a (n * u)).both (scales.both nibbles) s with
  | (s, .error b) => (s, .error b)
  | (s, .ok (bs, sc, md)) =>
    let raw := (List.zip (pieces u n bs) (if isScaled f then sc.map BitVec.toNat else List.replicate n 0)).map
      fun p => blockVals f p.2 m p.1
    match sp with
    | none => (s, .ok raw)
    | some (base, _, _) =>
      let nib (k : Nat) : Nat :=   -- of the k-th group of the run
        let g := (a - base) / (2 * e) + k
        ((md.getD (g / 2 - (a - base) / (4 * e)) 0).toNat >>> (4 * (g % 2))) % 16
      let r := (List.zip (List.range n) raw).foldr (fun p acc =>
        match acc, expandRun ((List.range (m / 2)).map fun k => nib (p.1 * (m / 2) + k)) p.2 with
        | some rest, some v => some (v :: rest)
        | _, _ => none) (some [])
      (s, match r with | some v => .ok v | none => .error [badSparse])

/-- Rows of a Grid-block operand from its blocks in ascending K-block order, then row block (R119). -/
def gridRows (rows kb : Nat) (units : List (List XVal)) : List (List XVal) :=
  (List.range rows).map fun r => (List.range kb).flatMap fun k =>
    ((units.getD (k * (rows / 8) + r / 8) []).drop (8 * (r % 8))).take 8

/-- Reads an operand of `rows` rows of K logical values. -/
def readOperand (w : TW) (rec_ : BitVec 64) (a rows k : Nat) (sp : Option SpWin) : Rd (List (List XVal)) := fun s =>
  let f := rcFormat rec_
  let half (n : Nat) : Nat := if sp.isSome then n / 2 else n
  if isGrid f then
    match readUnits w rec_ a (k / 8 * (rows / 8)) (half 64) sp s with
    | (s, .ok us) => (s, .ok (gridRows rows (k / 8) us))
    | r => r
  else if isScaled f then
    match readUnits w rec_ a (rows * (k / 32)) (half 32) sp s with
    | (s, .ok us) => (s, .ok ((pieces (k / 32) rows us).map List.flatten))
    | r => r
  else readUnits w rec_ a rows (half k) sp s

/-! ### Block starts and the matrix unit (R118 to R121, R126, R533) -/

/-- The accumulator set a word names. -/
def twSet (s : State) (w : TW) : ASet := setOf (getTile s w.t) (twAset w.sw)
def putTwSet (s : State) (w : TW) (x : ASet) : State := setTile s w.t (putSet (getTile s w.t) (twAset w.sw) x)

/-- The recipe a slot word captures. -/
def twRec (s : State) (w : TW) : BitVec 64 := (getCtx s w.c).recipes.act.getD (twRecipe w.sw) 0

/-- A block start (ACC_OP 0b01) at cycle 0 of its beat; in a replay beat the block keeps its start, its length and its
count of recomputes (R91, R129). -/
def startBlock (s : State) (w : TW) : URes :=
  let old := twSet s w
  let x := getCtx s w.c
  let ra := twRec s w
  let rb := x.recipes.act.getD (rcPair ra) 0
  if old.held then .fail s [badAcc]
  else .ok (putTwSet s w
    { started := true, p := 0, held := false, recA := ra, recB := rb,
      blk := if w.replay then old.blk else twBlk w.sw, start := if w.replay then old.start else x.is.issued,
      inBad := false, tries := if w.replay then old.tries else 0, pairs := [] })

/-- Exact sums of the products of one row and one column, by groups of g, scaled by 2^(-sh), each rounded once (R120,
R129). -/
def groupVals (g n : Nat) (sh : Nat) (row col : List XVal) : List Fp :=
  (pieces g n (List.zipWith XVal.mul row col)).map fun ps => fpr (XVal.scale (xsum ps) (-(sh : Int)))

/-- The operand that a recompute lowers: A under a FIXED recipe, else B; its retry exponent (R129). -/
def lowerStep (x : ASet) : Nat := if rcRule x.recA = 2 then rcStep x.recA else rcStep x.recB

/-- Adds the products of `r` operand rows and 32 columns of K values to the current row group of a set (R121, R533). -/
def accumRows (x : ASet) (g k r : Nat) (ra cb : List (List XVal)) : ASet :=
  let sh := x.tries * lowerStep x
  let lo := 32 * r * x.p
  let hi := lo + 32 * r
  let mine := x.pairs.filter fun q => decide (lo ≤ q.1) && decide (q.1 < hi)
  let new := (List.zip (List.range r) ra).flatMap fun (i, row) =>
    let b := lo + 32 * i
    let own := mine.filter fun q => decide (b ≤ q.1) && decide (q.1 < b + 32)
    (List.zip (List.range 32) cb).map fun (j, col) =>
      (b + j, (groupVals g (k / g) sh row col).foldl accumulate (tget (0, 0) own (b + j)))
  let bad := (ra ++ cb).any fun l => l.any fun v => !XVal.isNum v
  { x with
    pairs := x.pairs.filter (fun q => decide (q.1 < lo)) ++ new ++ x.pairs.filter (fun q => decide (hi ≤ q.1))
    p := (x.p + 1) % (32 / r)
    inBad := x.inBad || bad }

/-- Addresses at or above the end of the tile store (R63). -/
def addrBads (as_ : List Nat) : List TBad := badIf (as_.any fun a => decide (a ≥ tileSize)) badAddr

/-- MXOP 1 (R119, R170). Every access of the word is looked at, also where the set suppresses the word (DEDUCED from R101,
log 58). -/
def matrixMac (w : TW) (s : State) : URes :=
  let x := twSet s w
  if !x.started then .fail s (badAcc :: addrBads [twA w, twB w])
  else
    let (g, k, r) := macShape (pairClass (rcFormat x.recB))
    let fb := rcFormat x.recB
    let past := decide (twB w + storeBytes fb (32 * k) > tileSize)
    let sp : Option SpWin := match spFind (getCtx s w.c) (twB w) (storeBytes fb (32 * k)) with | .ok o => o | .error _ => none
    let part := match spFind (getCtx s w.c) (twB w) (storeBytes fb (32 * k)) with | .ok _ => false | .error _ => true
    let k := if sp.isSome then 2 * k else k
    let readB : Rd (List (List XVal)) :=
      if past then .bad badAddr else if part || (sp.isSome && !has24 fb) then .bad badSparse
      else readOperand w x.recB (twB w) 32 k sp
    ((readOperand w x.recA (twA w) r k none).both readB).act (badIf x.held badAcc) (fun s ops =>
      .ok (putTwSet s w (accumRows x g k r ops.1 ops.2))) s

/-- MXOP 4 (R121, R125, R533). -/
def matrixClear (w : TW) (s : State) : URes :=
  let x := twSet s w
  if x.held then .fail s [badAcc] else .ok (putTwSet s w { x with pairs := [], p := 0, inBad := false })

/-! ### Draining (R124 to R131) -/

/-- Drain time (Table 3.5). -/
def drainCycles (f : Nat) : Nat := [16, 8, 8].getD f 14

/-- The rounding inputs of a tile conversion at address D (Table 3.10). -/
def twConv (s : State) (w : TW) (rec_ : BitVec 64) (d : Nat) : Conv :=
  ⟨rec_, (getCtx s w.c).srSeed.toNat, (tget 0 w.cnt (fld rec_ 40 35)).toNat,
   (tget 0 w.cnt (fld rec_ 34 29)).toNat % 65536, 2 ^ 24 * w.lt + 1024 * (d / 256)⟩

/-- Writes of a converted tensor at D: its elements, and its scales from SPLANE on; none when a byte would lie outside
the tile store. -/
def convWrites (rec_ : BitVec 64) (d : Nat) (o : ConvOut) : Option (List (Nat × List Byte)) :=
  let f := rcFormat rec_
  let sa := rcSplane rec_ + d / blkBytes f
  if d + o.elems.length > tileSize ∨ (isScaled f ∧ sa + o.scales.length > tileSize) then none
  else some (if isScaled f then [(d, o.elems), (sa, o.scales)] else [(d, o.elems)])

/-- The conditions of R128 for a replay report, the accumulator being non-finite. -/
def replayable (x : ASet) (out : BitVec 64) : Bool :=
  !x.inBad && isScaled (rcFormat out) && (rcRule x.recA == 2 || rcRule x.recB == 2) && x.blk != 0 && decide (x.tries < 2)

/-- The first cause of Table 3.6 that applies: 0 INPUT, 1 NOT_REPLAYABLE, 2 RETRIES_EXHAUSTED, 3 CONVERSION. A scalar
output whose rounding gives an infinity counts as NOT_REPLAYABLE (R131; DEDUCED, log 26). -/
def drainCause (x : ASet) (out : BitVec 64) (accFinite : Bool) (o : ConvOut) : Option Nat :=
  if x.inBad then some 0
  else if !accFinite then (if x.tries = 2 ∧ (replayable { x with tries := 0 } out) then some 2 else some 1)
  else if o.conv then some 3
  else if o.bad then some 1
  else none

/-- MXOP 3: the result is formed at the word and lands at its last cycle. A drain of a set that another drain holds, or that no
block start has reached, runs (DESIGN CHOICE: R125 and R126 name MAC, CLEAR and block starts only; log 58); an event of it gives
the frame's beat count as it stands at the routine word, without the beat in progress (DESIGN CHOICE, log 58). -/
def matrixDrain (w : TW) (s : State) : URes :=
  let x := twSet s w
  let out := twRec s w
  let f := rcFormat out
  let vs := (List.range 1024).map fun i => pairVal (tget (0, 0) x.pairs i)
  let fin := vs.all XVal.isNum
  let shift := x.tries * lowerStep x
  let o := convert (twConv s w out (twD w)) shift (drainBlocks f (vs.map fun v => XVal.scale v shift))
  match convWrites out (twD w) o with
  | none => .fail s [badAddr]
  | some ws =>
    let rep := !fin && replayable x out
    let d : DrainPend :=
      { cycle := w.cyc + drainCycles f - 1, tile := w.lt, aset := twAset w.sw, writes := ws,
        cause := drainCause x out fin o, redrains := if rep then 0 else o.tries, replay := rep, tag := w.tag,
        beats := (getCtx s w.c).fr.beats }
    let s := putTwSet s w { x with held := true }
    .ok (modCtx s w.c fun c => modIs c fun i => { i with drains := i.drains ++ [d] })

/-! ### The transpose unit (R151 to R155) -/

/-- Row of Table 4.2 that a format lies in. -/
def regionRow (f : Nat) : Nat := [0, 1, 1, 2, 2, 2, 2, 4, 2, 3, 5].getD f 6
/-- Stored rows of a region. -/
def regionRows (f : Nat) : Nat := [64, 128, 128, 256, 256, 256, 256, 512, 256, 256, 512].getD f 0
/-- Cycles until a region can be streamed. -/
def regionReady (f : Nat) : Nat := if regionRow f = 2 ∨ regionRow f = 4 then 12 else 10

/-- Columns of a list of rows of 32. -/
def columns (rows : List (List XVal)) : List (List XVal) :=
  (List.range 32).map fun c => rows.map fun r => r.getD c .nan

/-- Rows of a region in drain layout from its units. -/
def regionRowsOf (f : Nat) (us : List (List XVal)) : List (List XVal) :=
  if isGrid f then
    (pieces 4 (us.length / 4) us).flatMap fun bs =>
      (List.range 8).map fun r => bs.flatMap fun b => (b.drop (8 * r)).take 8
  else us

/-- An MX region re-quantised along K, 32 rows at a time (R142); true when a block had no representable scale. -/
def requantRegion (f : Nat) (rows : List (List XVal)) : List (List XVal) × Bool :=
  let gs := (pieces 32 (rows.length / 32) rows).map fun g =>
    let cs := (columns g).map (requant f)
    (columns' (cs.map (·.1)), cs.any (·.2))
  (gs.flatMap (·.1), gs.any (·.2))
where
  /-- Rows from 32 columns of 32. -/
  columns' (cs : List (List XVal)) : List (List XVal) :=
    (List.range 32).map fun r => cs.map fun c => c.getD r .nan

/-- Does a TXOP 1 break a rule of R152 or R154? -/
def loadBreaks (w : TW) (s : State) : Bool :=
  !(twSet s w).started || decide ((getTile s w.t).regions.length ≥ 2) || twA w % 1024 != 0 || decide (twA w + 8192 > tileSize)

/-- TXOP 1 (R151, R152, R154, R155). A region of which the first 4,096 bytes lie partly inside a 2:4 window stops with the
sparse-operand status; one whose later bytes alone meet a window, and a format without a 2:4 form, are read dense (DESIGN CHOICE:
R170 speaks of MXOP 1 words only; log 58). -/
def transposeLoad (w : TW) (s : State) : URes :=
  let x := twSet s w
  let f := rcFormat x.recB
  let a := twA w
  if loadBreaks w s then .fail s [badTr]
  else
    let ctx := getCtx s w.c
    let sp : Except TBad (Option SpWin) := if has24 f then spFind ctx a 4096 else .ok none
    match sp with
    | .error b => .fail s [b]
    | .ok sp =>
      let n := regionRows f
      let (units, m) := if isGrid f then (n * 32 / 64, if sp.isSome then 32 else 64) else (n, if sp.isSome then 16 else 32)
      (readUnits w x.recB a units m sp).act [] (fun s us =>
        let rows := regionRowsOf f us
        let mx := isScaled f && !isGrid f
        let (vals, conv) := if mx then requantRegion f rows else (rows, false)
        let r : Region := ⟨x.recB, n, 0, w.cyc + regionReady f, vals.flatten⟩
        let tl := getTile s w.t
        let s := setTile s w.t { tl with regions := tl.regions ++ [r] }
        .ok (if conv then nonfiniteEvent s w.c w.t (twAset w.sw) 3 ctx.fr.beats w.tag else s)) s

/-- MXOP 2 with TXOP 2 (R153, R154). -/
def matrixMacT (w : TW) (s : State) : URes :=
  let x := twSet s w
  let acc := badIf (!x.started || x.held) badAcc
  match (getTile s w.t).regions with
  | [] => .fail s (badTr :: acc ++ addrBads [twA w])
  | reg :: rest =>
    let row := regionRow (rcFormat reg.recB) != regionRow (rcFormat x.recB)
    let tr := badIf (decide (w.cyc < reg.ready) || (x.started && row)) badTr
    if !x.started then .fail s (tr ++ acc ++ addrBads [twA w])
    else
      let (g, k, r) := macShape (pairClass (rcFormat x.recB))
      (readOperand w x.recA (twA w) r k none).act (tr ++ acc) (fun s ra =>
        let cb := columns (pieces 32 k (reg.vals.drop (32 * reg.taken)))
        let taken := reg.taken + k
        let tl := getTile s w.t
        let s := setTile s w.t { tl with regions := if taken ≥ reg.rows then rest else { reg with taken := taken } :: rest }
        .ok (putTwSet s w (accumRows x g k r ra cb))) s

/-- Does a word pair its matrix and transpose fields as R152 and R153 demand? -/
def pairingOk (rw : BitVec 64) : Bool :=
  let m := rwMxop rw
  let t := rwTxop rw
  ((m == 2) == (t == 2)) && (t != 1 || m == 0 || m == 3 || m == 4)

/-! ### The mesh (R63, R66, R67) -/

/-- Column of a physical tile on its die, and its row. -/
def tileCol (t : Nat) : Nat := t % 16
def tileRowOf (t : Nat) : Nat := t % 128 / 16

/-- Difference of two numbers. -/
def absDiff (a b : Nat) : Nat := if a ≤ b then b - a else a - b

/-- Landing cycle of a send at a cycle, in the receiving die's numbering. Across the bridge, column 15 of C-die 0 adjoins column
0 of C-die 1, so that the columns of the two dies stand in a row of 32 (DESIGN CHOICE: the manual does not say which columns meet
at the bridge; log 37). -/
def meshLands (cyc src dst : Nat) : Nat :=
  let rows := absDiff (tileRowOf src) (tileRowOf dst)
  if dieOf src = dieOf dst then cyc + 4 + rows + absDiff (tileCol src) (tileCol dst)
  else if dieOf src = 0 then cyc + 4 + rows + (15 - tileCol src) + tileCol dst
  else cyc + 52 + rows + tileCol src + (15 - tileCol dst)

/-- Destinations of a mesh operation: one tile, or a row or column of the context without the sender. A send to one tile whose
MDEST is the sender writes the sender's own store when it lands (DESIGN CHOICE: R63 excludes the sender for rows and columns only;
log 58). -/
def meshDests (x : Ctx) (op dest lt : Nat) : List Nat :=
  match op with
  | 1 => [dest]
  | 2 => (List.range (nTiles x)).filter fun d => d % 8 == dest % 8 && d != lt
  | _ => (List.range (nTiles x)).filter fun d => d / 8 == dest / 8 && d != lt

/-- MSOP 1 to 3: 256 bytes from D to the same address of other tiles. -/
def meshOp (op : Nat) (w : TW) (s : State) : URes :=
  let x := getCtx s w.c
  let dest := rwMdest w.rw
  let d := twD w
  (tileRead w d 256).act (badIf (decide (dest ≥ nTiles x)) badAddr) (fun s bs =>
    let ms := (meshDests x op dest w.lt).filterMap fun l => (physTile x l).map fun t =>
      ({ cycle := meshLands w.cyc w.t t, src := w.lt, dst := l, addr := d, data := bs } : MeshSend)
    .ok (modCtx s w.c fun x => modIs x fun i => { i with mesh := i.mesh ++ ms })) s

/-! ### The vector unit (R133, R134) -/

/-- 256 FP32 lanes at an address. -/
def readLanes (w : TW) (a : Nat) : Rd (List Fp) := fun s =>
  match tileRead w a 1024 s with
  | (s, .ok bs) => (s, .ok ((elems 32 256 bs).map (BitVec.ofNat 32)))
  | (s, .error b) => (s, .error b)

/-- Bytes of lanes. -/
def lanesBytes (vs : List Fp) : List Byte := vs.flatMap fun v => leBytes 4 v.toNat

/-- Must a write of n bytes at D be suppressed? -/
def destBads (w : TW) (n : Nat) : List TBad := badIf (decide (twD w + n > tileSize)) badAddr

/-- A function of A alone, lane by lane. -/
def vec1 (f : Fp → Fp) (w : TW) (s : State) : URes :=
  (readLanes w (twA w)).act (destBads w 1024) (fun s a => ⟨s, [(twD w, lanesBytes (a.map f))], []⟩) s

/-- A function of A and B. -/
def vec2 (f : Fp → Fp → Fp) (w : TW) (s : State) : URes :=
  ((readLanes w (twA w)).both (readLanes w (twB w))).act (destBads w 1024)
    (fun s p => ⟨s, [(twD w, lanesBytes (List.zipWith f p.1 p.2))], []⟩) s

/-- FMA: a x b + d, one rounding. -/
def vecFma (w : TW) (s : State) : URes :=
  ((readLanes w (twA w)).both ((readLanes w (twB w)).both (readLanes w (twD w)))).act []
    (fun s p => ⟨s, [(twD w, lanesBytes (List.zipWith (fun q d => ffma q.1 q.2 d) (List.zip p.1 p.2.1) p.2.2))], []⟩) s

/-- A function of all lanes of A, to lane 0 of D. -/
def vecAll (f : List Fp → Fp) (w : TW) (s : State) : URes :=
  (readLanes w (twA w)).act (destBads w 4) (fun s a => ⟨s, [(twD w, leBytes 4 (f a).toNat)], []⟩) s

/-- Exact sum of 256 lanes, rounded once; an exact zero is +0. -/
def laneSum (a : List Fp) : Fp := fpr (xsum (a.map fpv))
/-- Maximum of the lanes under VXOP 4. -/
def laneMax (a : List Fp) : Fp := a.foldl fmax 0xFF800000

/-- Joins a write to the front of a list of writes when they touch. -/
def joinWrite (w : Nat × List Byte) : List (Nat × List Byte) → List (Nat × List Byte)
  | [] => [w]
  | v :: r => if w.1 + w.2.length = v.1 then (w.1, w.2 ++ v.2) :: r else w :: v :: r

/-- Masked select: lanes of A where B's 32 bits are not all zero; other lanes of D stay. -/
def vecSelect (w : TW) (s : State) : URes :=
  ((readLanes w (twA w)).both (readLanes w (twB w))).act (destBads w 1024) (fun s p =>
    let ws := (List.zip (List.range 256) (List.zip p.1 p.2)).filterMap fun q =>
      if q.2.2 = 0 then none else some (twD w + 4 * q.1, leBytes 4 (canonFp q.2.1).toNat)
    ⟨s, ws.foldr joinWrite [], []⟩) s

/-- Does a converted tensor of n values at D leave the tile store? -/
def convOver (rec_ : BitVec 64) (d n : Nat) : Bool :=
  let f := rcFormat rec_
  decide (d + storeBytes f n > tileSize)
    || (isScaled f && decide (rcSplane rec_ + d / blkBytes f + n / blkElems f > tileSize))

/-- CVT from the PAIR recipe's format to the slot word's own (R134). A target block without a representable scale raises
the event of R114 and R127 (DEDUCED, log 26). -/
def vecCvt (w : TW) (s : State) : URes :=
  let x := getCtx s w.c
  let dst := twRec s w
  let src := x.recipes.act.getD (rcPair dst) 0
  let f := rcFormat src
  (readUnits w src (twA w) (256 / blkElems f) (blkElems f) none).act (badIf (convOver dst (twD w) 256) badAddr) (fun s us =>
    let o := convert (twConv s w dst (twD w)) 0 (laneBlocks (rcFormat dst) us.flatten)
    let s := modCtx s w.c fun x => modFr x fun f => { f with redrain := f.redrain + BitVec.ofNat 32 o.tries }
    ⟨if o.conv then nonfiniteEvent s w.c w.t (twAset w.sw) 3 x.fr.beats w.tag else s,
      (convWrites dst (twD w) o).getD [], []⟩) s

/-- The vector functions by VXOP (Table 3.7). -/
def vecOp (op : Nat) (w : TW) (s : State) : URes :=
  match op with
  | 1 => vec2 fadd w s
  | 2 => vec2 fmul w s
  | 3 => vecFma w s
  | 4 => vec2 fmax w s
  | 5 => vec2 fmin w s
  | 6 => vec1 fexp2 w s
  | 7 => vec1 frsqrt w s
  | 8 => vec1 frecip w s
  | 9 => vecCvt w s
  | 10 => vecAll laneSum w s
  | 11 => vecAll laneMax w s
  | 12 => vecSelect w s
  | _ => .ok s

/-- The matrix unit's action by MXOP. -/
def matrixOp (op : Nat) (w : TW) (s : State) : URes :=
  match op with
  | 1 => matrixMac w s
  | 2 => matrixMacT w s
  | 3 => matrixDrain w s
  | 4 => matrixClear w s
  | _ => .ok s

/-! ### A whole routine word (R61, R130, R532) -/

/-- Outcome of a routine word: the state, the vector result and every access suppressed. -/
structure WRes where
  s      : State
  writes : List (Nat × List Byte)
  bads   : List TBad
  deriving DecidableEq, Repr

/-- Adds a unit's action to an outcome. -/
def WRes.run (r : WRes) (act : State → URes) : WRes :=
  let u := act r.s
  ⟨u.s, r.writes ++ u.writes, r.bads ++ u.bads⟩

/-- Has an outcome a failure with the transpose-state status, which suppresses the matrix unit too (R154)? -/
def WRes.trFailed (r : WRes) : Bool := r.bads.any fun b => b.1 == 3

/-- One routine word: every unit reads the tile store as it stands before the cycle's writes. In a replay beat the vector
unit and the mesh do nothing. -/
def runWord (w : TW) (s : State) : WRes :=
  let tx := rwTxop w.rw
  let r : WRes := ⟨s, [], []⟩
  let r :=
    if !pairingOk w.rw then ⟨s, [], [badTr]⟩
    else
      let r := if tx = 1 then r.run (transposeLoad w) else r
      if r.trFailed then r else r.run (matrixOp (rwMxop w.rw) w)
  if w.replay then r
  else
    let r := if rwMsop w.rw = 0 then r else r.run (meshOp (rwMsop w.rw) w)
    r.run (vecOp (rwVxop w.rw) w)

/-! ### One word alone -/

/-- May a slot word start a block: its recipe and the one PAIR names form a pair of Table 3.4 (R118)? -/
def pairOk (x : Ctx) (sw : BitVec 128) : Bool :=
  let ra := x.recipes.act.getD (twRecipe sw) 0
  pairClass (rcFormat ra) == pairClass (rcFormat (x.recipes.act.getD (rcPair ra) 0))

/-- The word of a row as the tile runs it: alone, at cycle 0 of the beat to come. -/
def soloTW (x : Ctx) (o : TileOp) (t : Nat) : TW :=
  ⟨o.ctx, t, o.tile, o.sw, o.rw, o.idx, 32 * x.is.beatNo, false, x.cnt, x.is.lastTag⟩

/-- The suppressed access of one tile and cycle that R101 records. -/
def worstBad : List TBad → Option TBad
  | [] => none
  | b :: r => match worstBad r with
    | none => some b
    | some c => if c.1 < b.1 then some c else some b

/-- The end of a word: its writes land, and a suppressed access stops the context. -/
def finishWord (c : CtxId) (w : TW) (u : WRes) : State :=
  let s := u.writes.foldl (fun s p => tileWrite s w.t p.1 p.2) u.s
  match worstBad u.bads with
  | some b => stopCtxW s c b.2.1 b.2.2
  | none => s

/-- A unit of a tile, as the rows name them. -/
inductive TUnit where
  | matrix | transpose | mesh | vector
  deriving DecidableEq, Repr

/-- A unit's action for a row: a tile of a RUNNING context runs one routine word whose field names the row's operation
(`mine`), the slot word starting a block first where ACC_OP says so. A pairing that breaks R152 or R153, and for a matrix action a
TXOP 1 of the same word that breaks R154, suppress the matrix and the transpose action and stop the context; the mesh and the
vector unit act all the same (R154). Anything else leaves the state as it is. -/
def soloWord (u : TUnit) (o : TileOp) (mine : Bool) (act : TW → State → URes) (s : State) : State :=
  let x := getCtx s o.ctx
  match physTile x o.tile with
  | none => s
  | some t =>
    if !mine || x.run != .running || s.pkg.computeReset then s
    else if twAccOp o.sw == 1 && !pairOk x o.sw then stopCtx s o.ctx stBundle
    else
      let w := soloTW x o t
      let r : WRes := ⟨s, [], []⟩
      let r := if twAccOp o.sw = 1 then r.run fun s => startBlock s w else r
      let broken := !pairingOk o.rw || (decide (u = .matrix) && rwTxop o.rw == 1 && loadBreaks w r.s)
      let r := if broken then { r with bads := r.bads ++ [badTr] } else r
      finishWord o.ctx w (if broken && decide (u = .matrix ∨ u = .transpose) then r else r.run (act w))

end Sys2Proof.Machine
end

