-- ==== Sys2Proof/Machine/Bundle.lean ====
section
/-! DEFINITION. Bundles: their header and slot words, validation, gates, CTRL words, server targets and the structure of
counted loops (sections 2.2 to 2.9). -/

namespace Sys2Proof.Machine

/-! ### The header (Table 2.3) -/

def bhNslot (h : BitVec 128) : Nat := fld h 127 120
def bhRepeat (h : BitVec 128) : Nat := fld h 119 104
def bhPhase (h : BitVec 128) : Nat := fld h 103 98
def bhPhaseSet (h : BitVec 128) : Bool := bit h 97
def bhTick (h : BitVec 128) : Bool := bit h 96
def bhEnd (h : BitVec 128) : Bool := bit h 95
def bhLoopOp (h : BitVec 128) : Nat := fld h 94 93
def bhLim (h : BitVec 128) : Nat := fld h 92 89
def bhCnt (h : BitVec 128) : Nat := fld h 88 83
def bhTag (h : BitVec 128) : Nat := fld h 47 32
def bhBytes (h : BitVec 128) : Nat := 16 * (bhNslot h + 1)

structure Bundle where
  hdr   : BitVec 128
  words : List (BitVec 128)
  deriving DecidableEq, Repr

def bundleOf (bs : List Byte) : Bundle :=
  let h : BitVec 128 := recAt 128 bs 0
  ⟨h, (List.range (bhNslot h)).map fun i => recAt 128 bs (16 * (i + 1))⟩

/-! ### Gates (R86, Table 2.14) -/

/-- A gate: mode 1 WAIT or 2 TAKE, token, count. -/
abbrev Gate := Nat × Nat × Nat

def hdrGate (h : BitVec 128) : Gate := (fld h 82 81, fld h 80 71, fld h 70 55)
def wordGates (w : BitVec 128) : List Gate :=
  [(fld w 95 94, fld w 93 84, fld w 83 68), (fld w 67 66, fld w 65 56, fld w 55 40), (fld w 39 38, fld w 37 28, fld w 27 12)]

/-- May a triple stand: MODE none with all zero, else WAIT or TAKE with a count from 1? -/
def gateOk (g : Gate) : Bool := if g.1 = 0 then g.2.1 == 0 && g.2.2 == 0 else g.1 != 3 && g.2.2 != 0

def ctrlKind (w : BitVec 128) : Nat := fld w 107 104

/-- The gates of a bundle. -/
def bundleGates (b : Bundle) : List Gate :=
  (hdrGate b.hdr :: (b.words.filter fun w => swClass w == 7 && ctrlKind w == 0).flatMap wordGates).filter fun g => g.1 != 0

/-- Is a gate met: the token covers the counts of every gate on it (R86)? -/
def gateMet (x : Ctx) (gs : List Gate) (g : Gate) : Bool :=
  decide (((gs.filter fun h => h.2.1 == g.2.1).map fun h => h.2.2).sum ≤ tokenVal x g.2.1)

def gatesMet (x : Ctx) (gs : List Gate) : Bool := gs.all (gateMet x gs)

/-- TAKE subtractions. -/
def takeGates (x : Ctx) (gs : List Gate) : Ctx :=
  (gs.filter fun g => g.1 == 2).foldl (fun x g =>
    { x with tokens := tput x.tokens g.2.1 (tget 0 x.tokens g.2.1 - BitVec.ofNat 16 g.2.2) }) x

/-! ### CTRL words (R83, R84) -/

/-- Is a CTRL slot word valid (Table 2.14)? -/
def ctrlOk (w : BitVec 128) : Bool :=
  fld w 123 108 == 0 && fld w 103 96 == 0 &&
  match ctrlKind w with
  | 0 => fld w 11 0 == 0 && (wordGates w).all gateOk
  | 1 => fld w 69 0 == 0 && fld w 85 70 != 0
  | 2 => fld w 69 0 == 0
  | 3 => fld w 71 0 == 0 && fld w 87 72 != 0
  | 4 => fld w 55 0 == 0 && decide (fld w 71 56 ≤ fld w 87 72)
  | 5 => fld w 57 0 == 0
  | _ => false

/-- The effect of a CTRL word at cycle 0; the status of an overflow, whose stop follows at the next boundary. -/
def ctrlApply (x : Ctx) (w : BitVec 128) : Ctx × Option Status :=
  match ctrlKind w with
  | 1 =>
    let k := fld w 95 86
    let v := tokenVal x k + fld w 85 70
    if v > 65535 then (x, some stTokenOver) else ({ x with tokens := tput x.tokens k (BitVec.ofNat 16 v) }, none)
  | 2 => ({ x with tokens := tput x.tokens (fld w 95 86) (BitVec.ofNat 16 (fld w 85 70)) }, none)
  | 3 =>
    let p := fld w 95 88
    let v := (tget 0 x.value p).toNat + fld w 87 72
    if v > (tget 0 x.cap p).toNat then (x, some stCreditOver)
    else ({ x with value := tput x.value p (BitVec.ofNat 16 v) }, none)
  | 4 =>
    let p := fld w 95 88
    ({ x with cap := (tput x.cap p (BitVec.ofNat 16 (fld w 87 72)))
              value := (tput x.value p (BitVec.ofNat 16 (fld w 71 56))) }, none)
  | 5 => ({ x with cnt := tput x.cnt (fld w 95 90) (BitVec.ofNat 32 (fld w 89 58)) }, none)
  | _ => (x, none)

/-- CTRL words in slot order, with the statuses of overflows. -/
def ctrlAll (x : Ctx) (ws : List (BitVec 128)) : Ctx × List Status :=
  ws.foldl (fun r w => let u := ctrlApply r.1 w; (u.1, r.2 ++ u.2.toList)) (x, [])

/-- The CTRL words of a bundle. -/
def ctrlWords (b : Bundle) : List (BitVec 128) := b.words.filter fun w => swClass w == 7

/-! ### Targets (R56, R57, R71) -/

/-- Logical tiles a TILE word reaches; none for an invalid BCAST or TARGET (Table 2.6). -/
def reach (x : Ctx) (w : BitVec 128) : Option (List Nat) :=
  let n := nTiles x / 8
  let t := swTarget w
  let col (k : Nat) : List Nat := (List.range 8).map (8 * k + ·)
  match swBcast w with
  | 0 => if t < 8 * n then some [t] else none
  | 1 => if t < n then some (col t) else none
  | 2 => if t < 8 then some ((List.range n).map fun k => 8 * k + t) else none
  | 3 => if t = 0 then some (List.range (8 * n)) else none
  | 4 =>
    let a := t / 32
    let b := t % 32
    if t < 1024 ∧ a ≤ b ∧ b < n then some ((List.range (b + 1 - a)).flatMap fun k => col (a + k)) else none
  | _ => none

/-- The physical unit of a server slot word; none beyond the allotment. -/
def serverUnit (x : Ctx) (w : BitVec 128) : Option Nat :=
  let t := swTarget w
  match swClass w with
  | 2 => (bitsOf 48 x.res.movers.toNat)[t]?
  | 3 => (bitsOf 24 x.res.upd.toNat)[t]?
  | _ => if t < 2 then some t else none

/-- Is the class served by a server? -/
def isServer (w : BitVec 128) : Bool := decide (2 ≤ swClass w) && decide (swClass w ≤ 6)

/-- Queue depth per context (R71). -/
def queueDepth (cls : Nat) : Nat := if cls = 3 then 8 else if cls = 6 then 32 else 16

/-- Do the server words of a beat find space in their queues? -/
def queuesOk (x : Ctx) (ws : List (BitVec 128)) : Bool :=
  let us := ws.filterMap fun w => (serverUnit x w).map fun u => (swClass w, u)
  us.all fun u => decide ((unitQueue x u.1 u.2).length + (us.filter (· == u)).length ≤ queueDepth u.1)

/-! ### Validation (R54) -/

/-- The routine words of a TILE word on a logical tile. -/
def routine (x : Ctx) (w : BitVec 128) (lt : Nat) : List (BitVec 64) :=
  let e := libEntry x.lib.act lt (twRoutine w)
  if leValid e then (List.range (leLen e)).map fun i => libWord x.lib.act lt (leOffset e + i) else []

/-- The checks of a TILE word on one tile it reaches: its library entry, its tile-store address arguments, an unused
RECIPE field (Table 2.8, R126). -/
def tileOk (x : Ctx) (w : BitVec 128) (lt : Nat) : Bool :=
  let e := libEntry x.lib.act lt (twRoutine w)
  leValid e && ((List.range 4).all fun k => !leArgk e k || decide (twArg w k < tileSize))
    && (twRecipe w == 0 || !(twAccOp w == 0 || twAccOp w == 2)
        || (routine x w lt).any fun r => rwMxop r == 3 || rwVxop r == 9)

/-- A slot word's checks, tiles reached twice apart. -/
def wordOk (x : Ctx) (w : BitVec 128) : Bool :=
  match swClass w with
  | 1 =>
    match reach x w with
    | none => false
    | some ts => (twAccOp w == 1 || twBlk w == 0) && (twAccOp w != 1 || pairOk x w) && ts.all (tileOk x w)
  | 7 => ctrlOk w
  | c =>
    decide (2 ≤ c) && decide (c ≤ 6) && swBcast w == 0 && (swDoneEn w || swDoneTok w == 0) && !bit w 96
      && fld w 63 48 == 0 && swDescVa w % 64 == 0 && (serverUnit x w).isSome

/-- Tiles reached by more than one TILE word? -/
def tilesClash (x : Ctx) (b : Bundle) : Bool :=
  let ts := (b.words.filter fun w => swClass w == 1).flatMap fun w => (reach x w).getD []
  ts.eraseDups.length != ts.length

/-- The header's checks. -/
def hdrOk (h : BitVec 128) : Bool :=
  fld h 54 48 == 0 && fld h 31 0 == 0 && (bhPhaseSet h || bhPhase h == 0) && (bhTick h || !bhEnd h) && bhLoopOp h != 3
    && (bhLoopOp h == 1 || (bhLim h == 0 && bhCnt h == 0)) && (bhLoopOp h != 1 || bhTag h != 0) && gateOk (hdrGate h)

def bundleOk (x : Ctx) (b : Bundle) : Bool := hdrOk b.hdr && b.words.all (wordOk x) && !tilesClash x b

/-! ### Fetch and loop bodies (R50, R90) -/

/-- The status of a failed fetch of [va, va + n): the bundle is on an unmapped page, or on a page that reaches a hole or a board
peer (R50, R221, R233). -/
def fetchStatus (s : State) (x : Ctx) (va n : Nat) (st : Status) : Status :=
  if st = stMemUe then stMemUe
  else
    let bad (p : Nat × Nat) : Bool := match xlate s x x.ret.act p.1 with
      | some t => !isLocal s t.addr || !physOk (localPart t.addr) p.2
      | none => true
    match (parts va n).find? bad with
    | some p => if (xlate s x x.ret.act p.1).isSome then stTranslation else stFetch
    | none => stFetch

/-- What a buffer holds from an address on. -/
def bufFrom (b : Option (Nat × List Byte)) (pc : Nat) : List Byte :=
  match b with
  | none => []
  | some (a, bs) => if a ≤ pc then bs.drop (pc - a) else []

/-- The bundle at the front of some bytes, if it is whole. -/
def wholeBundle (bs : List Byte) : Option (List Byte) :=
  if bs.length < 16 then none
  else
    let n := bhBytes (recAt 128 bs 0)
    if n ≤ bs.length then some (bs.take n) else none

/-- The bundle's bytes at an address, if the loop buffer or the fetch buffer holds it. -/
def fromBuffer (x : Ctx) (pc : Nat) : Option (List Byte) :=
  match wholeBundle (bufFrom x.is.loopBuf pc) with
  | some bs => some bs
  | none => wholeBundle (bufFrom x.is.fetchBuf pc)

/-- Fetches until the fetch buffer holds n bytes from `pc` on, and gives what it then holds from there. Whole lines are read, so
that the rest of the last one is prefetched (how far the unit prefetches is a DESIGN CHOICE, log 57). -/
def fetchTo (s : State) (c : CtxId) (pc n : Nat) : State × Except Status (List Byte) :=
  let x := getCtx s c
  let old := bufFrom x.is.fetchBuf pc
  if n ≤ old.length then (s, .ok old)
  else
    let a := pc + old.length
    let k := (pc + n + 63) / 64 * 64 - a
    match virtRead s ⟨0, some c⟩ x x.ret.act a k with
    | (s, .error st) => (s, .error (fetchStatus s x a k st))
    | (s, .ok bs) => (modCtx s c fun x => modIs x fun i => { i with fetchBuf := some (pc, old ++ bs) }, .ok (old ++ bs))

/-- Reads the bundle at an address, from a buffer or from memory. -/
def readBundle (s : State) (c : CtxId) (pc : Nat) : State × Except Status (List Byte) :=
  match fromBuffer (getCtx s c) pc with
  | some bs => (s, .ok bs)
  | none =>
    match fetchTo s c pc 16 with
    | (s, .error st) => (s, .error st)
    | (s, .ok h) =>
      let n := bhBytes (recAt 128 h 0)
      match fetchTo s c pc n with
      | (s, .error st) => (s, .error st)
      | (s, .ok r) => (s, .ok (r.take n))

/-- Walks a body by its bundle headers: true when its bundles end exactly at its end, the last with LOOP_OP END, and none
is the program's end (R90). -/
def bodyOk : Nat → List Byte → Bool
  | 0, _ => false
  | n + 1, bs =>
    let h : BitVec 128 := recAt 128 bs 0
    let k := bhBytes h
    if bhEnd h ∨ bs.length < k then false
    else if bs.length = k then bhLoopOp h == 2
    else bodyOk n (bs.drop k)

/-- The checks and the load at the BEGIN of a loop that runs: the loop buffer to use, or a status. -/
def loopEnter (s : State) (c : CtxId) (pc len : Nat) : State × Except Status (Option (Nat × List Byte)) :=
  let x := getCtx s c
  match x.is.loops with
  | [] =>
    if len > 65536 then (s, .error stLoopStruct)
    else match virtRead s ⟨0, some c⟩ x x.ret.act pc len with
      | (s, .error st) => (s, .error (fetchStatus s x pc len st))
      | (s, .ok bs) => (s, if bodyOk 4097 bs then .ok (some (pc, bs)) else .error stLoopStruct)
  | l :: r =>
    if r.length ≥ 3 ∨ pc + len > l.stop then (s, .error stLoopStruct)
    else match x.is.loopBuf with
      | none => (s, .error stLoopStruct)
      | some (a, bs) => (s, if bodyOk 4097 ((bs.drop (pc - a)).take len) then .ok x.is.loopBuf else .error stLoopStruct)

end Sys2Proof.Machine
end

