-- ==== Sys2Proof/Machine/Issue.lean ====
section
/-! DEFINITION. The issue unit: hold decisions, issued beats cycle by cycle, replay beats, the tick, and the rows of CTRL
words (chapter 2). -/

namespace Sys2Proof.Machine

/-! ### The cycles of a beat (R61, R65, R101, R532) -/

/-- A suppressed access of a beat: cycle in the leading die's numbering, logical tile, place of R101, status, detail. -/
abbrev BeatBad := Nat × Nat × TBad

def badLt (a b : BeatBad) : Bool :=
  decide (a.1 < b.1) || (a.1 == b.1 && (decide (a.2.1 < b.2.1) || (a.2.1 == b.2.1 && decide (a.2.2.1 < b.2.2.1))))

/-- The access that R101 records. -/
def recordedBad : List BeatBad → Option BeatBad
  | [] => none
  | b :: r => match recordedBad r with
    | none => some b
    | some c => if badLt c b then some c else some b

/-- A tile's run in one beat: its word without routine word and cycle, and the routine. -/
structure TileRun where
  w     : TW
  words : List (BitVec 64)
  deriving DecidableEq, Repr

/-- What the cycles of a beat leave. -/
structure BeatRun where
  s    : State
  bads : List BeatBad
  tw   : List TWrite
  deriving DecidableEq, Repr

/-- Cycles by which a tile's events follow the leading die's (R65). -/
def dieLag (x : Ctx) (t : Nat) : Nat := if twoDie x ∧ dieOf t = 1 then 24 else 0

/-- One tile's word of a cycle; its vector result waits for the end of the cycle. -/
def cycleTile (i cyc : Nat) (r : BeatRun × List (TW × Nat × List Byte)) (t : TileRun) :
    BeatRun × List (TW × Nat × List Byte) :=
  match t.words[i]? with
  | none => r
  | some rw =>
    let w := { t.w with rw := rw, cyc := cyc }
    let o := runWord w r.1.s
    let lag := dieLag (getCtx r.1.s w.c) w.t
    (⟨o.s, r.1.bads ++ o.bads.map (fun b => (cyc + lag, w.lt, b)), r.1.tw⟩, r.2 ++ o.writes.map fun p => (w, p.1, p.2))

/-- Cycle i of beat b: the tiles' words, then what lands, then the vector results (R532). -/
def runCycle (c : CtxId) (b : Nat) (ts : List TileRun) (r : BeatRun) (i : Nat) : BeatRun :=
  let cyc := 32 * b + i
  let (r, vs) := ts.foldl (cycleTile i cyc) (r, [])
  let (s, landed) := landUntil r.s c cyc
  let s := vs.foldl (fun s v => tileWrite s v.1.t v.2.1 v.2.2) s
  ⟨s, r.bads, r.tw ++ landed ++ vs.map fun v => (v.1.lt, i, v.2.1, v.2.2)⟩

/-- The 32 cycles of beat b. -/
def runCycles (s : State) (c : CtxId) (b : Nat) (ts : List TileRun) (bads : List BeatBad) : BeatRun :=
  (List.range 32).foldl (runCycle c b ts) ⟨s, bads, []⟩

/-- Block starts of a beat at its cycle 0. -/
def startBlocks (b : Nat) (ts : List TileRun) (s : State) : State × List BeatBad :=
  ts.foldl (fun r t =>
    if twAccOp t.w.sw ≠ 1 then r
    else
      let u := startBlock r.1 t.w
      (u.s, r.2 ++ u.bads.map fun a => (32 * b + dieLag (getCtx r.1 t.w.c) t.w.t, t.w.lt, a))) (s, [])

/-! ### Accounting and trace of a beat (R97, R99, R439) -/

def addTo (t : Tbl Nat) (k n : Nat) : Tbl Nat := tput t k (tget 0 t k + n)

/-- A run beat in the frame's counts. -/
def countRun (f : Frame) : Frame :=
  { f with beats := f.beats + 1, runCyc := addTo f.runCyc f.phase 32, issueIdx := f.issueIdx + 1 }

/-- A hold beat in the frame's counts; reef holds are not FRAME_BEATS. -/
def countHold (f : Frame) (order : Nat) : Frame :=
  { f with
    beats := if order = 1 then f.beats else f.beats + 1
    reefHolds := if order = 1 then f.reefHolds + 1 else f.reefHolds
    holdCyc := addTo f.holdCyc f.phase 32 }

/-- Place of a tile-store write in the order of CRC_TILE. -/
def twriteLe (a b : TWrite) : Bool :=
  decide (a.1 < b.1) || (a.1 == b.1 && (decide (a.2.1 < b.2.1) || (a.2.1 == b.2.1 && decide (a.2.2.1 ≤ b.2.2.1))))

def insTWrite (w : TWrite) : List TWrite → List TWrite
  | [] => [w]
  | a :: r => if twriteLe a w then a :: insTWrite w r else w :: a :: r

/-- The beat record (Table 11.19), when the frame is traced. -/
def traceBeat (s : State) (c : CtxId) (replay tick : Bool) (tag rep iter : Nat) (ws : List TWrite) : State :=
  let x := getCtx s c
  if !traced x x.fr.num.toNat then s
  else
    let sorted := ws.foldl (fun acc w => insTWrite w acc) []
    let crc := (crc32c (sorted.flatMap fun w => leBytes 4 (w.2.1 * 2 ^ 24 + w.2.2.1) ++ w.2.2.2)).toNat
    let n := (ws.map fun w => w.2.2.2.length).sum
    traceWrite s c (leBytes 64 (2 ^ 508 + b2n replay * 2 ^ 507 + b2n tick * 2 ^ 506 + x.fr.num.toNat * 2 ^ 456
      + x.fr.issueIdx % 2 ^ 32 * 2 ^ 424 + tag * 2 ^ 408 + rep * 2 ^ 392 + iter % 2 ^ 32 * 2 ^ 360 + crc * 2 ^ 328
      + n % 2 ^ 32 * 2 ^ 296 + x.is.holds % 2 ^ 32 * 2 ^ 264 + x.is.lastHold * 2 ^ 260 + x.is.holdTok * 2 ^ 250
      + x.is.holdVal * 2 ^ 234 + s.clk.mastNs % 2 ^ 48 * 2 ^ 186))

/-- After an issued beat: its record, its counts, the hold figures cleared. -/
def closeRun (s : State) (c : CtxId) (replay tick : Bool) (tag rep iter : Nat) (ws : List TWrite) : State :=
  let s := traceBeat s c replay tick tag rep iter ws
  modCtx s c fun x => { x with
    fr := countRun x.fr
    is := { x.is with holds := 0, lastHold := 0, holdTok := 0, holdVal := 0, holdRun := 0 } }

/-- Stops of a beat: the suppressed access that R101 records, at its end; overflows are due at the next boundary. -/
def stopBeat (s : State) (c : CtxId) (bads : List BeatBad) (later : List Status) : State :=
  let s := match recordedBad bads with
    | some b => stopCtxW s c b.2.2.2.1 b.2.2.2.2
    | none => s
  later.foldl (fun s st => dueStop s c st) s

/-- The boundary is past: beat and boundary counts rise (R399). -/
def passBoundary (s : State) (c : CtxId) : State :=
  modCtx s c fun x => modIs x fun i => { i with k := (i.k + 1) % 16, beatNo := i.beatNo + 1 }

/-! ### Hold beats (Table 2.15) -/

/-- A hold beat of the given order; writes in flight still land. -/
def holdBeat (s : State) (c : CtxId) (order : Nat) (tok : Option Gate) : State :=
  let b := (getCtx s c).is.beatNo
  let s := modCtx s c fun x => { x with
    fr := countHold x.fr order
    is := { x.is with
      holds := x.is.holds + 1
      lastHold := order
      holdRun := if order = 4 then x.is.holdRun + 1 else 0
      holdTok := match tok with | some g => g.2.1 | none => x.is.holdTok
      holdVal := match tok with | some g => tokenVal x g.2.1 | none => x.is.holdVal } }
  passBoundary (landUntil s c (32 * b + 31)).1 c

/-- Does the pattern of the reef level select this boundary (R399)? -/
def reefHolds (level k : Nat) : Bool := decide ((k + 1) * level / 16 > k * level / 16)

/-! ### Arrival slips (R410) -/

/-- Adds a slip of n gate-hold beats to an entry. -/
def slipAdd (e : BitVec 128) (r : Raise) (n frame : Nat) : BitVec 128 :=
  let cap (v : Nat) : Nat := min v 0xFFFFFFFF
  BitVec.ofNat 128 (fld e 127 101 * 2 ^ 101 + r.level.toNat * 2 ^ 97 + (if r.reef ∨ bit e 96 then 2 ^ 96 else 0)
    + cap (fld e 95 64 + 1) * 2 ^ 64 + cap (fld e 63 32 + n) * 2 ^ 32 + frame % 2 ^ 32)

/-- Charges a slip to the source of a raise. -/
def chargeSlip (x : Ctx) (r : Raise) (n : Nat) : Ctx :=
  let key := r.sta.toNat * 8 + r.ctx.val
  let f := x.fr.num.toNat
  if x.slips.any fun e => fld e 127 101 == key then
    { x with slips := x.slips.map fun e => if fld e 127 101 == key then slipAdd e r n f else e }
  else if x.slips.length < 32 then
    { x with slips := x.slips ++ [slipAdd (BitVec.ofNat 128 (key * 2 ^ 101)) r n f] }
  else { x with slipOther := if x.slipOther = 0xFFFFFFFF then x.slipOther else x.slipOther + 1 }

/-- A bundle issues after gate holds: the slip is charged to the latest inbound raise of its gate tokens since the run of
gate holds began (DEDUCED, log 27). -/
def slipCheck (x : Ctx) (gs : List Gate) : Ctx :=
  if x.is.holdRun = 0 then x
  else match x.raises.find? fun r => gs.any (fun g => g.2.1 == r.token) && decide (x.is.beatNo < r.order + x.is.holdRun) with
    | none => x
    | some r => chargeSlip x r x.is.holdRun

/-! ### Issuing a beat -/

/-- Iteration index of the innermost open loop. -/
def iterOf (x : Ctx) : Nat := match x.is.loops with | [] => 0 | l :: _ => l.iter

/-- Words of a bundle that act at a repeat index (R55). -/
def actWords (b : Bundle) (rep : Nat) : List (Nat × BitVec 128) :=
  ((List.range b.words.length).zip b.words).filter fun p => rep == 0 || swRep p.2

/-- The tile runs of TILE words: logical tile, slot word, IDX. -/
def tileRuns (x : Ctx) (c : CtxId) (replay : Bool) (cnt : Tbl (BitVec 32)) (tag : BitVec 16)
    (ws : List (Nat × BitVec 128 × Nat)) : List TileRun :=
  ws.filterMap fun p => (physTile x p.1).map fun t =>
    ⟨⟨c, t, p.1, p.2.1, 0, p.2.2, 0, replay, cnt, tag⟩, routine x p.2.1 p.1⟩

/-- The request of a server slot word, with the banks captured at issue (R69, R70, R164), of a link request the active plan's ORIGIN
records of its context as well (R331). -/
def requestOf (s : State) (c : CtxId) (x : Ctx) (tag : BitVec 16) (rep iter : Nat) (slot : Nat) (w : BitVec 128) : Option SrvReq :=
  (serverUnit x w).map fun u =>
    { id := 256 * x.is.issued + slot, cls := swClass w, unit := u, sw := w, epoch := x.epoch
      va := swDescVa w + 64 * ((if swRep w then rep else 0) + swIstride w * iter)
      phase := .queued, recipes := x.recipes.act, updp := x.updp.act, disp := x.disp.act, ret := x.ret.act
      frame := x.fr.num, issueIdx := x.fr.issueIdx, slot := slot, tag := tag, desc := 0, xfer := 0, sentAll := false, sentNs := 0
      written := [], tab := [], pending := [], wc := [], holds := [], counts := [], nonfin := 0, vdone := 0, ipos := 0, skip := 0, accs := [], origins := if swClass w = 6 then (circs (planA s)).filter (fun r => bit r 0 && crRole r == 1 && crCtx r == c.val) else []
      resv := [], todo := []
      coll := none }

/-- Is a replayable block open, from which issued beat on must the TILE words be kept? -/
def keepFrom (s : State) (x : Ctx) : Option Nat :=
  let cols := colsOf x
  let starts := s.tiles.flatMap fun p =>
    if cols.contains (16 * (p.1 / 128) + p.1 % 16) then
      ([p.2.set0, p.2.set1].filter fun a => a.started && a.blk != 0).map (·.start)
    else []
  starts.foldl (fun m a => match m with | none => some a | some b => some (min a b)) none

/-- The beat in the replay history, and beats no block needs any more left out. -/
def recordHist (s : State) (c : CtxId) (h : Hist) : State :=
  let x := getCtx s c
  match keepFrom s x with
  | none => if x.is.hist.isEmpty then s else setCtx s c (modIs x fun i => { i with hist := [] })
  | some k => setCtx s c (modIs x fun i => { i with
      hist := (i.hist ++ [h]).filter fun e => decide (k ≤ e.beat) && decide (h.beat < e.beat + 8192) })

/-- After the last beat of a bundle: the loop's next iteration or the bundle that follows; a tick becomes due. A bundle with
LOOP_OP END closes the iteration of the innermost open loop, also where it stands before the end of that loop's body (DESIGN
CHOICE: the manual gives such an END no check and no effect; log 57). -/
def afterBundle (i : Issue) (h : BitVec 128) : Issue :=
  let next := i.pc + bhBytes h
  let i := { i with rep := 0, cur := [], tickDue := bhTick h, endDue := bhEnd h }
  if bhLoopOp h = 2 then
    match i.loops with
    | [] => { i with pc := next }
    | l :: r =>
      if l.iter + 1 < l.count then { i with pc := l.start, loops := { l with iter := l.iter + 1 } :: r }
      else { i with pc := next, loops := r, loopBuf := if r.isEmpty then none else i.loopBuf }
  else { i with pc := next }

/-- One issued beat of the bundle at a repeat index. -/
def issueBeat (s : State) (c : CtxId) (b : Bundle) : State :=
  let x := getCtx s c
  let rep := x.is.rep
  let beat := x.is.beatNo
  let tag : BitVec 16 := BitVec.ofNat 16 (bhTag b.hdr)
  -- cycle 0: TAKE, CTRL words, what slot words capture
  let gs := bundleGates b
  let x := if rep = 0 then takeGates (slipCheck x gs) gs else x
  let (x, later) := if rep = 0 then ctrlAll x (ctrlWords b) else (x, [])
  let x := if rep = 0 then modIs x fun i => { i with cnt := x.cnt } else x
  let iter := iterOf x
  let act := actWords b rep
  let x := { x with queue := x.queue ++ (act.filter fun p => isServer p.2).filterMap fun p => requestOf s c x tag rep iter p.1 p.2 }
  let idx := match x.is.loops with | [] => rep | l :: _ => rep + (bhRepeat b.hdr + 1) * l.iter
  let words := (act.filter fun p => swClass p.2 == 1).flatMap fun p => ((reach x p.2).getD []).map fun t => (t, p.2, idx)
  let s := setCtx s c x
  let ts := tileRuns x c false x.is.cnt tag words
  let (s, bads) := startBlocks beat ts s
  let s := recordHist s c ⟨x.is.issued, tag, rep, iter, x.is.cnt, words⟩
  let r := runCycles s c beat ts bads
  let s := closeRun r.s c false false tag.toNat rep iter r.tw
  let s := modCtx s c fun x => modIs x fun i =>
    let i := { i with issued := i.issued + 1, rep := rep + 1 }
    if rep = bhRepeat b.hdr then afterBundle i b.hdr else i
  let s := stopBeat (passBoundary s c) c r.bads later
  if rep = 0 ∧ (ctrlWords b).any (fun w => ctrlKind w == 4) then capFail c (getCtx s c).queue.length s else s

/-! ### Replay beats (R91 to R94) -/

/-- Insertion of a report by start beat and logical tile (R92). -/
def insReplay (r : Replay) : List Replay → List Replay
  | [] => [r]
  | a :: l => if keyLe (a.start, a.tile, a.due) (r.start, r.tile, r.due) then a :: insReplay r l else r :: a :: l

/-- The pass in progress, or the next one: the first report in effect in the order of R92, with the others of its boundary and
start beat. -/
def nextPass (i : Issue) : Option (List Replay × Nat) :=
  match i.pass with
  | some p => some p
  | none =>
    match (i.replays.filter fun r => decide (r.due ≤ i.beatNo)).foldl (fun acc r => insReplay r acc) [] with
    | [] => none
    | r :: l => some (r :: l.filter (fun q => q.start == r.start && q.due == r.due), 0)

/-- One replay beat of a pass: the TILE words that reached the reporting tiles, of the reported sets. `REPLAY_OVER` counts modulo
2^32 (DESIGN CHOICE: the manual gives its end no rule; log 57). -/
def replayBeat (s : State) (c : CtxId) (rs : List Replay) (n : Nat) : State :=
  let x := getCtx s c
  let start := (rs.map (·.start)).headD 0
  let h := (x.is.hist.find? fun h => h.beat == start + n).getD ⟨0, 0, 0, 0, [], []⟩
  let mine := h.words.filter fun p =>
    rs.any fun r => r.tile == p.1 && r.aset == twAset p.2.1 && decide (n < r.len)
  let budget := fld x.prog.act.hdr 143 128
  let spent := decide (x.fr.replayUsed ≥ budget)
  let last := decide (n + 1 ≥ (rs.map (·.len)).foldl max 0)
  let x := { x with
    fr := { x.fr with
      replayUsed := x.fr.replayUsed + 1
      replayOver := if spent then x.fr.replayOver + 1 else x.fr.replayOver
      overBeats := if spent then x.fr.overBeats + 1 else x.fr.overBeats }
    is := { x.is with
      replays := x.is.replays.filter fun r => !rs.contains r
      pass := if last then none else some (rs, n + 1) } }
  let s := setCtx s c x
  let ts := tileRuns x c true h.cnt h.tag mine
  let (s, bads) := startBlocks x.is.beatNo ts s
  let r := runCycles s c x.is.beatNo ts bads
  let s := closeRun r.s c true false h.tag.toNat h.rep h.iter r.tw
  stopBeat (passBoundary s c) c r.bads []

/-! ### The tick (R95 to R100, R474) -/

/-- `PHASE_REC` of the frame that closes (Table 12.16). -/
def phaseRec (f : Frame) : List Byte :=
  leBytes 64 (f.num.toNat * 2 ^ 464 + min f.beats 0xFFFFFFFF * 2 ^ 432 + min f.replayUsed 0xFFFF * 2 ^ 416
    + min f.reefHolds 0xFFFFFFFF * 2 ^ 384)
  ++ (List.range 64).flatMap fun n =>
    leBytes 4 (min (tget 0 f.runCyc n) 0xFFFFFFFF) ++ leBytes 4 (min (tget 0 f.holdCyc n) 0xFFFFFFFF)

/-- The frame counts after the tick. -/
def nextFrame (f : Frame) (rec_ : List Byte) : Frame :=
  { f with
    num := if f.num = BitVec.allOnes 48 then f.num else f.num + 1
    beats := 0, replayUsed := 0, overBeats := 0, reefHolds := 0, issueIdx := 0, phase := 0, runCyc := [], holdCyc := []
    lastBeats := f.beats, lastRec := rec_ }

/-- Overrun events of a frame that closes (R94, R97). `FRAME_OVERRUNS` counts modulo 2^32 (DESIGN CHOICE, log 57). -/
def overrunEvents (s : State) (c : CtxId) : State :=
  let x := getCtx s c
  let f := x.fr
  let lim := frameLimit x
  let s := if f.beats > lim then
      raise (setCtx s c { x with fr := { f with overruns := f.overruns + 1 } })
        (ctxEvent c evFrameOverrun f.num.toNat lim 0 f.beats 0)
    else s
  if f.overBeats > 0 then
    raise s (ctxEvent c evReplayOverrun f.num.toNat (fld x.prog.act.hdr 143 128) 0 f.overBeats 0)
  else s

/-- Exports a phase record to its ring; false when a page of the ring is unmapped or not writable. -/
def exportPhase (s : State) (c : CtxId) (rec_ : List Byte) : State × Bool :=
  let x := getCtx s c
  let n := x.expN.toNat
  if n = 0 then (s, true)
  else if !rangeOk s x x.ret.act true false x.expVa.toNat (576 * n) then (s, false)
  else (virtWrite s x x.ret.act (x.expVa.toNat + 576 * (x.fr.num.toNat % n)) rec_, true)

/-- After the tick beat: issue continues at ENTRY16 or with the bundle that follows; a stop request leads to IDLE, unless a stop
is due at this boundary. A reset that waited for a boundary is entered from IDLE at once. -/
def afterTick (s : State) (c : CtxId) (toEntry : Bool) : State :=
  let x := getCtx s c
  let x := if toEntry ∨ x.is.fresh then restart x else x
  let x := modIs x fun i => { i with tickDue := false, endDue := false }
  let s := setCtx s c x
  if x.run = .running ∧ x.is.stopReq then
    if !x.is.stopDue.isEmpty then takeStops s c
    else
      let s := endIssue (setCtx s c { x with run := .idle, is := { x.is with stopReq := false } }) c
      match x.is.reset with
      | some info => enterReset s c info
      | none => s
  else s

/-- The tick beat (Table 2.16). -/
def tickBeat (s : State) (c : CtxId) : State :=
  let x := getCtx s c
  let r := runCycles s c x.is.beatNo [] []
  let s := closeRun r.s c false true x.is.lastTag.toNat 0 0 r.tw
  let s := overrunEvents s c
  let s := applySwaps s c (getCtx s c).pend.toNat
  let f := (getCtx s c).fr
  let rec_ := phaseRec f
  let (s, ok) := exportPhase s c rec_
  let s := modCtx s c fun x => { x with fr := nextFrame f rec_ }
  let s := if x.is.tickIrq then msixSignal s c 2 else s
  let s := passBoundary s c
  let full := f.num == BitVec.allOnes 48
  let s := if ok then s else stopCtx s c stTranslation
  let s := if full then stopCtx s c stFrameExh else s
  afterTick s c x.is.endDue

/-! ### The hold decision (R86 to R90) -/

/-- How the bundle at the issue position comes out. -/
inductive Prep where
  | hold (s : State) (order : Nat) (g : Option Gate)
  | stop (s : State) (st : Status)
  | issue (s : State) (b : Bundle)
  deriving DecidableEq, Repr

/-- Sets the phase of a bundle with PHASE_SET, and notes its TAG. -/
def enterBundle (x : Ctx) (h : BitVec 128) : Ctx :=
  { x with
    fr := if bhPhaseSet h then { x.fr with phase := bhPhase h } else x.fr
    is := { x.is with lastTag := BitVec.ofNat 16 (bhTag h) } }

/-- Is the bundle at the issue position the BEGIN of a loop already open, at a later iteration? -/
def againBegin (i : Issue) : Bool := match i.loops with | [] => false | l :: _ => l.start == i.pc

/-- The count register that a BEGIN reads, after the COUNT_SETs of its own bundle (R84, R89). -/
def beginCount (x : Ctx) (b : Bundle) : Nat :=
  let x := (ctrlAll x ((ctrlWords b).filter fun w => ctrlKind w == 5)).1
  countVal x (bhCnt b.hdr)

/-- Validates and gates the bundle at the issue position; skipped loop bodies are passed over, at most `fuel` of them at
one boundary (log 28). A BEGIN bundle whose body is skipped sets the phase and the TAG of later stops as one that issues (DESIGN
CHOICE: it has a hold decision but no first beat; log 57). -/
def prepare (c : CtxId) (fetched : Bool) : Nat → State → Prep
  | 0, s => .hold s 3 none
  | fuel + 1, s =>
    let x := getCtx s c
    let pc := x.is.pc
    if !fetched && (fromBuffer x pc).isNone then .hold s 3 none
    else match readBundle s c pc with
      | (s, .error st) => .stop s st
      | (s, .ok bs) =>
        let b := bundleOf bs
        let x := enterBundle (getCtx s c) b.hdr
        let s := setCtx s c x
        if !bundleOk x b then .stop s stBundle
        else if bhLoopOp b.hdr = 2 ∧ x.is.loops.isEmpty then .stop s stLoopStruct
        else
          let gs := bundleGates b
          let srv := (actWords b 0).map (·.2) |>.filter isServer
          match gs.find? fun g => !gateMet x gs g with
          | some g => .hold s 4 (some g)
          | none =>
            let ready (s : State) (x : Ctx) : Prep :=
              if queuesOk x srv then .issue (setCtx s c (modIs x fun i => { i with cur := bs })) b else .hold s 5 none
            if bhLoopOp b.hdr ≠ 1 ∨ againBegin x.is then ready s x
            else
              let n := beginCount x b
              let len := 16 * bhTag b.hdr
              if n = 0 then prepare c fetched fuel (setCtx s c (modIs x fun i => { i with pc := pc + len }))
              else if n > (x.prog.act.lmax.getD (bhLim b.hdr) 0).toNat then .stop s stLoopCount
              else match loopEnter s c pc len with
                | (s, .error st) => .stop s st
                | (s, .ok buf) =>
                  if !queuesOk x srv then .hold s 5 none
                  else ready s (modIs (getCtx s c) fun i =>
                    { i with loops := ⟨pc, pc + len, n, 0⟩ :: i.loops, loopBuf := buf })

/-- The phase of the bundle that waits, under a hold that outranks its own decision (R99). -/
def peekPhase (s : State) (c : CtxId) : State :=
  let x := getCtx s c
  if x.is.tickDue ∨ x.is.rep ≠ 0 then s
  else match (readBundle s c x.is.pc).2 with
    | .ok bs =>
      let h := (bundleOf bs).hdr
      if bhPhaseSet h then setCtx s c { x with fr := { x.fr with phase := bhPhase h } } else s
    | .error _ => s

/-- The bundle's turn: a later beat of the current bundle, or the bundle at the issue position. -/
def bundleTurn (s : State) (c : CtxId) (fetched : Bool) : State :=
  let x := getCtx s c
  if x.is.rep ≠ 0 then
    let b := bundleOf x.is.cur
    if queuesOk x ((actWords b x.is.rep).map (·.2) |>.filter isServer) then issueBeat s c b else holdBeat s c 5 none
  else match prepare c fetched 4096 s with
    | .hold s o g => holdBeat (if o = 3 then peekPhase s c else s) c o g
    | .stop s st => stopCtxW s c st (if st = stMemUe then ueWhy s else .plain)
    | .issue s b => issueBeat s c b

/-- What a beat boundary of a RUNNING context does: stops that are due act, a reset that waits for it is entered; else the first cause of
Table 2.15 makes the beat a hold beat, a due tick follows, and else the bundle issues. Reports that take effect at the boundary
come before a due tick (R95). In a two-die context a report of the last replay beat takes effect one boundary later (R91), so a
tick that is due at the boundary between comes first (DESIGN CHOICE between R91 and R95, log 57). -/
def runBoundary (c : CtxId) (fetched : Bool) (s : State) : State :=
  let x := getCtx s c
  if x.run != .running || s.pkg.computeReset then s
  else if !x.is.stopDue.isEmpty then takeStops s c
  else match x.is.reset with
    | some info => enterReset s c info
    | none =>
      if reefHolds s.reef.level x.is.k then holdBeat (peekPhase s c) c 1 none
      else match nextPass x.is with
        | some (rs, n) => replayBeat (peekPhase s c) c rs n
        | none => if x.is.tickDue then tickBeat s c else bundleTurn s c fetched

/-- BEAT_BOUNDARY: the boundary, and the context's section of the mirror (R473). -/
def boundary (c : CtxId) (fetched : Bool) (s : State) : State := sampleCtx (runBoundary c fetched s) c

def execBeatBoundary (c : CtxId) (fetched : Bool) (s : State) : Res_ := .next (boundary c fetched s)

/-! ### CTRL words alone (Table 2.14) -/

/-- A CTRL word of one kind in a beat of its own: an invalid word stops the context, an overflow stops it at the next boundary.
Another kind of word, or a context that is not RUNNING, leaves the state as it is. -/
def ctrlWord (kind : Nat) (c : CtxId) (w : BitVec 128) (s : State) : State :=
  let x := getCtx s c
  if x.run != .running || s.pkg.computeReset || swClass w != 7 || ctrlKind w != kind then s
  else if !ctrlOk w then stopCtx s c stBundle
  else
    let r := ctrlApply x w
    match r.2 with
    | some st => dueStop (setCtx s c r.1) c st
    | none => setCtx s c r.1

/-- A GATE word alone: when every gate is met its TAKE counts are subtracted; else the bundle would be held, and nothing
changes. -/
def gateWord (c : CtxId) (w : BitVec 128) (s : State) : State :=
  let x := getCtx s c
  if x.run != .running || s.pkg.computeReset || swClass w != 7 || ctrlKind w != 0 then s
  else if !ctrlOk w then stopCtx s c stBundle
  else
    let gs := (wordGates w).filter fun g => g.1 != 0
    if gatesMet x gs then setCtx s c (takeGates x gs) else s

def execGate (c : CtxId) (w : BitVec 128) (s : State) : Res_ := .next (gateWord c w s)
def execTokenAdd (c : CtxId) (w : BitVec 128) (s : State) : Res_ := .next (ctrlWord 1 c w s)
def execTokenSet (c : CtxId) (w : BitVec 128) (s : State) : Res_ := .next (ctrlWord 2 c w s)
def execCreditReturn (c : CtxId) (w : BitVec 128) (s : State) : Res_ := .next (ctrlWord 3 c w s)
def execCreditSet (c : CtxId) (w : BitVec 128) (s : State) : Res_ :=
  .next (let t := ctrlWord 4 c w s; capFail c (getCtx t c).queue.length t)
def execCountSet (c : CtxId) (w : BitVec 128) (s : State) : Res_ := .next (ctrlWord 5 c w s)

end Sys2Proof.Machine
end

