-- ==== Sys2Proof/Machine/Matrix.lean ====
section
/-! DEFINITION. The rows of the matrix unit, the transpose unit and the mesh: one routine word on one tile (R119 to R126,
R152 to R155, R63 to R67). -/

namespace Sys2Proof.Machine

def execMac (o : TileOp) (s : State) : Res_ := .next (soloWord .matrix o (rwMxop o.rw == 1) matrixMac s)
def execMacTransposed (o : TileOp) (s : State) : Res_ := .next (soloWord .matrix o (rwMxop o.rw == 2) matrixMacT s)
def execDrain (o : TileOp) (s : State) : Res_ := .next (soloWord .matrix o (rwMxop o.rw == 3) matrixDrain s)
def execClear (o : TileOp) (s : State) : Res_ := .next (soloWord .matrix o (rwMxop o.rw == 4) matrixClear s)
def execTxopLoad (o : TileOp) (s : State) : Res_ := .next (soloWord .transpose o (rwTxop o.rw == 1) transposeLoad s)
def execMeshSend (o : TileOp) (s : State) : Res_ := .next (soloWord .mesh o (rwMsop o.rw == 1) (meshOp 1) s)
def execMeshRowSend (o : TileOp) (s : State) : Res_ := .next (soloWord .mesh o (rwMsop o.rw == 2) (meshOp 2) s)
def execMeshColumnSend (o : TileOp) (s : State) : Res_ := .next (soloWord .mesh o (rwMsop o.rw == 3) (meshOp 3) s)

/-- The send in flight that lands first: by cycle, then by ascending logical source tile (R532). -/
def firstMesh : List MeshSend → Option MeshSend
  | [] => none
  | m :: r => match firstMesh r with
    | none => some m
    | some n => if keyLe (Land.key (.mesh m)) (Land.key (.mesh n)) then some m else some n

/-- The next mesh send in flight of a context lands (R66); with none in flight nothing happens. -/
def meshLand (c : CtxId) (s : State) : State :=
  match firstMesh (getCtx s c).is.mesh with
  | none => s
  | some m =>
    let s := modCtx s c fun x => modIs x fun i => { i with mesh := i.mesh.erase m }
    (landOne c (s, []) (.mesh m)).1

def execMeshArrival (c : CtxId) (s : State) : Res_ := .next (meshLand c s)

end Sys2Proof.Machine
end

