-- ==== Sys2Proof/Machine/Peer.lean ====
section
/-! DEFINITION. Requests of board peers served by this package, and the answers to its own (R260 to R264, R321, R337). -/

namespace Sys2Proof.Machine

/-- The Shroud port of a plane, as seen from this package; 7 for its own. -/
def planePort (s : State) (plane : CtxId) : Nat := (plane.val + 7 - s.pins.plane.val) % 8

/-- Does a grant cover a line for a request (R262, Table 6.13)? -/
def grantCovers (g : BitVec 64) (q : PeerQ) : Bool :=
  let p := q.addr.toNat / 0x200000
  bit g 0 && decide (fld g 63 45 ≤ p) && decide (p < fld g 63 45 + fld g 44 26) && bit g (18 + q.plane.val)
    && bit g (10 + q.ctx.val) && (bit g 1 || !q.write)

/-- The context whose grant covers a request: from its reset on its grants count for nothing (R263). -/
def grantOwner (s : State) (q : PeerQ) : Option CtxId :=
  ((s.mem.bwin.filter fun g => grantCovers g.2 q).map fun g => Fin.ofNat 8 (fld g.2 9 7)).find? fun c => (getCtx s c).run != .resetting

/-- The runs of set bits of a byte mask: offset and length. -/
def maskRuns (m : BitVec 64) : List (Nat × Nat) :=
  (List.range 64).foldr (fun i acc =>
    if !bit m i then acc
    else match acc with
      | (o, n) :: r => if o = i + 1 then (i, n + 1) :: r else (i, 1) :: (o, n) :: r
      | [] => [(i, 1)]) []

/-- A read served, as a request of the grant's owner (R264): the bytes under the mask, in order, or an error. -/
def serveRead (s : State) (owner : CtxId) (q : PeerQ) : State × Option (List Byte) :=
  (maskRuns q.mask).foldl (fun r g => match r with
    | (s, none) => (s, none)
    | (s, some acc) => match memRead s ⟨9, some owner⟩ (q.addr.toNat / 64 * 64 + g.1) g.2 with
      | (s, .error _) => (s, none)
      | (s, .ok bs) => (s, some (acc ++ bs))) (s, some [])

/-- A write served: the bytes under the mask; `data` lies at its place in the line. -/
def serveWrite (s : State) (q : PeerQ) : State :=
  (maskRuns q.mask).foldl (fun s g => memWrite s (q.addr.toNat / 64 * 64 + g.1)
    ((List.range g.2).map fun i => q.data.getD (g.1 + i) 0)) s

/-- PEER_REQ: a mismatched key is discarded; with a covering grant the line is read or written and answered (kind 0), an
uncorrectable read answers with an error (kind 2); anything else is refused (kind 1), also a write to HBM without a full
mask. The answer joins the RSP queue of the peer's port. -/
def peerReq (s : State) (q : PeerQ) : State :=
  let port := planePort s q.plane
  if port ≥ 7 ∨ !heard s port ∨ (getPort s port).st ≠ .up ∨ s.pkg.fenced then s
  else match keyCheck s port .req q.key.toNat with
    | (s, false) => s
    | (s, true) =>
      let answer (s : State) (kind : Nat) (bs : List Byte) : State := emitTo s port .rsp 0 q.ctx 1 bs (.peerRsp q.epoch kind bs)
      let a := q.addr.toNat / 64 * 64
      match grantOwner s q with
      | none => answer s 1 []
      | some owner =>
        if s.pkg.computeReset || !physOk a 64 then answer s 1 []
        else if q.write then
          if isHbm a && q.mask != BitVec.allOnes 64 then answer s 1 [] else answer (serveWrite s q) 0 []
        else match serveRead s owner q with
          | (s, none) => answer s 2 []
          | (s, some bs) => answer s 0 bs

/-- One part of a read that has come: into the index array, or to the destination. `line` holds the bytes at their places. -/
def landPart (c : CtxId) (line : PartLine) (r : State × SrvReq × Option Status) (p : Nat × Nat × Nat × Nat) :
    State × SrvReq × Option Status :=
  match r with
  | (s, q, some st) => (s, q, some st)
  | (s, q, none) =>
    let bs := ((line.drop p.1).take p.2.1).map fun b => b.getD 0
    if p.2.2.1 = 2 then (s, layIdx q p.2.2.2 bs, none) else dstWrite s c q p.2.2.1 p.2.2.2 bs

/-- The bytes of an answer at their places in the line. -/
def spreadBytes (o : PeerOp) (data : List Byte) : PartLine :=
  (opPlaces o).zip data |>.foldl (fun l p => lput l p.1 (some p.2)) noBytes

/-- PEER_RSP: the answer to the oldest REQ of the mover's request in service. Kind 0 lands in its reservation, 1 is a refusal, 2 an
error. An answer of an older teardown epoch is discarded (R235), as is one whose key is not this package's (R340). -/
def peerRsp (c : CtxId) (m : Fin 48) (key : BitVec 12) (epoch : BitVec 16) (kind : Nat) (data : List Byte) (s : State) : State :=
  if !srvRuns s c || epoch != (getCtx s c).epoch || partKey s == 0 || key.toNat != partKey s then s
  else match headIn s c 2 m.val .serving with
    | none => s
    | some q => match q.resv with
      | [] => s
      | o :: rest =>
        if kind = 1 then failHead s c q stRemote
        else if kind ≠ 0 then failHeadW s c q stMemUe { Why.plain with remote := true }
        else
          let q := { q with resv := rest }
          if o.write then settle s c q
          else if data.length ≠ (opPlaces o).length then s
          else match o.parts.foldl (landPart c (spreadBytes o data)) (s, q, none) with
            | (s, q, some st) => failHead s c q st
            | (s, q, none) => settle s c q

def execPeerReq (q : PeerQ) (s : State) : Res_ := .next (peerReq s q)
def execPeerRsp (c : CtxId) (m : Fin 48) (h : RspHead) (data : List Byte) (s : State) : Res_ := .next (peerRsp c m h.key h.epoch h.kind data s)

end Sys2Proof.Machine
end

