-- ==== Sys2Proof/Machine/Power.lean ====
section
/-! DEFINITION. The Reef controller: policy, caps, the interval boundary, calibration, clock steps, droop, margin trim and
thermal limits (chapter 10), with the SMBus writes that act on it (14.5). -/

namespace Sys2Proof.Machine

/-! ### Policy (R392 to R395) -/

def reefPolChecks (p : BitVec 128) : List Chk :=
  let cap := rpCap p
  let capOk := decide (500 ≤ cap) && decide (cap ≤ 1400)
  [(0, fld p 64 0 != 0, stReserved),
   (74, rpFlagLvl p == 0, stPolicy),
   (78, rpLinkMin p == 0 || decide (16 < rpLinkMin p), stPolicy),
   (83, rpMemMin p == 0 || decide (16 < rpMemMin p), stPolicy),
   (88, decide (4 < rpDvfsMin p) || (decide (rpDvfsMax p ≤ 4) && decide (rpDvfsMin p < rpDvfsMax p)), stPolicy),
   (91, decide (4 < rpDvfsMax p), stPolicy),
   (98, !([0, 1, 2].all fun k => (rpOrder p).contains k), stPolicy),
   (104, decide (2000 < rpFast p) || (capOk && decide (rpFast p < cap)), stPolicy),
   (116, !capOk, stPolicy)]

/-- REEF_WRITE: the shadow record. -/
def reefWrite (s : State) (v : BitVec 128) : State × Ans :=
  if s.reef.polPend then (s, .fail stSwapPending noField)
  else (modReef s fun r => { r with pol := { r.pol with sha := v } }, .ok)

/-- REEF_SWAP: the shadow is checked and its swap waits for the next interval boundary. -/
def reefSwap (s : State) : State × Ans :=
  if s.reef.polPend then (s, .fail stSwapPending noField)
  else match recBad 0 (reefPolChecks s.reef.pol.sha) with
    | some b => (s, b.ans)
    | none => (modReef s fun r => { r with polPend := true }, .ok)

def bodyReefWrite : Body := fun s _ _ p => let (s, a) := reefWrite s (recAt 128 p 0); (s, .now a)
def bodyReefSwap : Body := fun s _ _ _ => let (s, a) := reefSwap s; (s, .now a)

/-- A partition floor (R412), replacing an earlier one. -/
def setPartFloor (s : State) (level ms : Nat) : State :=
  modReef s fun r => { r with partFloor := some (level, s.clk.mastNs + 1000000 * ms) }

def bodyReefFloor : Body := fun s _ _ p =>
  let level := pf p 0 1
  let ms := pf p 2 2
  checked s [bad 0 (decide (15 < level)), rsv p 1 2, bad 2 (ms == 0 || decide (60000 < ms)), rsv p 4 8]
    (setPartFloor s level ms, .now .ok)

/-- A pending policy takes effect: level, step and caps are kept as near as the new record allows (R395). -/
def applyPolicy (s : State) : State :=
  if !s.reef.polPend then s
  else
    let old := s.reef.pol.act
    let new := s.reef.pol.sha
    let step (r : Nat) : Nat := min (max (rungStep old r) (rpDvfsMax new)) (rpDvfsMin new)
    let s := modReef s fun r => { r with
      pol := ⟨new, old⟩
      polPend := false
      rungC := rungAt new (rungLevel old r.rungC) (step r.rungC)
      thermRung := rungAt new (rungLevel old r.thermRung) (step r.thermRung)
      rungM := min r.rungM (16 - rpMemMin new)
      rungL := min r.rungL (16 - rpLinkMin new) }
    raise s (pkgEvent evReefApplied 0 0 0 0)

/-! ### Estimate and effective cap (R388, R389, R393) -/

/-- Ten times the effective cap in W: the smaller of the policy's cap and an enabled BMC_CAP, 0.9 of it while calibration is
stale. -/
def capTenths (s : State) : Nat :=
  let c := rpCap s.reef.pol.act
  let c := if bit s.reef.bmcForce 0 then min c (fld s.reef.bmcForce 31 20) else c
  if s.reef.calStale then 9 * c else 10 * c

/-- The estimate of an interval: k times the weighted sum, exact. -/
def estimate (s : State) (p1 : Nat) : XVal := XVal.mul (fpv s.reef.k) (.num false p1 0)

/-- Does an estimate exceed a figure given in tenths of a W? -/
def above (p : XVal) (tenths : Nat) : Bool := XVal.lt (.num false tenths 0) (XVal.mul p (.num false 10 0))
/-- Is an estimate below a figure given in tenths of a W? -/
def below (p : XVal) (tenths : Int) : Bool := XVal.lt (XVal.mul p (.num false 10 0)) (ofInt false tenths 0)

/-- Whole units of 1/scale W of an estimate, rounded down. -/
def estFloor (scale : Nat) : XVal → Nat
  | .num false m e => if e ≥ 0 then (m * scale) <<< e.toNat else (m * scale) >>> (-e).toNat
  | _ => 0

/-! ### Thermal limits (Table 10.7, R407, R408) -/

/-- 1 ms in interval boundaries: the 489th is the first that is at least 1 ms later. -/
def msIntervals : Nat := 489

/-- A thermal trip of a C-die (kind 6) or a stack (kind 4). -/
def thermalTrip (s : State) (kind subj temp limit : Nat) : State :=
  if !s.pins.thermtripN then s
  else
    let s := modPkg (modPins s fun p => { p with thermtripN := false }) fun p => { p with tripped := true }
    let s := raise s (pkgEvent evThermalTrip kind subj temp limit)
    let s := tallyAdd s 12 (7 * dayNs) 0 subj false
    if s.pkg.crBusy || heldInReset s then s else computeReset s 5 none

/-- The hottest sensor of the C-dies moves the thermal rung. -/
def thermC (s : State) (t d : Nat) : State :=
  let r := s.reef
  if t ≥ 105 then
    let s := modReef s fun r => { r with thermRung := min (r.thermRung + 1) (topRung r.pol.act), thermCool := 0, cHot := true }
    if r.cHot then s else raise s (pkgEvent evThermalReef 6 d t 105)
  else if t ≤ 103 then
    let due := decide (msIntervals ≤ r.thermCool + 1)
    modReef s fun r => { r with thermRung := if due then r.thermRung - 1 else r.thermRung, thermCool := if due then 0 else r.thermCool + 1, cHot := false }
  else modReef s fun r => { r with thermCool := 0, cHot := false }

/-- One stack's thermal cap. -/
def thermM (s : State) (n t : Nat) : State :=
  let r := s.reef
  let cap := tget 16 r.stackCap n
  let set (cap cool : Nat) (hot : Bool) : State :=
    modReef s fun r => { r with stackCap := tput r.stackCap n cap, stackCool := tput r.stackCool n cool, mHot := tput r.mHot n hot }
  if t ≥ 95 then
    let s := set (max 2 (cap - 1)) 0 true
    if tget false r.mHot n then s else raise s (pkgEvent evHbmThermal 4 n t 95)
  else if t ≤ 93 then
    let c := tget 0 r.stackCool n + 1
    if msIntervals ≤ c then set (min 16 (cap + 1)) 0 false else set cap c false
  else set cap 0 false

/-- Ports of a Hertan die. -/
def diePorts (d : Nat) : List Nat := if d = 0 then List.range 7 else (List.range 8).map (7 + ·)
/-- Lanes of a Hertan die. -/
def dieLanes (d : Nat) : List Nat := if d = 0 then List.range 16 else (List.range 8).map (16 + ·)

/-- A Hertan die at 115 °C is darkened; below 100 °C it is calibrated again. -/
def thermH (s : State) (d t : Nat) : State :=
  let s := modReef s fun r => { r with hTemp := tput r.hTemp d t }
  if t ≥ 115 then
    if tget false s.reef.hHot d then s
    else
      let s := modReef s fun r => { r with hHot := tput r.hHot d true }
      let s := raise s (pkgEvent evThermalTrip 0 0 t 115)
      let s := tallyAdd s 12 (7 * dayNs) 0 (100 + d) false
      (diePorts d).foldl (fun s p => portDown s p (if p < 7 then 50 else 10)) s
  else if t < 100 ∧ tget false s.reef.hHot d then
    let s := modReef s fun r => { r with hHot := tput r.hHot d false }
    calibrate s ((dieLanes d).filter fun n => spEn (laneSp s n)) []
  else s

/-- Index and value of the largest element. -/
def hottest (ts : List Nat) : Nat × Nat :=
  ((List.range ts.length).map fun i => (i, ts.getD i 0)).foldl (fun m x => if x.2 > m.2 then x else m) (0, 0)

/-- Every thermal action of one interval. -/
def thermal (s : State) (e : IntervalEnv) : State :=
  let (d, t) := hottest (e.cdie.take 2)
  let s := thermC s t d
  let s := (List.range (min 12 e.hbm.length)).foldl (fun s n => thermM s n (e.hbm.getD n 0)) s
  let s := (List.range (min 2 e.hertan.length)).foldl (fun s d => thermH s d (e.hertan.getD d 0)) s
  let (n, u) := hottest (e.hbm.take 12)
  let s := if t ≥ 115 then thermalTrip s 6 d t 115 else s
  if u ≥ 105 then thermalTrip s 4 n u 105 else s

/-- A stack's served cap in sixteenths: the smaller of its power cap and its thermal cap (R407). -/
def servedCap (s : State) (n : Nat) : Nat := min (16 - s.reef.rungM) (tget 16 s.reef.stackCap n)

/-- Lines that its controller serves at most in one interval (R386). Only time shows it (log 19). -/
def capLines (s : State) (n : Nat) : Nat := servedCap s n * 39322 / 16

/-! ### Arbitration (R396) -/

/-- Does a class stand on the last rung of its ladder: 0 links, 1 memory, 2 compute? -/
def atFloor (s : State) (k : Nat) : Bool :=
  let p := s.reef.pol.act
  if k = 0 then decide (16 - rpLinkMin p ≤ s.reef.rungL)
  else if k = 1 then decide (16 - rpMemMin p ≤ s.reef.rungM)
  else decide (topRung p ≤ rungC s)

/-- One rung above the rung in force. -/
def raiseRung (s : State) (k : Nat) : State :=
  let c := rungC s
  modReef s fun r =>
    if k = 0 then { r with rungL := r.rungL + 1 } else if k = 1 then { r with rungM := r.rungM + 1 } else { r with rungC := c + 1 }

/-- Is a class's power rung above its floor rung? -/
def aboveFloor (s : State) (k : Nat) : Bool :=
  if k = 0 then decide (0 < s.reef.rungL) else if k = 1 then decide (0 < s.reef.rungM) else decide (floorC s < s.reef.rungC)

def lowerRung (s : State) (k : Nat) : State :=
  modReef s fun r =>
    if k = 0 then { r with rungL := r.rungL - 1 } else if k = 1 then { r with rungM := r.rungM - 1 } else { r with rungC := r.rungC - 1 }

/-- An event raised at most once per second (R530). -/
def oncePerSecond (s : State) (code v0 v1 : Nat) : State :=
  if onceIn s code 0 1000000000 then raise (noteOnce s code 0 1000000000) (pkgEvent code 0 0 v0 v1) else s

/-- Up to n raises, last-served class first. -/
def raises (est : Nat) : Nat → State → State
  | 0, s => s
  | n + 1, s =>
    match (rpOrder s.reef.pol.act).reverse.find? fun k => !atFloor s k with
    | none => oncePerSecond s evCapUnmet est (capTenths s / 10)
    | some k => raises est n (raiseRung s k)

/-- The decision of one boundary, with P1 the estimate of the interval just ended. -/
def arbitrate (s : State) (brake : Bool) (p1 : XVal) : State :=
  let p := s.reef.pol.act
  let est := estFloor 1 p1
  if brake then
    modReef s fun r => { r with rungC := topRung p, rungM := 16 - rpMemMin p, belowRun := 0 }
  else if above p1 (10 * rpFast p) then
    let s := modReef s fun r => { r with belowRun := 0, fastNs := some s.clk.mastNs }
    raises est 4 (oncePerSecond s evFastLimit est (rpFast p))
  else if above p1 (capTenths s) then raises est 1 (modReef s fun r => { r with belowRun := 0 })
  else if below p1 ((capTenths s : Int) - 10 * rpHyst p) then
    if s.reef.belowRun + 1 < 16 then modReef s fun r => { r with belowRun := r.belowRun + 1 }
    else
      let s := modReef s fun r => { r with belowRun := 0 }
      match (rpOrder p).find? (aboveFloor s) with
      | some k => lowerRung s k
      | none => s
  else modReef s fun r => { r with belowRun := 0 }

/-! ### Status (R413) -/

/-- PWR_STAT (Table 10.9). The mean of EST_W is rounded down. -/
def pwrStat (s : State) (tj hbm : Nat) : BitVec 64 :=
  let r := s.reef
  let n := r.estHist.length
  let est := if n = 0 then 0 else min 0xFFF (r.estHist.sum / (1000 * n))
  let fast := match r.fastNs with | some t => decide (s.clk.mastNs < t + 1000000) | none => false
  let therm := (List.range 12).any fun i => decide (tget 16 r.stackCap i < 16)
  BitVec.ofNat 64 (est * 2 ^ 52 + (capTenths s / 10) * 2 ^ 40 + r.level * 2 ^ 36 + r.dvfsStep * 2 ^ 33 + (16 - r.rungM) * 2 ^ 28
    + (16 - r.rungL) * 2 ^ 23 + b2n (decide (0 < r.thermRung)) * 2 ^ 22 + b2n therm * 2 ^ 21 + b2n fast * 2 ^ 20
    + b2n (!s.pins.brakeN) * 2 ^ 19 + b2n (decide (0 < nbrFloor s)) * 2 ^ 18
    + b2n (match r.partFloor with | some (_, t) => decide (s.clk.mastNs < t) | none => false) * 2 ^ 17
    + b2n r.calStale * 2 ^ 16 + (tj % 256) * 2 ^ 8 + hbm % 256)

/-! ### The interval boundary -/

/-- INTERVAL_BOUNDARY; the package's sections of the mirror follow it (log 36). A brake pulse that ended before the boundary still acts at it (R394). -/
def intervalBoundary (s : State) (e : IntervalEnv) : State :=
  if !s.pins.perstN then s
  else
    let s := applyPolicy s
    let s := modReef s fun r => { r with bmcForce := r.bmcCap }
    let s := thermal s e
    let p1 := estimate s e.p1
    let s := modReef s fun r => { r with estHist := (estFloor 1000 p1 :: r.estHist).take 488 }
    let c := rungC s
    let s := if s.reef.droopUp then
        modReef s fun r => { r with rungC := min (c + 2) (topRung r.pol.act), droopUp := false }
      else s
    let s := arbitrate s (s.pkg.brakeLatch || !s.pins.brakeN) p1
    let s := modPkg s fun p => { p with brakeLatch := false }
    let c := rungC s
    let s := modReef s fun r => { r with level := rungLevel r.pol.act c, dvfsWant := rungStep r.pol.act c }
    samplePkg (modReef s fun r => { r with stat := pwrStat s (hottest (e.cdie.take 2)).2 (hottest (e.hbm.take 12)).2 })

/-! ### Calibration (R389) -/

/-- CALIBRATION: the ratio of measured to estimated energy, in thousandths. -/
def calibrateK (s : State) (milli : Nat) : State :=
  if !s.pins.perstN then s
  else
    let s := modReef s fun r => { r with calStale := false }
    if 900 ≤ milli ∧ milli ≤ 1100 then
      modReef s fun r => { r with k := fdiv (fpr (.num false milli 0)) (fpr (.num false 1000 0)), calOut := false }
    else if s.reef.calOut then s
    else raise (modReef s fun r => { r with calOut := true }) (pkgEvent evCalFault 0 0 milli (if milli < 900 then 900 else 1100))

/-- CAL_STALE: no reading for 1 s. -/
def calStale (s : State) : State :=
  if !s.pins.perstN || s.reef.calStale then s
  else raise (modReef s fun r => { r with calStale := true, stat := setFld r.stat 16 16 1 }) (pkgEvent evCalStale 0 0 1 1)

/-! ### Clock steps, droop, margin trim (R400 to R406) -/

/-- DVFS_STEP_CHANGE: the clock goes to the usable step for the one that the ladder asks. -/
def dvfsChange (s : State) (target : Nat) : State :=
  if !s.pins.perstN || s.pkg.computeReset then s
  else if (usableStep s s.reef.dvfsWant).1 = target then
    let s := setStep s s.reef.dvfsWant
    modReef s fun r => { r with stat := setFld r.stat 35 33 r.dvfsStep }
  else s

/-- DROOP: threshold j (1 to 4) is crossed on a die; the stretch follows the highest threshold crossed. -/
def droop (s : State) (d j : Nat) : State :=
  if j = 0 ∨ s.pkg.computeReset then s
  else modReef s fun r => { r with
    stretch := max r.stretch j
    stretchDie := tput r.stretchDie d (max (tget 0 r.stretchDie d) j)
    droops := tput r.droops d (tget 0 r.droops d + 1) }

/-- DROOP_STRETCH_FALL: one sixteenth less. Each die has counted the stretched cycles up to here: the 16 of this fall at least, and
a number before them that nothing in the model fixes (log 1). -/
def stretchFall (s : State) : State :=
  if s.reef.stretch = 0 then s
  else
    let (more, s) := drawNat s
    modReef s fun r => { r with
      stretch := r.stretch - 1
      stretchDie := r.stretchDie.map fun p => (p.1, min p.2 (r.stretch - 1))
      stretched := [(0, tget 0 r.stretched 0 + 16 + more), (1, tget 0 r.stretched 1 + 16 + more)] }

/-- DROOP_SUSTAINED: 3 sixteenths or more for 4,096 cycles. -/
def droopSustained (s : State) : State :=
  if s.reef.stretch < 3 then s
  else oncePerSecond (modReef s fun r => { r with droopUp := true }) evDroopSust 4096 4096

/-- A margin-table entry moved by a number of 2.5 mV steps: above 0.85 V it becomes unusable. -/
def moveEntry (v : Nat) (by_ : Int) : Nat :=
  if v = 0xFF then v
  else
    let w := (v : Int) + by_
    if w > 100 then 0xFF else w.toNat

/-- A margin table with every usable entry moved and the change recorded in AGE_STEPS. -/
def moveTable (t : BitVec 64) (by_ : Int) : BitVec 64 :=
  let age := signed 8 (fld t 63 56) + by_
  let age := if age > 127 then 127 else if age < -128 then -128 else age
  (List.range 5).foldl (fun t k => setFld t (8 * k + 7) (8 * k) (moveEntry (fld t (8 * k + 7) (8 * k)) by_))
    (setFld t 63 56 (age % 256).toNat)

/-- The daily trim of one die. -/
def trimDie (s : State) (d : Nat) (e : TrimEnv) : State :=
  let gap := if e.ring ≥ e.slack then e.ring - e.slack else e.slack - e.ring
  let s := if gap > 5 then raise s (pkgEvent evMarginSuspect 6 d gap 5) else s
  let by_ : Int := if e.slack < 5 then e.raise else if e.slack > 8 ∧ gap ≤ 5 then -1 else 0
  modReef s fun r => { r with vtab := tput r.vtab d (moveTable (tget vtabReset r.vtab d) by_) }

/-- MARGIN_TRIM: both dies, then the ageing reasons of Table 11.17. -/
def marginTrim (s : State) (es : List TrimEnv) : State :=
  if !s.pins.perstN then s
  else
    let s := (List.range (min 2 es.length)).foldl (fun s d => match es[d]? with | some e => trimDie s d e | none => s) s
    let s := modReef s fun r => { r with trimNs := s.clk.mastNs }
    let old (n : Int) : Bool := decide (n ≤ ageSteps s 0) || decide (n ≤ ageSteps s 1)
    let s := if old 8 then reasonOn s 5 else s
    if old 16 then reasonOn s 6 else s

/-! ### PWR_BRAKE_N (R394) -/

/-- A pulse is latched while the Reef controller runs; one before start-up acts only if it still lasts then (14.3). -/
def brakeAssert (s : State) : State :=
  modPkg (modPins s fun p => { p with brakeN := false }) fun p => { p with brakeLatch := p.brakeLatch || s.pins.perstN }
def brakeDeassert (s : State) : State := modPins s fun p => { p with brakeN := true }

/-! ### SMBus (R520, Tables 14.8 and 14.9) -/

/-- A block write of n bytes: not acknowledged without power or with another length; discarded when its PEC is wrong. -/
def smbWrite (s : State) (n : Nat) (data : List Byte) (pecOk : Bool) (f : State → State) : State :=
  if !s.pins.pwrgdMast ∨ data.length ≠ n then { s with cpl := some .nack }
  else if pecOk then { f s with cpl := some .ack } else s

/-- BMC_CAP: out of range leaves the register and sets ERR. -/
def smbBmcCap (s : State) (v : BitVec 32) : State :=
  let c := fld v 31 20
  if 500 ≤ c ∧ c ≤ 1400 then
    modReef s fun r => { r with bmcCap := BitVec.ofNat 32 (c * 2 ^ 20 + b2n (bit r.bmcCap 1 && !bit v 1) * 2 + b2n (bit v 0)) }
  else modHal (modReef s fun r => { r with bmcCap := setFld r.bmcCap 1 1 1 }) fun h => { h with alert := h.alert ||| 8 }

/-- A write that Halyard serves in turn with host commands; out of service it only sets SMB_STATUS. -/
def smbServed (s : State) (f : State → State × Ans) : State :=
  if !s.pkg.halyardUp || s.pkg.state == 3 then modHal s fun h => { h with smb := stOutOfService }
  else
    let (s, a) := f s
    modHal s fun h => { h with smb := a.st }

def smbAlertSrc (s : State) (v : BitVec 32) : State := modHal s fun h => { h with alert := h.alert &&& ~~~v }

/-- Alert Response Address: the target's 7-bit address while ALERT_N is asserted. -/
def smbAlertResponse (s : State) : State :=
  if s.pins.pwrgdMast && s.hal.alert != 0 then { s with cpl := some (.data [BitVec.ofNat 8 (0x58 + s.pins.plane.val)]) }
  else { s with cpl := some .nack }

/-! ### The meanings -/

def execReefWrite (r : Req) (s : State) : Res_ := .next (mailbox ⟨0x0505, 16, false, .any⟩ bodyReefWrite r s)
def execReefSwap (r : Req) (s : State) : Res_ := .next (mailbox ⟨0x0506, 0, false, .any⟩ bodyReefSwap r s)
def execReefFloor (r : Req) (s : State) : Res_ := .next (mailbox ⟨0x0508, 8, false, .any⟩ bodyReefFloor r s)
def execMgtReefFloor (level ms : Nat) (s : State) : Res_ :=
  .next (if level ≤ 15 ∧ 1 ≤ ms ∧ ms ≤ 60000 then mgtIn s fun s => setPartFloor s level ms else s)
def execIntervalBoundary (e : IntervalEnv) (s : State) : Res_ := .next (intervalBoundary s e)
def execCalibration (ratioMilli : Nat) (s : State) : Res_ := .next (calibrateK s ratioMilli)
def execCalStale (s : State) : Res_ := .next (calStale s)
def execDvfsStepChange (target : Fin 5) (s : State) : Res_ := .next (dvfsChange s target.val)
def execDroop (die : Fin 2) (threshold : Fin 5) (s : State) : Res_ := .next (droop s die.val threshold.val)
def execDroopSustained (s : State) : Res_ := .next (droopSustained s)
def execDroopStretchFall (s : State) : Res_ := .next (stretchFall s)
def execMarginTrim (e : List TrimEnv) (s : State) : Res_ := .next (marginTrim s e)
/-- The partition floor expires. -/
def execPartitionFloorExpiry (s : State) : Res_ := .next (modReef s fun r => { r with partFloor := none })
def execPwrBrakeNAssert (s : State) : Res_ := .next (brakeAssert s)
def execPwrBrakeNDeassert (s : State) : Res_ := .next (brakeDeassert s)
def execSmbBmcCapWrite (data : List Byte) (pecOk : Bool) (s : State) : Res_ :=
  .next (smbWrite s 4 data pecOk fun s => smbBmcCap s (recAt 32 data 0))
def execSmbReefPolWrite (data : List Byte) (pecOk : Bool) (s : State) : Res_ :=
  .next (smbWrite s 16 data pecOk fun s => smbServed s fun s => reefWrite s (recAt 128 data 0))
def execSmbReefSwap (data : List Byte) (pecOk : Bool) (s : State) : Res_ :=
  .next (smbWrite s 1 data pecOk fun s => smbServed s reefSwap)
def execSmbAlertSrcWrite (data : List Byte) (pecOk : Bool) (s : State) : Res_ :=
  .next (smbWrite s 4 data pecOk fun s => smbAlertSrc s (recAt 32 data 0))
def execSmbAlertResponse (s : State) : Res_ := .next (smbAlertResponse s)

end Sys2Proof.Machine
end

