-- ==== Sys2Proof/Machine/Vector.lean ====
section
/-! DEFINITION. The rows of the vector unit: one routine word on one tile (R133, R134, Table 3.7). -/

namespace Sys2Proof.Machine

def execVxAdd (o : TileOp) (s : State) : Res_ := .next (soloWord .vector o (rwVxop o.rw == 1) (vecOp 1) s)
def execVxMul (o : TileOp) (s : State) : Res_ := .next (soloWord .vector o (rwVxop o.rw == 2) (vecOp 2) s)
def execVxFma (o : TileOp) (s : State) : Res_ := .next (soloWord .vector o (rwVxop o.rw == 3) (vecOp 3) s)
def execVxMax (o : TileOp) (s : State) : Res_ := .next (soloWord .vector o (rwVxop o.rw == 4) (vecOp 4) s)
def execVxMin (o : TileOp) (s : State) : Res_ := .next (soloWord .vector o (rwVxop o.rw == 5) (vecOp 5) s)
def execVxExp2 (o : TileOp) (s : State) : Res_ := .next (soloWord .vector o (rwVxop o.rw == 6) (vecOp 6) s)
def execVxRsqrt (o : TileOp) (s : State) : Res_ := .next (soloWord .vector o (rwVxop o.rw == 7) (vecOp 7) s)
def execVxRecip (o : TileOp) (s : State) : Res_ := .next (soloWord .vector o (rwVxop o.rw == 8) (vecOp 8) s)
def execVxCvt (o : TileOp) (s : State) : Res_ := .next (soloWord .vector o (rwVxop o.rw == 9) (vecOp 9) s)
def execVxLaneSum (o : TileOp) (s : State) : Res_ := .next (soloWord .vector o (rwVxop o.rw == 10) (vecOp 10) s)
def execVxLaneMax (o : TileOp) (s : State) : Res_ := .next (soloWord .vector o (rwVxop o.rw == 11) (vecOp 11) s)
def execVxMaskedSelect (o : TileOp) (s : State) : Res_ := .next (soloWord .vector o (rwVxop o.rw == 12) (vecOp 12) s)

end Sys2Proof.Machine
end

