-- ==== Sys2Proof/Machine/Dispatch.lean ====
section
/-! DEFINITION. One arm per command, in the order of spec/opcode_table.json, each a direct call of its meaning. -/

namespace Sys2Proof.Machine

/-- The effect of a command on everything but the queue. -/
def exec (i : Instr) (s : State) : Host.Outcome State Fault Refusal :=
  match i with
  | .ctxCreate r => Sys2Proof.Machine.execCtxCreate r s
  | .ctxDestroy r => Sys2Proof.Machine.execCtxDestroy r s
  | .ctxReset r => Sys2Proof.Machine.execCtxReset r s
  | .ctxAllot r => Sys2Proof.Machine.execCtxAllot r s
  | .ctxQuery r => Sys2Proof.Machine.execCtxQuery r s
  | .setSrSeed r => Sys2Proof.Machine.execSetSrSeed r s
  | .setSparse r => Sys2Proof.Machine.execSetSparse r s
  | .map r => Sys2Proof.Machine.execMap r s
  | .unmap r => Sys2Proof.Machine.execUnmap r s
  | .unmapDrainComplete c => Sys2Proof.Machine.execUnmapDrainComplete c s
  | .unmapRangeBusy c => Sys2Proof.Machine.execUnmapRangeBusy c s
  | .grant r => Sys2Proof.Machine.execGrant r s
  | .revoke r => Sys2Proof.Machine.execRevoke r s
  | .bar2Cfg r => Sys2Proof.Machine.execBar2Cfg r s
  | .remapApply r => Sys2Proof.Machine.execRemapApply r s
  | .loadProgram r => Sys2Proof.Machine.execLoadProgram r s
  | .loadSlotlib r => Sys2Proof.Machine.execLoadSlotlib r s
  | .loadRecipes r => Sys2Proof.Machine.execLoadRecipes r s
  | .loadRetention r => Sys2Proof.Machine.execLoadRetention r s
  | .loadDispatch r => Sys2Proof.Machine.execLoadDispatch r s
  | .loadUpdate r => Sys2Proof.Machine.execLoadUpdate r s
  | .run r => Sys2Proof.Machine.execRun r s
  | .stop r => Sys2Proof.Machine.execStop r s
  | .swap r => Sys2Proof.Machine.execSwap r s
  | .withdraw r => Sys2Proof.Machine.execWithdraw r s
  | .slipClear r => Sys2Proof.Machine.execSlipClear r s
  | .phaseExport r => Sys2Proof.Machine.execPhaseExport r s
  | .planWrite r => Sys2Proof.Machine.execPlanWrite r s
  | .setpointWrite r => Sys2Proof.Machine.execSetpointWrite r s
  | .planSwap r staged => Sys2Proof.Machine.execPlanSwap r staged s
  | .planWithdraw r => Sys2Proof.Machine.execPlanWithdraw r s
  | .reefWrite r => Sys2Proof.Machine.execReefWrite r s
  | .reefSwap r => Sys2Proof.Machine.execReefSwap r s
  | .escWrite r => Sys2Proof.Machine.execEscWrite r s
  | .reefFloor r => Sys2Proof.Machine.execReefFloor r s
  | .fence r => Sys2Proof.Machine.execFence r s
  | .unfence r => Sys2Proof.Machine.execUnfence r s
  | .lease r => Sys2Proof.Machine.execLease r s
  | .eventRing r => Sys2Proof.Machine.execEventRing r s
  | .dump r => Sys2Proof.Machine.execDump r s
  | .dumpRelease r => Sys2Proof.Machine.execDumpRelease r s
  | .trace r => Sys2Proof.Machine.execTrace r s
  | .loopReset r => Sys2Proof.Machine.execLoopReset r s
  | .computeReset r => Sys2Proof.Machine.execComputeReset r s
  | .returnToService r => Sys2Proof.Machine.execReturnToService r s
  | .fwWrite r => Sys2Proof.Machine.execFwWrite r s
  | .fwCommit r => Sys2Proof.Machine.execFwCommit r s
  | .fwCommitted => Sys2Proof.Machine.execFwCommitted s
  | .fwStatus r => Sys2Proof.Machine.execFwStatus r s
  | .attest r => Sys2Proof.Machine.execAttest r s
  | .certRead r => Sys2Proof.Machine.execCertRead r s
  | .lcLifeRead r => Sys2Proof.Machine.execLcLifeRead r s
  | .lcSwap r => Sys2Proof.Machine.execLcSwap r s
  | .lcRecommission r taps => Sys2Proof.Machine.execLcRecommission r taps s
  | .lcPowerRetry r e => Sys2Proof.Machine.execLcPowerRetry r e s
  | .fbCopy r => Sys2Proof.Machine.execFbCopy r s
  | .dumpCopy r => Sys2Proof.Machine.execDumpCopy r s
  | .evtHeadWrite fn v => Sys2Proof.Machine.execEvtHeadWrite fn v s
  | .registerWrite fn off data => Sys2Proof.Machine.execRegisterWrite fn off data s
  | .bar2Read fn off len => Sys2Proof.Machine.execBar2Read fn off len s
  | .bar2Write fn off data => Sys2Proof.Machine.execBar2Write fn off data s
  | .smbBmcCapWrite data pecOk => Sys2Proof.Machine.execSmbBmcCapWrite data pecOk s
  | .smbReefPolWrite data pecOk => Sys2Proof.Machine.execSmbReefPolWrite data pecOk s
  | .smbReefSwap data pecOk => Sys2Proof.Machine.execSmbReefSwap data pecOk s
  | .smbAlertSrcWrite data pecOk => Sys2Proof.Machine.execSmbAlertSrcWrite data pecOk s
  | .smbAlertResponse => Sys2Proof.Machine.execSmbAlertResponse s
  | .idcode => Sys2Proof.Machine.execIdcode s
  | .bypass tdi => Sys2Proof.Machine.execBypass tdi s
  | .samplePreload lands => Sys2Proof.Machine.execSamplePreload lands s
  | .extest lands => Sys2Proof.Machine.execExtest lands s
  | .doeDiscovery index => Sys2Proof.Machine.execDoeDiscovery index s
  | .getVersion => Sys2Proof.Machine.execGetVersion s
  | .getCapabilities => Sys2Proof.Machine.execGetCapabilities s
  | .negotiateAlgorithms ecdsaP256 sha256 => Sys2Proof.Machine.execNegotiateAlgorithms ecdsaP256 sha256 s
  | .getDigests => Sys2Proof.Machine.execGetDigests s
  | .getCertificate slot off len => Sys2Proof.Machine.execGetCertificate slot off len s
  | .challenge slot nonce => Sys2Proof.Machine.execChallenge slot nonce s
  | .getMeasurements index nonce => Sys2Proof.Machine.execGetMeasurements index nonce s
  | .vfFlr fn => Sys2Proof.Machine.execVfFlr fn s
  | .pfFlr => Sys2Proof.Machine.execPfFlr s
  | .pcieLinkLoss => Sys2Proof.Machine.execPcieLinkLoss s
  | .pcieLinkReturn => Sys2Proof.Machine.execPcieLinkReturn s
  | .numvfsChange n => Sys2Proof.Machine.execNumvfsChange n s
  | .barResize fn log2Size => Sys2Proof.Machine.execBarResize fn log2Size s
  | .perstNAssert => Sys2Proof.Machine.execPerstNAssert s
  | .perstNDeassert e => Sys2Proof.Machine.execPerstNDeassert e s
  | .pwrgdMastDeassert sramKept => Sys2Proof.Machine.execPwrgdMastDeassert sramKept s
  | .pwrgdAuxDeassert => Sys2Proof.Machine.execPwrgdAuxDeassert s
  | .pwrgdCoreDeassert => Sys2Proof.Machine.execPwrgdCoreDeassert s
  | .pwrBrakeNAssert => Sys2Proof.Machine.execPwrBrakeNAssert s
  | .pwrBrakeNDeassert => Sys2Proof.Machine.execPwrBrakeNDeassert s
  | .testNLow => Sys2Proof.Machine.execTestNLow s
  | .cartridgeRemoved => Sys2Proof.Machine.execCartridgeRemoved s
  | .cartridgeInserted e => Sys2Proof.Machine.execCartridgeInserted e s
  | .lcFault => Sys2Proof.Machine.execLcFault s
  | .lineFailed line => Sys2Proof.Machine.execLineFailed line s
  | .beatBoundary c fetched => Sys2Proof.Machine.execBeatBoundary c fetched s
  | .hang c => Sys2Proof.Machine.execHang c s
  | .gate c w => Sys2Proof.Machine.execGate c w s
  | .tokenAdd c w => Sys2Proof.Machine.execTokenAdd c w s
  | .tokenSet c w => Sys2Proof.Machine.execTokenSet c w s
  | .creditReturn c w => Sys2Proof.Machine.execCreditReturn c w s
  | .creditSet c w => Sys2Proof.Machine.execCreditSet c w s
  | .countSet c w => Sys2Proof.Machine.execCountSet c w s
  | .mac o => Sys2Proof.Machine.execMac o s
  | .macTransposed o => Sys2Proof.Machine.execMacTransposed o s
  | .drain o => Sys2Proof.Machine.execDrain o s
  | .clear o => Sys2Proof.Machine.execClear o s
  | .txopLoad o => Sys2Proof.Machine.execTxopLoad o s
  | .meshSend o => Sys2Proof.Machine.execMeshSend o s
  | .meshRowSend o => Sys2Proof.Machine.execMeshRowSend o s
  | .meshColumnSend o => Sys2Proof.Machine.execMeshColumnSend o s
  | .meshArrival c => Sys2Proof.Machine.execMeshArrival c s
  | .vxAdd o => Sys2Proof.Machine.execVxAdd o s
  | .vxMul o => Sys2Proof.Machine.execVxMul o s
  | .vxFma o => Sys2Proof.Machine.execVxFma o s
  | .vxMax o => Sys2Proof.Machine.execVxMax o s
  | .vxMin o => Sys2Proof.Machine.execVxMin o s
  | .vxExp2 o => Sys2Proof.Machine.execVxExp2 o s
  | .vxRsqrt o => Sys2Proof.Machine.execVxRsqrt o s
  | .vxRecip o => Sys2Proof.Machine.execVxRecip o s
  | .vxCvt o => Sys2Proof.Machine.execVxCvt o s
  | .vxLaneSum o => Sys2Proof.Machine.execVxLaneSum o s
  | .vxLaneMax o => Sys2Proof.Machine.execVxLaneMax o s
  | .vxMaskedSelect o => Sys2Proof.Machine.execVxMaskedSelect o s
  | .moveCopy c m => Sys2Proof.Machine.execMoveCopy c m s
  | .moveStrided c m => Sys2Proof.Machine.execMoveStrided c m s
  | .moveGather c m => Sys2Proof.Machine.execMoveGather c m s
  | .moveScatter c m => Sys2Proof.Machine.execMoveScatter c m s
  | .moveTransposingCopy c m => Sys2Proof.Machine.execMoveTransposingCopy c m s
  | .moveDone c m => Sys2Proof.Machine.execMoveDone c m s
  | .put c e => Sys2Proof.Machine.execPut c e s
  | .csend c e => Sys2Proof.Machine.execCsend c e s
  | .putArrival x => Sys2Proof.Machine.execPutArrival x s
  | .acknowledgement c e a => Sys2Proof.Machine.execAcknowledgement c e a s
  | .nak c e xfer kind coll => Sys2Proof.Machine.execNak c e xfer kind coll s
  | .linkTimeout c e xfer => Sys2Proof.Machine.execLinkTimeout c e xfer s
  | .close c srcSta srcCtx xfer => Sys2Proof.Machine.execClose c srcSta srcCtx xfer s
  | .updateRequest c u => Sys2Proof.Machine.execUpdateRequest c u s
  | .updateRaiseOnly c u => Sys2Proof.Machine.execUpdateRaiseOnly c u s
  | .updateDone c u => Sys2Proof.Machine.execUpdateDone c u s
  | .updAdd u w => Sys2Proof.Machine.execUpdAdd u w s
  | .updSub u w => Sys2Proof.Machine.execUpdSub u w s
  | .updMul u w => Sys2Proof.Machine.execUpdMul u w s
  | .updFma u w => Sys2Proof.Machine.execUpdFma u w s
  | .updMax u w => Sys2Proof.Machine.execUpdMax u w s
  | .updMin u w => Sys2Proof.Machine.execUpdMin u w s
  | .updAbs u w => Sys2Proof.Machine.execUpdAbs u w s
  | .updSqrt u w => Sys2Proof.Machine.execUpdSqrt u w s
  | .updRsqrt u w => Sys2Proof.Machine.execUpdRsqrt u w s
  | .updRecip u w => Sys2Proof.Machine.execUpdRecip u w s
  | .updExp2 u w => Sys2Proof.Machine.execUpdExp2 u w s
  | .updSel u w => Sys2Proof.Machine.execUpdSel u w s
  | .updNfcls u w => Sys2Proof.Machine.execUpdNfcls u w s
  | .updMov u w => Sys2Proof.Machine.execUpdMov u w s
  | .updSqacc u w => Sys2Proof.Machine.execUpdSqacc u w s
  | .updSumacc u w => Sys2Proof.Machine.execUpdSumacc u w s
  | .updAccrd u w => Sys2Proof.Machine.execUpdAccrd u w s
  | .updLd u w => Sys2Proof.Machine.execUpdLd u w s
  | .updSt u w => Sys2Proof.Machine.execUpdSt u w s
  | .updEnd u w => Sys2Proof.Machine.execUpdEnd u w s
  | .topkRoute c e => Sys2Proof.Machine.execTopkRoute c e s
  | .bitmapList c e => Sys2Proof.Machine.execBitmapList c e s
  | .countSum c e => Sys2Proof.Machine.execCountSum c e s
  | .flagCount c e => Sys2Proof.Machine.execFlagCount c e s
  | .dispatchDone c e => Sys2Proof.Machine.execDispatchDone c e s
  | .allReduce c e => Sys2Proof.Machine.execAllReduce c e s
  | .reduceScatter c e => Sys2Proof.Machine.execReduceScatter c e s
  | .allGather c e => Sys2Proof.Machine.execAllGather c e s
  | .broadcast c e => Sys2Proof.Machine.execBroadcast c e s
  | .allToAllRagged c e => Sys2Proof.Machine.execAllToAllRagged c e s
  | .countsExchanged c e hash seq counts => Sys2Proof.Machine.execCountsExchanged c e hash seq counts s
  | .permute c e => Sys2Proof.Machine.execPermute c e s
  | .collSegmentGrant g => Sys2Proof.Machine.execCollSegmentGrant g s
  | .collPieceArrival p => Sys2Proof.Machine.execCollPieceArrival p s
  | .collDone c e hash seq => Sys2Proof.Machine.execCollDone c e hash seq s
  | .contextClosed c e hash seq srcSta srcCtx => Sys2Proof.Machine.execContextClosed c e hash seq srcSta srcCtx s
  | .peerReq q => Sys2Proof.Machine.execPeerReq q s
  | .peerRsp c m h data => Sys2Proof.Machine.execPeerRsp c m h data s
  | .packetForward port p => Sys2Proof.Machine.execPacketForward port p s
  | .colChunkArrival port k => Sys2Proof.Machine.execColChunkArrival port k s
  | .headerCodeword port h => Sys2Proof.Machine.execHeaderCodeword port h s
  | .headerOnlyPacket peer => Sys2Proof.Machine.execHeaderOnlyPacket peer s
  | .discoveryTraverse port => Sys2Proof.Machine.execDiscoveryTraverse port s
  | .discRec port rec delayNs => Sys2Proof.Machine.execDiscRec port rec delayNs s
  | .swapNotice port n => Sys2Proof.Machine.execSwapNotice port n s
  | .mgtLease rec => Sys2Proof.Machine.execMgtLease rec s
  | .mgtFence => Sys2Proof.Machine.execMgtFence s
  | .mgtReefFloor level ms => Sys2Proof.Machine.execMgtReefFloor level ms s
  | .leaseExpired => Sys2Proof.Machine.execLeaseExpired s
  | .planEpoch => Sys2Proof.Machine.execPlanEpoch s
  | .shroudPeerTimeout peer => Sys2Proof.Machine.execShroudPeerTimeout peer s
  | .neighbourNotFound port => Sys2Proof.Machine.execNeighbourNotFound port s
  | .transect m => Sys2Proof.Machine.execTransect m s
  | .stayLightDetected port => Sys2Proof.Machine.execStayLightDetected port s
  | .stayAcquired port => Sys2Proof.Machine.execStayAcquired port s
  | .noLock port => Sys2Proof.Machine.execNoLock port s
  | .stayLightLost port => Sys2Proof.Machine.execStayLightLost port s
  | .laserSwapTimeout port => Sys2Proof.Machine.execLaserSwapTimeout port s
  | .lightRotationRound => Sys2Proof.Machine.execLightRotationRound s
  | .loopPeakFound die loop peak => Sys2Proof.Machine.execLoopPeakFound die loop peak s
  | .loopSweepExhausted die loop => Sys2Proof.Machine.execLoopSweepExhausted die loop s
  | .loopLockBandMet die loop => Sys2Proof.Machine.execLoopLockBandMet die loop s
  | .loopAcquireTimeout die loop => Sys2Proof.Machine.execLoopAcquireTimeout die loop s
  | .loopVerifyDone die loop amps metric => Sys2Proof.Machine.execLoopVerifyDone die loop amps metric s
  | .loopPilotCheck die loop amps => Sys2Proof.Machine.execLoopPilotCheck die loop amps s
  | .loopLockLost die loop => Sys2Proof.Machine.execLoopLockLost die loop s
  | .loopLightLost die loop temp => Sys2Proof.Machine.execLoopLightLost die loop temp s
  | .loopLightReturn die loop inBand temp => Sys2Proof.Machine.execLoopLightReturn die loop inBand temp s
  | .lcLinePoll readings => Sys2Proof.Machine.execLcLinePoll readings s
  | .fadeTest => Sys2Proof.Machine.execFadeTest s
  | .spareTuned role e => Sys2Proof.Machine.execSpareTuned role e s
  | .swapSlot role => Sys2Proof.Machine.execSwapSlot role s
  | .commissioning line tap => Sys2Proof.Machine.execCommissioning line tap s
  | .caseTemperatureCheck temp => Sys2Proof.Machine.execCaseTemperatureCheck temp s
  | .intervalBoundary e => Sys2Proof.Machine.execIntervalBoundary e s
  | .calibration ratioMilli => Sys2Proof.Machine.execCalibration ratioMilli s
  | .calStale => Sys2Proof.Machine.execCalStale s
  | .dvfsStepChange target => Sys2Proof.Machine.execDvfsStepChange target s
  | .droop die threshold => Sys2Proof.Machine.execDroop die threshold s
  | .droopSustained => Sys2Proof.Machine.execDroopSustained s
  | .marginTrim e => Sys2Proof.Machine.execMarginTrim e s
  | .partitionFloorExpiry => Sys2Proof.Machine.execPartitionFloorExpiry s
  | .patrolScrubRead addr upset pass => Sys2Proof.Machine.execPatrolScrubRead addr upset pass s
  | .contextResetDone c => Sys2Proof.Machine.execContextResetDone c s
  | .teardownStuck c => Sys2Proof.Machine.execTeardownStuck c s
  | .computeResetDone => Sys2Proof.Machine.execComputeResetDone s
  | .halyardRestart memErr => Sys2Proof.Machine.execHalyardRestart memErr s
  | .trimRestart die => Sys2Proof.Machine.execTrimRestart die s
  | .fieldBookFlush => Sys2Proof.Machine.execFieldBookFlush s
  | .healthReasonClear n => Sys2Proof.Machine.execHealthReasonClear n s
  | .msixModeration fn => Sys2Proof.Machine.execMsixModeration fn s
  | .planSlotAdvance => Sys2Proof.Machine.execPlanSlotAdvance s
  | .equaliserStateStale peer lane => Sys2Proof.Machine.execEqualiserStateStale peer lane s
  | .powerUp => Sys2Proof.Machine.execPowerUp s
  | .lcFaultNHigh e => Sys2Proof.Machine.execLcFaultNHigh e s
  | .droopStretchFall => Sys2Proof.Machine.execDroopStretchFall s

end Sys2Proof.Machine
end

