-- ==== Sys2Proof/WellFormed.lean ====
section
/-! DEFINITION. What a command's operands must satisfy beyond their types: lengths, ranges and opcodes that the row of
the table fixes. `exec` is total without it: an ill-formed command is one that nothing outside the package can send. -/

namespace Sys2Proof

open Machine (fld)

/-- A mailbox request of one opcode: its payload fits the buffer (R451), its header carries the opcode (Table 12.8). -/
def Req.wf (r : Req) (op : Nat) : Bool := decide (r.payload.length ≤ 4080) && fld r.header 15 0 == op

/-- A routine word of one kind for a tile that can exist (Tables 1.2, 2.9): the field at [hi:lo] holds k. -/
def TileOp.wf (o : TileOp) (hi lo k : Nat) : Bool :=
  decide (o.tile < 256) && fld o.rw hi lo == k && fld o.sw 127 124 == 1

/-- A CTRL slot word of one kind (Table 2.14). -/
def ctrlWf (w : BitVec 128) (kind : Nat) : Bool := fld w 127 124 == 7 && fld w 107 104 == kind

/-- Loops of the Shroud die and of the Stay die (Table 7.3). -/
def loopWf (die : Fin 2) (loop : Nat) : Bool := decide (loop < if die = 0 then 232 else 64)

/-- Per-die readings of the start-up sequence. -/
def BootEnv.wf (e : BootEnv) : Bool :=
  e.trimOk.length == 2 && e.vddcAck.length == 2 && e.trim.length == 2 && e.trim.all (fun t => t.length == 5)
    && e.loopsOk.all (fun p => decide (p.1 < 2)) && decide (e.authFail ≤ 3)

/-- 32 lines, a life record of 544 bytes (Table 7.11), and one of the three steps of R498. -/
def CartEnv.wf (e : CartEnv) : Bool := e.lines.length == 32 && e.life.length == 544 && decide (e.authFail ≤ 3)

/-- The bytes lie inside the transfer, and pool and take fit their fields (Table 2.13). -/
def InXfer.wf (x : InXfer) : Bool :=
  decide (x.off + x.data.length ≤ x.len) && decide (x.cpool < 256) && decide (x.ctake < 65536)

/-- One of the six collectives (Table 9.4). -/
def Piece.wf (p : Piece) : Bool := decide (1 ≤ p.op) && decide (p.op ≤ 6)

/-- A write carries a whole line's data, a read none (R260). -/
def PeerQ.wf (q : PeerQ) : Bool := q.data.length == if q.write then 64 else 0

/-- At most two virtual channels (R317); Shroud lanes ST0 to ST15. -/
def Packet.wf (p : Packet) : Bool := decide (p.vc < 2) && decide (p.lane < 16)

/-- Credits per channel of Table 8.11. -/
def Header.wf (h : Header) : Bool := decide (h.credits.length ≤ 8)

/-- Is the command one that can be sent? -/
def Instr.wf (i : Instr) : Bool :=
  match i with
  | .ctxCreate r => r.wf 0x0101
  | .ctxDestroy r => r.wf 0x0102
  | .ctxReset r => r.wf 0x0103
  | .ctxAllot r => r.wf 0x0104
  | .ctxQuery r => r.wf 0x0105
  | .setSrSeed r => r.wf 0x0106
  | .setSparse r => r.wf 0x0107
  | .map r => r.wf 0x0201
  | .unmap r => r.wf 0x0202
  | .unmapDrainComplete _ => true
  | .unmapRangeBusy _ => true
  | .grant r => r.wf 0x0203
  | .revoke r => r.wf 0x0204
  | .bar2Cfg r => r.wf 0x0205
  | .remapApply r => r.wf 0x0206
  | .loadProgram r => r.wf 0x0301
  | .loadSlotlib r => r.wf 0x0302
  | .loadRecipes r => r.wf 0x0303
  | .loadRetention r => r.wf 0x0304
  | .loadDispatch r => r.wf 0x0305
  | .loadUpdate r => r.wf 0x0306
  | .run r => r.wf 0x0401
  | .stop r => r.wf 0x0402
  | .swap r => r.wf 0x0403
  | .withdraw r => r.wf 0x0404
  | .slipClear r => r.wf 0x0405
  | .phaseExport r => r.wf 0x0406
  | .planWrite r => r.wf 0x0501
  | .setpointWrite r => r.wf 0x0502
  | .planSwap r _ => r.wf 0x0503
  | .planWithdraw r => r.wf 0x0504
  | .reefWrite r => r.wf 0x0505
  | .reefSwap r => r.wf 0x0506
  | .escWrite r => r.wf 0x0507
  | .reefFloor r => r.wf 0x0508
  | .fence r => r.wf 0x0601
  | .unfence r => r.wf 0x0602
  | .lease r => r.wf 0x0603
  | .eventRing r => r.wf 0x0701
  | .dump r => r.wf 0x0801
  | .dumpRelease r => r.wf 0x0802
  | .trace r => r.wf 0x0803
  | .loopReset r => r.wf 0x0804
  | .computeReset r => r.wf 0x0805
  | .returnToService r => r.wf 0x0806
  | .fwWrite r => r.wf 0x0901
  | .fwCommit r => r.wf 0x0902
  | .fwCommitted => true
  | .fwStatus r => r.wf 0x0903
  | .attest r => r.wf 0x0A01
  | .certRead r => r.wf 0x0A02
  | .lcLifeRead r => r.wf 0x0B01
  | .lcSwap r => r.wf 0x0B02
  | .lcRecommission r taps => r.wf 0x0B03 && taps.all fun t => decide (t.1 < 32)
  | .lcPowerRetry r e => r.wf 0x0B04 && decide (e.authFail ≤ 3)
  | .fbCopy r => r.wf 0x0C01
  | .dumpCopy r => r.wf 0x0C02
  | .evtHeadWrite _ _ => true
  | .registerWrite _ _ data => decide (data.length ≤ 64) && !data.isEmpty
  | .bar2Read _ _ len => decide (0 < len)
  | .bar2Write _ _ data => !data.isEmpty
  | .smbBmcCapWrite data _ => !data.isEmpty
  | .smbReefPolWrite data _ => !data.isEmpty
  | .smbReefSwap data _ => !data.isEmpty
  | .smbAlertSrcWrite data _ => !data.isEmpty
  | .smbAlertResponse => true
  | .idcode => true
  | .bypass _ => true
  | .samplePreload _ => true
  | .extest _ => true
  | .doeDiscovery _ => true
  | .getVersion => true
  | .getCapabilities => true
  | .negotiateAlgorithms _ _ => true
  | .getDigests => true
  | .getCertificate slot off len => decide (slot < 8) && decide (off < 65536) && decide (len < 65536)
  | .challenge slot _ => decide (slot < 8)
  | .getMeasurements index _ => decide (index < 256)
  | .vfFlr fn => decide (fn ≠ 0)
  | .pfFlr => true
  | .pcieLinkLoss => true
  | .pcieLinkReturn => true
  | .numvfsChange _ => true
  | .barResize _ log2Size => decide (30 ≤ log2Size) && decide (log2Size ≤ 40)
  | .perstNAssert => true
  | .perstNDeassert e => e.wf
  | .pwrgdMastDeassert _ => true
  | .pwrgdAuxDeassert => true
  | .pwrgdCoreDeassert => true
  | .pwrBrakeNAssert => true
  | .pwrBrakeNDeassert => true
  | .testNLow => true
  | .cartridgeRemoved => true
  | .cartridgeInserted e => e.wf
  | .lcFault => true
  | .lineFailed _ => true
  | .beatBoundary _ _ => true
  | .hang _ => true
  | .gate _ w => ctrlWf w 0
  | .tokenAdd _ w => ctrlWf w 1
  | .tokenSet _ w => ctrlWf w 2
  | .creditReturn _ w => ctrlWf w 3
  | .creditSet _ w => ctrlWf w 4
  | .countSet _ w => ctrlWf w 5
  | .mac o => o.wf 63 60 1
  | .macTransposed o => o.wf 63 60 2
  | .drain o => o.wf 63 60 3
  | .clear o => o.wf 63 60 4
  | .txopLoad o => o.wf 55 54 1
  | .meshSend o => o.wf 53 51 1
  | .meshRowSend o => o.wf 53 51 2
  | .meshColumnSend o => o.wf 53 51 3
  | .meshArrival _ => true
  | .vxAdd o => o.wf 59 56 1
  | .vxMul o => o.wf 59 56 2
  | .vxFma o => o.wf 59 56 3
  | .vxMax o => o.wf 59 56 4
  | .vxMin o => o.wf 59 56 5
  | .vxExp2 o => o.wf 59 56 6
  | .vxRsqrt o => o.wf 59 56 7
  | .vxRecip o => o.wf 59 56 8
  | .vxCvt o => o.wf 59 56 9
  | .vxLaneSum o => o.wf 59 56 10
  | .vxLaneMax o => o.wf 59 56 11
  | .vxMaskedSelect o => o.wf 59 56 12
  | .moveCopy _ _ => true
  | .moveStrided _ _ => true
  | .moveGather _ _ => true
  | .moveScatter _ _ => true
  | .moveTransposingCopy _ _ => true
  | .moveDone _ _ => true
  | .put _ _ => true
  | .csend _ _ => true
  | .putArrival x => x.wf
  | .acknowledgement _ _ _ => true
  | .nak _ _ _ _ _ => true
  | .linkTimeout _ _ _ => true
  | .close _ _ _ _ => true
  | .updateRequest _ _ => true
  | .updateRaiseOnly _ _ => true
  | .updateDone _ _ => true
  | .updAdd _ w => fld w 31 26 == 0x01
  | .updSub _ w => fld w 31 26 == 0x02
  | .updMul _ w => fld w 31 26 == 0x03
  | .updFma _ w => fld w 31 26 == 0x04
  | .updMax _ w => fld w 31 26 == 0x05
  | .updMin _ w => fld w 31 26 == 0x06
  | .updAbs _ w => fld w 31 26 == 0x07
  | .updSqrt _ w => fld w 31 26 == 0x08
  | .updRsqrt _ w => fld w 31 26 == 0x09
  | .updRecip _ w => fld w 31 26 == 0x0A
  | .updExp2 _ w => fld w 31 26 == 0x0B
  | .updSel _ w => fld w 31 26 == 0x0C
  | .updNfcls _ w => fld w 31 26 == 0x0D
  | .updMov _ w => fld w 31 26 == 0x0E
  | .updSqacc _ w => fld w 31 26 == 0x10
  | .updSumacc _ w => fld w 31 26 == 0x11
  | .updAccrd _ w => fld w 31 26 == 0x12
  | .updLd _ w => fld w 31 26 == 0x20
  | .updSt _ w => fld w 31 26 == 0x21
  | .updEnd _ w => fld w 31 26 == 0x3F
  | .topkRoute _ _ => true
  | .bitmapList _ _ => true
  | .countSum _ _ => true
  | .flagCount _ _ => true
  | .dispatchDone _ _ => true
  | .allReduce _ _ => true
  | .reduceScatter _ _ => true
  | .allGather _ _ => true
  | .broadcast _ _ => true
  | .allToAllRagged _ _ => true
  | .countsExchanged _ _ _ _ _ => true
  | .permute _ _ => true
  | .collSegmentGrant _ => true
  | .collPieceArrival p => p.wf
  | .collDone _ _ _ _ => true
  | .contextClosed _ _ _ _ _ _ => true
  | .peerReq q => q.wf
  | .peerRsp _ _ _ _ => true
  | .packetForward _ p => p.wf
  | .colChunkArrival _ _ => true
  | .headerCodeword _ h => h.wf
  | .headerOnlyPacket _ => true
  | .discoveryTraverse _ => true
  | .discRec _ _ _ => true
  | .swapNotice _ _ => true
  | .mgtLease _ => true
  | .mgtFence => true
  | .mgtReefFloor level ms => decide (level ≤ 15) && decide (1 ≤ ms) && decide (ms ≤ 60000)
  | .leaseExpired => true
  | .planEpoch => true
  | .shroudPeerTimeout _ => true
  | .neighbourNotFound _ => true
  | .transect m => m.length == 15 && m.all fun p => p.figures.length == 15
  | .stayLightDetected _ => true
  | .stayAcquired _ => true
  | .noLock _ => true
  | .stayLightLost _ => true
  | .laserSwapTimeout _ => true
  | .lightRotationRound => true
  | .loopPeakFound die loop peak => loopWf die loop && decide (peak < 4096)
  | .loopSweepExhausted die loop => loopWf die loop
  | .loopLockBandMet die loop => loopWf die loop
  | .loopAcquireTimeout die loop => loopWf die loop
  | .loopVerifyDone die loop amps _ => loopWf die loop && amps.length == 32
  | .loopPilotCheck die loop amps => loopWf die loop && amps.length == 32
  | .loopLockLost die loop => loopWf die loop
  | .loopLightLost die loop _ => loopWf die loop
  | .loopLightReturn die loop _ _ => loopWf die loop
  | .lcLinePoll readings => readings.length == 32
  | .fadeTest => true
  | .spareTuned _ e => e.amps.length == 32
  | .swapSlot _ => true
  | .commissioning _ _ => true
  | .caseTemperatureCheck _ => true
  | .intervalBoundary e => e.cdie.length == 2 && e.hbm.length == 12 && e.hertan.length == 2
  | .calibration _ => true
  | .calStale => true
  | .dvfsStepChange _ => true
  | .droop _ _ => true
  | .droopSustained => true
  | .marginTrim e => e.length == 2
  | .partitionFloorExpiry => true
  | .patrolScrubRead addr upset pass => (addr.toNat % 64 == 0 || decide (0xF000000000 ≤ addr.toNat)) && upset.all (fun u => decide (u.1 < 77)) && decide (pass < 2 ^ 32)
  | .contextResetDone _ => true
  | .teardownStuck _ => true
  | .computeResetDone => true
  | .halyardRestart _ => true
  | .trimRestart _ => true
  | .fieldBookFlush => true
  | .healthReasonClear _ => true
  | .msixModeration _ => true
  | .planSlotAdvance => true
  | .equaliserStateStale _ _ => true
  | .powerUp => true
  | .lcFaultNHigh e => decide (e.authFail ≤ 3)
  | .droopStretchFall => true
end Sys2Proof
end

