-- ==== Sys2Proof/Safety.lean ====
section
/-! DEFINITION. The terms in which claims about the package are stated: when a mailbox request is accepted and what its answer
looks like, the invariant of memory, and conditions that several families of commands share. -/

namespace Sys2Proof.Machine

/-! ### Mailbox commands (R451 to R454) -/

/-- The target context of a request. -/
def reqCtx (r : Req) : CtxId := hdrCtx r.fn r.header

/-- A whole request reaches a mailbox that can take it: the function is served, nothing is outstanding, MBX_POST is written with
a new value, and the request is of opcode `op`. -/
abbrev Posts (s : State) (r : Req) (op : Nat) : Prop :=
  mbxServed s r.fn = true ∧ (getFn s r.fn).busy = none ∧ r.post ≠ (getFn s r.fn).done ∧ hdrOp r.header = op

/-- A request that passes steps 1 to 7 of R454: sequence number, reserved bits, length, permission, package state, context
state. -/
abbrev Accepts (s : State) (r : Req) (op len : Nat) (own : Bool) (need : Need) : Prop :=
  Posts s r op ∧ r.payload.length = len ∧ hdrSeq r.header = r.post.toNat ∧ hdrReserved r.header = false
    ∧ hdrLen r.header = len ∧ (r.fn = 0 ∨ own = true ∧ bit r.header 27 = false) ∧ opServed s op = true
    ∧ needFail need (getCtx s (reqCtx r)).run = none

/-- The state with a request's answer given: the request stands in its buffer, MBX_POST and MBX_DONE hold the posted value, the
response buffer holds the response header of Table 12.9 and the payload, and vector 0 is signalled. -/
def replied (s : State) (r : Req) (st : Status) (detail : Nat) (pay : List Byte) : State :=
  let f := getFn s r.fn
  msixSignal (setFn s r.fn { f with
    req := overlay f.req (leBytes 16 r.header.toNat ++ r.payload)
    post := r.post
    resp := leBytes 16 (detail * 2 ^ 96 + pay.length * 2 ^ 64 + hdrSeq r.header * 2 ^ 32 + st.toNat * 2 ^ 16 + hdrOp r.header) ++ pay
    done := r.post
    busy := none }) r.fn 0

/-- The state with a request begun whose answer comes later. -/
def begunReq (s : State) (r : Req) (w : Wait) : State :=
  let f := getFn s r.fn
  setFn s r.fn { f with
    req := overlay f.req (leBytes 16 r.header.toNat ++ r.payload)
    post := r.post
    busy := some w }

/-- An answer with status ok and no payload. -/
def repliedOk (s : State) (r : Req) : State := replied s r stOk noField []

/-- The state in which an accepted request stands posted and its command acts. -/
def posted (s : State) (r : Req) : State := begunReq s r .posted

/-- An accepted request answered ok, with no payload. -/
def okTo (r : Req) (u : State) : State := answer u r.fn .ok

/-- An accepted request answered ok with a payload. -/
def payTo (r : Req) (bs : List Byte) (u : State) : State := answer u r.fn (.pay_ bs)

/-- An accepted request whose answer is left for later. -/
def waits (r : Req) (w : Wait) (u : State) : State := modFn u r.fn fun f => { f with busy := some w }

/-- What CTX_CREATE and CTX_ALLOT ask of a payload: reserved bytes clear, nothing named that another context holds (R415). -/
abbrev AllotFree (s : State) (c : CtxId) (p : List Byte) : Prop :=
  pf p 0 4 &&& heldBy s c (·.cols.toNat) = 0 ∧ pf p 7 1 = 0 ∧ pf p 4 4 &&& heldBy s c (·.upd.toNat) = 0 ∧ pf p 14 2 = 0
    ∧ pf p 8 8 &&& heldBy s c (·.movers.toNat) = 0 ∧ pf p 16 12 &&& heldBy s c (·.ds.toNat) = 0 ∧ pf p 28 12 = 0
    ∧ pf p 111 1 < 128

/-- The row of Table 12.10 that a mailbox command is, and its request. -/
def mailRow : Instr → Option (Cmd × Req)
  | .ctxCreate r => some (⟨0x0101, 112, false, .absent⟩, r)
  | .ctxDestroy r => some (⟨0x0102, 0, false, .exists_⟩, r)
  | .ctxReset r => some (⟨0x0103, 0, true, .exists_⟩, r)
  | .ctxAllot r => some (⟨0x0104, 112, false, .idle⟩, r)
  | .ctxQuery r => some (⟨0x0105, 0, true, .any⟩, r)
  | .setSrSeed r => some (⟨0x0106, 8, true, .idle⟩, r)
  | .setSparse r => some (⟨0x0107, 32, true, .idle⟩, r)
  | .map r => some (⟨0x0201, 24, true, .exists_⟩, r)
  | .unmap r => some (⟨0x0202, 16, true, .exists_⟩, r)
  | .grant r => some (⟨0x0203, 16, true, .exists_⟩, r)
  | .revoke r => some (⟨0x0204, 8, true, .exists_⟩, r)
  | .bar2Cfg r => some (⟨0x0205, 16, true, .any⟩, r)
  | .remapApply r => some (⟨0x0206, 0, false, .any⟩, r)
  | .loadProgram r => some (⟨0x0301, 72, true, .live⟩, r)
  | .loadSlotlib r => some (⟨0x0302, 48, true, .live⟩, r)
  | .loadRecipes r => some (⟨0x0303, 256, true, .live⟩, r)
  | .loadRetention r => some (⟨0x0304, 64, true, .live⟩, r)
  | .loadDispatch r => some (⟨0x0305, 2048, true, .live⟩, r)
  | .loadUpdate r => some (⟨0x0306, 24, true, .live⟩, r)
  | .run r => some (⟨0x0401, 8, true, .idle⟩, r)
  | .stop r => some (⟨0x0402, 0, true, .running⟩, r)
  | .swap r => some (⟨0x0403, 8, true, .idleOrRunning⟩, r)
  | .withdraw r => some (⟨0x0404, 8, true, .exists_⟩, r)
  | .slipClear r => some (⟨0x0405, 0, true, .exists_⟩, r)
  | .phaseExport r => some (⟨0x0406, 16, true, .idle⟩, r)
  | .planWrite r => some (⟨0x0501, 16, false, .any⟩, r)
  | .setpointWrite r => some (⟨0x0502, 192, false, .any⟩, r)
  | .planSwap r _ => some (⟨0x0503, 8, false, .any⟩, r)
  | .planWithdraw r => some (⟨0x0504, 0, false, .any⟩, r)
  | .reefWrite r => some (⟨0x0505, 16, false, .any⟩, r)
  | .reefSwap r => some (⟨0x0506, 0, false, .any⟩, r)
  | .escWrite r => some (⟨0x0507, 4, false, .any⟩, r)
  | .reefFloor r => some (⟨0x0508, 8, false, .any⟩, r)
  | .fence r => some (⟨0x0601, 0, false, .any⟩, r)
  | .unfence r => some (⟨0x0602, 32, false, .any⟩, r)
  | .lease r => some (⟨0x0603, 32, false, .any⟩, r)
  | .eventRing r => some (⟨0x0701, 16, true, .any⟩, r)
  | .dump r => some (⟨0x0801, 0, false, .any⟩, r)
  | .dumpRelease r => some (⟨0x0802, 8, false, .any⟩, r)
  | .trace r => some (⟨0x0803, 40, true, .exists_⟩, r)
  | .loopReset r => some (⟨0x0804, 8, false, .any⟩, r)
  | .computeReset r => some (⟨0x0805, 0, false, .any⟩, r)
  | .returnToService r => some (⟨0x0806, 0, false, .any⟩, r)
  | .fwWrite r => some (⟨0x0901, 16, false, .any⟩, r)
  | .fwCommit r => some (⟨0x0902, 8, false, .any⟩, r)
  | .fwStatus r => some (⟨0x0903, 0, true, .any⟩, r)
  | .attest r => some (⟨0x0A01, 48, true, .any⟩, r)
  | .certRead r => some (⟨0x0A02, 16, true, .any⟩, r)
  | .lcLifeRead r => some (⟨0x0B01, 16, false, .any⟩, r)
  | .lcSwap r => some (⟨0x0B02, 8, false, .any⟩, r)
  | .lcRecommission r _ => some (⟨0x0B03, 8, false, .any⟩, r)
  | .lcPowerRetry r _ => some (⟨0x0B04, 0, false, .any⟩, r)
  | .fbCopy r => some (⟨0x0C01, 16, false, .any⟩, r)
  | .dumpCopy r => some (⟨0x0C02, 24, false, .any⟩, r)
  | _ => none

/-- The first check of R454 that a request fails, of steps 1 to 7. -/
def refusal (s : State) (cmd : Cmd) (r : Req) : Option Status :=
  if hdrSeq r.header ≠ r.post.toNat then some stSequence
  else if hdrReserved r.header then some stReserved
  else if hdrLen r.header ≠ cmd.len then some stLength
  else if r.fn ≠ 0 ∧ (cmd.own = false ∨ bit r.header 27 = true) then some stNotPermitted
  else if opServed s cmd.op = false then some stOutOfService
  else needFail cmd.need (getCtx s (reqCtx r)).run

/-! ### Memory -/

/-- Memory is in its canonical form. -/
def Memory.wf (m : Memory) : Bool := Cells.wf m.bytes

/-- The byte that a local physical address holds (R225). -/
def byteAt (s : State) (a : Nat) : Byte := cget 0 s.mem.bytes a

/-! ### Tile words, memory frames -/

/-- A tile of a RUNNING context runs word `w` alone, its fields paired as R152 and R153 ask; `u` is the state in which its units act:
after the block start where ACC_OP asks for one (R118, R126, R533), else `s` itself. -/
def WordRuns (s : State) (o : TileOp) (w : TW) (u : State) : Prop :=
  (∃ t, physTile (getCtx s o.ctx) o.tile = some t ∧ w = soloTW (getCtx s o.ctx) o t)
    ∧ (getCtx s o.ctx).run = .running ∧ s.pkg.computeReset = false ∧ pairingOk o.rw = true
    ∧ (if twAccOp o.sw = 1 then
         pairOk (getCtx s o.ctx) o.sw = true ∧ (twSet s w).held = false
         ∧ u = putTwSet s w { started := true, p := 0, held := false, blk := twBlk w.sw, start := (getCtx s o.ctx).is.issued,
                              recA := twRec s w, recB := (getCtx s o.ctx).recipes.act.getD (rcPair (twRec s w)) 0,
                              inBad := false, tries := 0, pairs := [] }
       else u = s)

/-- Outside [a, a + n) every byte of memory reads as before. -/
def BytesKept (s t : State) (a n : Nat) : Prop := ∀ x, x < a ∨ a + n ≤ x → byteAt t x = byteAt s x

end Sys2Proof.Machine
end

