-- ==== Sys2Proof/Certificates/Slice0/Obligations.lean ====
section
/-! DEFINITION. The statements for the provers: what the block does with each command, in the terms of `Safety`. -/

open Sys2Proof Sys2Proof.Machine

/-! ### The queue -/

/-- A step takes the command at the front of the queue and runs it with the queue's rest; with none waiting the block idles, which is
the model's choice (log 2). -/
def Obligations.StepRunsFrontCommand : Prop :=
  ∀ s : State, (∀ c rest, s.pending = c :: rest → step s = exec c { s with pending := rest }) ∧ (s.pending = [] → step s = .next s)

/-! ### Mailbox commands: contexts and mappings -/

/-- R415, R414, R416: an accepted CTX_CREATE makes an IDLE context with the named resources and everything else as at creation;
CTX_ALLOT replaces the movers, update units, die-store and HBM units of an IDLE context, whose columns stay. -/
def Obligations.ContextCreationAndAllotment : Prop :=
  ∀ (s : State) (r : Req), AllotFree s (reqCtx r) r.payload →
    (Accepts s r 0x0101 112 false .absent → pf r.payload 0 4 ≠ 0 →
      exec (.ctxCreate r) s = .next (okTo r (setCtx (posted s r) (reqCtx r) { Ctx.init with run := .idle, res := resOf r.payload })))
    ∧ (Accepts s r 0x0104 112 false .idle → pf r.payload 0 4 = (getCtx s (reqCtx r)).res.cols.toNat →
      (∀ u ∈ dsInUse s (getCtx s (reqCtx r)), pf r.payload 16 12 >>> u % 2 = 1) →
      (∀ u ∈ mappedUnits s (getCtx s (reqCtx r)), pf r.payload 40 72 >>> u % 2 = 1) →
      exec (.ctxAllot r) s =
        .next (okTo r (setCtx (posted s r) (reqCtx r) { getCtx s (reqCtx r) with res := resOf r.payload })))

/-- Table 12.10: an accepted SET_SR_SEED sets the target context's seed, SET_SPARSE its four SPW registers once the checks of Table 4.5
and R169 pass for each, SLIP_CLEAR clears its slip counters and STOP asks it to stop; each answers ok. CTX_QUERY changes nothing
but its mailbox and answers the context's state. -/
def Obligations.ContextSettings : Prop :=
  ∀ (s : State) (r : Req),
    (Accepts s r 0x0106 8 true .idle →
      exec (.setSrSeed r) s = .next (okTo r (modCtx (posted s r) (reqCtx r) fun x => { x with srSeed := recAt 64 r.payload 0 })))
    ∧ (Accepts s r 0x0107 32 true .idle →
      (∀ n < 4, ∀ k ∈ spwChecks ((List.range 4).map fun m => recAt 64 r.payload (8 * m)) n, k.2.1 = false) →
      exec (.setSparse r) s = .next (okTo r (modCtx (posted s r) (reqCtx r) fun x =>
        { x with spw := (List.range 4).map fun m => recAt 64 r.payload (8 * m) })))
    ∧ (Accepts s r 0x0405 0 true .exists_ →
      exec (.slipClear r) s = .next (okTo r (modCtx (posted s r) (reqCtx r) fun x => { x with slips := [], slipOther := 0 })))
    ∧ (Accepts s r 0x0402 0 true .running →
      exec (.stop r) s = .next (okTo r (modCtx (posted s r) (reqCtx r) fun x => { x with is := { x.is with stopReq := true } })))
    ∧ (Accepts s r 0x0105 0 true .any →
      exec (.ctxQuery r) s = .next (payTo r
        (let x := getCtx s (reqCtx r)
         leBytes 1 (runCode x.run) ++ leBytes 1 0 ++ leBytes 2 x.stop.toNat ++ leBytes 2 x.epoch.toNat ++ leBytes 1 x.pend.toNat
          ++ leBytes 1 0 ++ leBytes 8 x.fr.num.toNat ++ leBytes 4 x.res.cols.toNat ++ leBytes 4 0 ++ leBytes 8 x.res.movers.toNat)
        (posted s r)))

/-- R417, R420: an accepted CTX_RESET or CTX_DESTROY asks for the context's reset and leaves its answer for the end of it. What asking
does: a RUNNING context waits for its next beat boundary, a context IDLE or STOPPED enters RESETTING at once with its epoch raised by
one, its pending swaps and queued requests dropped (an update request between two quiesce points stays until the reset is done, R219),
and a context already RESETTING raises no second epoch. -/
def Obligations.ContextResetsBegin : Prop :=
  ∀ (s : State) (r : Req),
    (Accepts s r 0x0103 0 true .exists_ →
      exec (.ctxReset r) s = .next (waits r (.reset (reqCtx r))
        (requestReset (posted s r) (reqCtx r) ⟨0, some r.fn, false, s.clk.mastNs, 0⟩)))
    ∧ (Accepts s r 0x0102 0 false .exists_ →
      exec (.ctxDestroy r) s = .next (waits r (.destroy (reqCtx r))
        (requestReset (posted s r) (reqCtx r) ⟨6, some r.fn, true, s.clk.mastNs, 0⟩)))
    ∧ ∀ (c : CtxId) (k : ResetInfo),
      ((getCtx s c).run = .running → (getCtx s c).is.reset = none →
        requestReset s c k = setCtx s c { getCtx s c with is := { (getCtx s c).is with reset := some k } })
      ∧ ((getCtx s c).run = .idle ∨ (getCtx s c).run = .stopped →
        (getCtx (requestReset s c k) c).run = .resetting ∧ (getCtx (requestReset s c k) c).epoch = (getCtx s c).epoch + 1
          ∧ (getCtx (requestReset s c k) c).queue = (getCtx s c).queue.filter midVector ∧ (getCtx (requestReset s c k) c).pend = 0)
      ∧ ((getCtx s c).run = .resetting → (getCtx (requestReset s c k) c).epoch = (getCtx s c).epoch)

/-- R226 to R232: an accepted MAP whose range and target pass the rules of R228 adds a leaf for each page, after the zero-fill of a
marked local page; an accepted UNMAP of a range that is mapped whole and in no grant removes its leaves at once, and while a request
in service holds a translation of the range its answer waits, else the pages are zero-filled under R231 and the answer is ok. Adding
a leaf puts it in the context's mapping, and of a 1 GiB leaf its `XPTE` stands in the level-1 table; removing one takes it out. -/
def Obligations.MapAndUnmap : Prop :=
  ∀ (s : State) (r : Req) (va b pages sz wr : Nat), va = pf r.payload 0 8 →
    (Accepts s r 0x0201 24 true .exists_ → b = pf r.payload 8 8 → pages = pf r.payload 16 4 → sz = pf r.payload 20 1 →
      wr = pf r.payload 21 1 → pf r.payload 22 2 = 0 → pages ≠ 0 → sz ≤ 1 → wr ≤ 1 → va % pageSize sz = 0 →
      va + pages * pageSize sz ≤ 2 ^ 48 → b < 2 ^ 43 →
      (∀ l ∈ (getCtx s (reqCtx r)).maps, overlap l.va l.size va (pages * pageSize sz) = false) →
      (∀ w ∈ [(getCtx s (reqCtx r)).ret.act, (getCtx s (reqCtx r)).ret.sha],
        retLen w ≠ 0 → overlap (fld w 511 448) (retLen w) va (pages * pageSize sz) = false) →
      targetOk s (reqCtx r) b (pages * pageSize sz) sz wr = true →
      (sz = 0 → l2Tables s + l2New (getCtx s (reqCtx r)) va (pages * pageSize sz) ≤ 16384) →
      exec (.map r) s = .next (okTo r
        (((List.range pages).map fun i => (⟨va + i * pageSize sz, b + i * pageSize sz, sz == 1, wr == 1⟩ : Leaf)).foldl
          (addLeaf (reqCtx r)) (if isLocal s b then unmark (posted s r) b (pages * pageSize sz) else posted s r))))
    ∧ (Accepts s r 0x0202 16 true .exists_ → pages = pf r.payload 8 4 → sz = pf r.payload 12 1 → pf r.payload 13 3 = 0 →
      pages ≠ 0 → sz ≤ 1 → va % pageSize sz = 0 →
      let x := getCtx s (reqCtx r)
      let gone := x.maps.filter fun l => l.big == (sz == 1) && decide (va ≤ l.va) && decide (l.va < va + pages * pageSize sz)
      let d : Drain := ⟨r.fn, gone, false, s.clk.mastNs⟩
      gone.length = pages → (∀ l ∈ gone, granted s (reqCtx r) l = false) →
      exec (.unmap r) s = .next
        (if drainHeld x d then
          waits r (.unmap (reqCtx r))
            (modCtx (gone.foldl (dropLeaf (reqCtx r)) (posted s r)) (reqCtx r) fun x => { x with drains := x.drains ++ [d] })
         else okTo r (zeroFill (gone.foldl (dropLeaf (reqCtx r)) (posted s r)) gone)))
    ∧ ∀ (c : CtxId) (l : Leaf),
      (getCtx (addLeaf c s l) c).maps = (getCtx s c).maps ++ [l]
      ∧ (getCtx (dropLeaf c s l) c).maps = (getCtx s c).maps.filter (· != l)
      ∧ (l.big = true → ∀ k < 8, byteAt (addLeaf c s l) (l1Entry c.val l.va + k) = (leBytes 8 (xpte l.addr l.wr 2).toNat).getD k 0)

/-- R231, R232: when the requests that hold a range have finished, each drain that no request holds any more ends with the zero-fill
of its pages and the answer ok; a drain still held at UNMAP_RANGE_BUSY is answered range-busy and goes on. -/
def Obligations.UnmapDrainsEnd : Prop :=
  ∀ (s : State) (c : CtxId) (d : Drain), (getCtx s c).drains = [d] → (getFn s d.fn).busy = some (.unmap c) → d.late = false →
    (drainHeld (getCtx s c) d = false →
      exec (.unmapDrainComplete c) s = .next (answer (zeroFill (setCtx s c { getCtx s c with drains := [] }) d.leaves) d.fn .ok))
    ∧ (drainHeld (getCtx s c) d = true →
      exec (.unmapRangeBusy c) s =
        .next (answer (setCtx s c { getCtx s c with drains := [{ d with late := true }] }) d.fn (.fail stRangeBusy noField)))

/-- R261, R448, R257: an accepted GRANT of mapped local HBM or die store takes the lowest free BWIN register and answers its index; REVOKE of a
register that the target context owns clears it; BAR2_CFG with a mode and base that R448 allows sets the window of the target
context's function; REMAP_APPLY, while no context exists, repairs each queued row in turn and answers the two counts. -/
def Obligations.GrantsWindowsRemap : Prop :=
  ∀ (s : State) (r : Req),
    (∀ base len planes wr i, base = pf r.payload 0 4 → len = pf r.payload 4 4 → planes = pf r.payload 8 1 → wr = pf r.payload 10 1 →
      Accepts s r 0x0203 16 true .exists_ → 0 < len → len < 2 ^ 19 → wr ≤ 1 → pf r.payload 11 5 = 0 →
      planes >>> s.pins.plane.val % 2 = 0 →
      (isHbm (base * 0x200000) = true ∧ base * 0x200000 + len * 0x200000 ≤ hbmEnd
        ∨ ∃ d o, place (base * 0x200000) = some (.die d o) ∧ base * 0x200000 + len * 0x200000 ≤ dieBase d + dieSize) →
      grantMapped s (getCtx s (reqCtx r)) base len wr = true →
      (List.range 64).find? (fun i => !bit (tget 0 s.mem.bwin i) 0) = some i →
      exec (.grant r) s = .next (payTo r (leBytes 8 i) (modMem (posted s r) fun m => { m with bwin := tput m.bwin i (BitVec.ofNat 64
        (base * 2 ^ 45 + len * 2 ^ 26 + planes * 2 ^ 18 + pf r.payload 9 1 * 2 ^ 10 + (reqCtx r).val * 2 ^ 7 + wr * 2 + 1)) })))
    ∧ (Accepts s r 0x0204 8 true .exists_ → pf r.payload 1 7 = 0 → bit (tget 0 s.mem.bwin (pf r.payload 0 1)) 0 = true →
      fld (tget 0 s.mem.bwin (pf r.payload 0 1)) 9 7 = (reqCtx r).val →
      exec (.revoke r) s = .next (okTo r (modMem (posted s r) fun m => { m with bwin := tdel m.bwin (pf r.payload 0 1) })))
    ∧ (∀ mode base, mode = pf r.payload 0 1 → base = pf r.payload 8 8 →
      Accepts s r 0x0205 16 true .any → mode ≤ 2 → (mode = 1 → (getCtx s (reqCtx r)).run ≠ .none) → (mode = 2 → reqCtx r = 0) →
      pf r.payload 1 7 = 0 → (mode ≠ 0 → base % 2 ^ (getFn s (reqCtx r)).bar2Log = 0
        ∧ base + 2 ^ (getFn s (reqCtx r)).bar2Log ≤ if mode = 1 then 2 ^ 48 else 2 ^ 40) →
      exec (.bar2Cfg r) s = .next (okTo r (modFn (posted s r) (reqCtx r) fun f =>
        { f with bar2Mode := mode, bar2Base := BitVec.ofNat 64 (if mode = 0 then 0 else base) })))
    ∧ (Accepts s r 0x0206 0 false .any → existing s = [] →
      exec (.remapApply r) s = .next
        (let u := s.mem.remapQ.foldl remapRow (posted s r, 0, 0)
         payTo r (leBytes 4 u.2.1 ++ leBytes 4 u.2.2) u.1))

/-! ### Mailbox commands: banks and run control -/

/-- R462, R39, R208: an accepted load whose fields pass fills the shadow of its configuration and nothing else, while no swap of that
configuration is pending; LOAD_SLOTLIB and LOAD_UPDATE with an image read their buffer first, and answer what that read fails with.
LOAD_UPDATE by number takes the program of the Oxward library, and one that the library does not name is unknown. While a swap of
the configuration is pending each of the six with such fields answers swap-pending and does nothing. -/
def Obligations.LoadsFillShadows : Prop :=
  ∀ (s : State) (r : Req) (p : List Byte) (c : CtxId), p = r.payload → c = reqCtx r →
    (Accepts s r 0x0301 72 true .live → swapPending s c 0 = false → pf p 0 8 % 64 = 0 → pf p 0 8 < 2 ^ 48 →
      exec (.loadProgram r) s = .next (okTo r (modCtx (posted s r) c fun x => { x with prog := { x.prog with
        sha := ⟨true, BitVec.ofNat 64 (pf p 0 8), (List.range 16).map fun n => BitVec.ofNat 32 (pf p (8 + 4 * n) 4), 0⟩ } })))
    ∧ (∀ u bs, Accepts s r 0x0302 48 true .live → swapPending s c 1 = false → pf p 0 1 ≤ 1 → pf p 1 7 = 0 → pf p 8 8 % 64 = 0 →
      (pf p 0 1 = 0 → pf p 8 8 < 2 ^ 48) → pf p 16 32 ≠ 0 → pf p 16 32 < 2 ^ nTiles (getCtx s c) →
      fetchBuf (posted s r) c (pf p 0 1) (pf p 8 8) 32768 8 = (u, .ok bs) →
      exec (.loadSlotlib r) s = .next (okTo r (modCtx u c fun x => { x with lib := { x.lib with
        sha := (bitsOf 256 (pf p 16 32)).foldl (fun m t => cwrite m (32768 * t) bs) x.lib.sha } })))
    ∧ (∀ u a, Accepts s r 0x0302 48 true .live → swapPending s c 1 = false → pf p 0 1 ≤ 1 → pf p 1 7 = 0 → pf p 8 8 % 64 = 0 →
      (pf p 0 1 = 0 → pf p 8 8 < 2 ^ 48) → pf p 16 32 ≠ 0 → pf p 16 32 < 2 ^ nTiles (getCtx s c) →
      fetchBuf (posted s r) c (pf p 0 1) (pf p 8 8) 32768 8 = (u, .error a) →
      exec (.loadSlotlib r) s = .next (answer u r.fn a))
    ∧ (Accepts s r 0x0303 256 true .live → swapPending s c 2 = false →
      exec (.loadRecipes r) s = .next (okTo r (modCtx (posted s r) c fun x => { x with recipes := { x.recipes with
        sha := (List.range 32).map fun n => recAt 64 p (8 * n) } })))
    ∧ (Accepts s r 0x0304 64 true .live → swapPending s c 3 = false →
      exec (.loadRetention r) s = .next (okTo r (modCtx (posted s r) c fun x => { x with ret := { x.ret with sha := recAt 512 p 0 } })))
    ∧ (Accepts s r 0x0305 2048 true .live → swapPending s c 4 = false →
      exec (.loadDispatch r) s = .next (okTo r (modCtx (posted s r) c fun x => { x with disp := { x.disp with
        sha := (List.range 64).map fun n => recAt 256 p (32 * n) } })))
    ∧ (∀ u bs, Accepts s r 0x0306 24 true .live → swapPending s c 5 = false → pf p 0 1 = 0 → pf p 1 1 ≤ 1 → 68 ≤ pf p 2 2 →
      pf p 2 2 ≤ 4160 → pf p 2 2 % 4 = 0 → pf p 4 4 = 0 → (pf p 1 1 = 0 → pf p 8 8 < 2 ^ 48) → pf p 20 4 = 0 →
      fetchBuf (posted s r) c (pf p 1 1) (pf p 8 8) (pf p 2 2) 8 = (u, .ok bs) →
      exec (.loadUpdate r) s = .next (okTo r (modCtx u c fun x => { x with updp := { x.updp with sha := bs } })))
    ∧ (∀ u a, Accepts s r 0x0306 24 true .live → swapPending s c 5 = false → pf p 0 1 = 0 → pf p 1 1 ≤ 1 → 68 ≤ pf p 2 2 →
      pf p 2 2 ≤ 4160 → pf p 2 2 % 4 = 0 → pf p 4 4 = 0 → (pf p 1 1 = 0 → pf p 8 8 < 2 ^ 48) → pf p 20 4 = 0 →
      fetchBuf (posted s r) c (pf p 1 1) (pf p 8 8) (pf p 2 2) 8 = (u, .error a) →
      exec (.loadUpdate r) s = .next (answer u r.fn a))
    ∧ (Accepts s r 0x0306 24 true .live → swapPending s c 5 = false → pf p 0 1 = 1 → pf p 1 1 = 0 → pf p 2 2 = 0 → pf p 4 4 = 0 →
      pf p 8 8 = 0 → pf p 20 4 = 0 →
      exec (.loadUpdate r) s = .next (match Config.updateLibrary (BitVec.ofNat 32 (pf p 16 4)) with
        | some img => okTo r (modCtx (posted s r) c fun x => { x with updp := { x.updp with sha := img } })
        | none => answer (posted s r) r.fn (.fail stLibUnknown 128)))
    ∧ (Accepts s r 0x0301 72 true .live → swapPending s c 0 = true → pf p 0 8 % 64 = 0 → pf p 0 8 < 2 ^ 48 →
      exec (.loadProgram r) s = .next (answer (posted s r) r.fn (.fail stSwapPending noField)))
    ∧ (Accepts s r 0x0302 48 true .live → swapPending s c 1 = true → pf p 0 1 ≤ 1 → pf p 1 7 = 0 → pf p 8 8 % 64 = 0 →
      (pf p 0 1 = 0 → pf p 8 8 < 2 ^ 48) → pf p 16 32 ≠ 0 → pf p 16 32 < 2 ^ nTiles (getCtx s c) →
      exec (.loadSlotlib r) s = .next (answer (posted s r) r.fn (.fail stSwapPending noField)))
    ∧ (Accepts s r 0x0303 256 true .live → swapPending s c 2 = true →
      exec (.loadRecipes r) s = .next (answer (posted s r) r.fn (.fail stSwapPending noField)))
    ∧ (Accepts s r 0x0304 64 true .live → swapPending s c 3 = true →
      exec (.loadRetention r) s = .next (answer (posted s r) r.fn (.fail stSwapPending noField)))
    ∧ (Accepts s r 0x0305 2048 true .live → swapPending s c 4 = true →
      exec (.loadDispatch r) s = .next (answer (posted s r) r.fn (.fail stSwapPending noField)))
    ∧ (Accepts s r 0x0306 24 true .live → swapPending s c 5 = true → pf p 0 1 = 0 → pf p 1 1 ≤ 1 → 68 ≤ pf p 2 2 →
      pf p 2 2 ≤ 4160 → pf p 2 2 % 4 = 0 → pf p 4 4 = 0 → (pf p 1 1 = 0 → pf p 8 8 < 2 ^ 48) → pf p 20 4 = 0 →
      exec (.loadUpdate r) s = .next (answer (posted s r) r.fn (.fail stSwapPending noField)))

/-- R459, R40 to R43: an accepted SWAP of configurations of which none has a swap pending checks every shadow it names, and answers the
first check that fails; if all pass, on an IDLE context the swaps take effect at once, with their event, and on a RUNNING one they
are pending for the tick. WITHDRAW takes the pending swaps of its mask back and answers those that had taken effect, each of them
once: none withdrawn is reported again. -/
def Obligations.SwapAndWithdraw : Prop :=
  ∀ (s : State) (r : Req) (mask : Nat) (c : CtxId), mask = pf r.payload 0 1 → c = reqCtx r → mask ≠ 0 → mask ≤ 63 →
    pf r.payload 1 7 = 0 →
    (∀ u, Accepts s r 0x0403 8 true .idleOrRunning → mask &&& (getCtx s c).pend.toNat = 0 →
      (bitsOf 6 mask).foldl (checkBank c) (posted s r, none) = (u, none) →
      exec (.swap r) s = .next (okTo r
        (if (getCtx u c).run = .idle then
          raise (modCtx u c fun x => swapCtx x mask) (ctxEvent c evSwapApplied mask (getCtx u c).fr.num.toNat 0 0 0)
         else modCtx u c fun x => { x with pend := x.pend ||| BitVec.ofNat 8 mask })))
    ∧ (∀ u b, Accepts s r 0x0403 8 true .idleOrRunning → mask &&& (getCtx s c).pend.toNat = 0 →
      (bitsOf 6 mask).foldl (checkBank c) (posted s r, none) = (u, some b) →
      exec (.swap r) s = .next (answer u r.fn b.ans))
    ∧ (Accepts s r 0x0404 8 true .exists_ →
      exec (.withdraw r) s = .next (answer
        (setCtx (posted s r) c { getCtx s c with
          pend := (getCtx s c).pend &&& ~~~(BitVec.ofNat 8 mask)
          applied := (getCtx s c).applied &&& ~~~(BitVec.ofNat 8 mask) }) r.fn
        ⟨if (getCtx s c).applied.toNat &&& mask = 0 then stOk else stSwapTook, noField, leBytes 8 ((getCtx s c).applied.toNat &&& mask)⟩))

/-- R42: a swap exchanges active and shadow bank of exactly the configurations of its mask, contents unchanged; the same swap again
puts them back. -/
def Obligations.SwapExchangesBanks : Prop :=
  ∀ (x : Ctx) (mask : Nat), mask ≤ 63 →
    let y := swapCtx x mask
    let on := fun k : Nat => mask >>> k % 2 = 1
    (on 0 → y.prog.act = x.prog.sha ∧ y.prog.sha = x.prog.act ∧ y.is.fresh = true) ∧ (¬on 0 → y.prog = x.prog ∧ y.is = x.is)
    ∧ (on 1 → y.lib.act = x.lib.sha ∧ y.lib.sha = x.lib.act) ∧ (¬on 1 → y.lib = x.lib)
    ∧ (on 2 → y.recipes.act = x.recipes.sha ∧ y.recipes.sha = x.recipes.act) ∧ (¬on 2 → y.recipes = x.recipes)
    ∧ (on 3 → y.ret.act = x.ret.sha ∧ y.ret.sha = x.ret.act) ∧ (¬on 3 → y.ret = x.ret)
    ∧ (on 4 → y.disp.act = x.disp.sha ∧ y.disp.sha = x.disp.act) ∧ (¬on 4 → y.disp = x.disp)
    ∧ (on 5 → y.updp.act = x.updp.sha ∧ y.updp.sha = x.updp.act) ∧ (¬on 5 → y.updp = x.updp)
    ∧ y.pend &&& BitVec.ofNat 8 mask = 0 ∧ y.applied = x.applied ||| BitVec.ofNat 8 mask
    ∧ y.maps = x.maps ∧ y.tokens = x.tokens ∧ y.run = x.run ∧ y.queue = x.queue
    ∧ (swapCtx y mask).prog = x.prog ∧ (swapCtx y mask).lib = x.lib ∧ (swapCtx y mask).recipes = x.recipes
    ∧ (swapCtx y mask).ret = x.ret ∧ (swapCtx y mask).disp = x.disp ∧ (swapCtx y mask).updp = x.updp

/-- R459, R474: an accepted RUN starts an IDLE context that has an active program, at ENTRY16 after a program swap, and answers
context-state when there is none; PHASE_EXPORT sets the export buffer to a range of writable local HBM pages, or to none. -/
def Obligations.RunAndPhaseExport : Prop :=
  ∀ (s : State) (r : Req) (c : CtxId), c = reqCtx r →
    (Accepts s r 0x0401 8 true .idle → pf r.payload 0 1 ≤ 1 → pf r.payload 1 7 = 0 → (getCtx s c).prog.act.valid = true →
      let x := if (getCtx s c).is.fresh then restart (getCtx s c) else getCtx s c
      exec (.run r) s = .next (okTo r (setCtx (posted s r) c { x with
        run := .running, is := { x.is with tickIrq := pf r.payload 0 1 == 1, stopReq := false } })))
    ∧ (Accepts s r 0x0401 8 true .idle → pf r.payload 0 1 ≤ 1 → pf r.payload 1 7 = 0 → (getCtx s c).prog.act.valid = false →
      exec (.run r) s = .next (answer (posted s r) r.fn (.fail stCtxState noField)))
    ∧ (∀ va n, va = pf r.payload 0 8 → n = pf r.payload 8 4 → Accepts s r 0x0406 16 true .idle → pf r.payload 12 4 = 0 →
      (n ≠ 0 → va % 64 = 0 ∧ va + 576 * n ≤ 2 ^ 48 ∧ rangeOk s (getCtx s c) (getCtx s c).ret.act false false va (576 * n) = true
        ∧ hbmWritable s (getCtx s c) va (576 * n) = true) →
      exec (.phaseExport r) s = .next (okTo r (setCtx (posted s r) c { getCtx s c with
        expVa := BitVec.ofNat 64 va, expN := BitVec.ofNat 32 n })))

/-! ### Mailbox commands: plan, policy, fence -/

/-- R311, R312, R43, R455: with no plan swap pending, an accepted PLAN_WRITE lays host bytes into the shadow plan image, SETPOINT_WRITE
sets the shadow set-points, and PLAN_SWAP checks the images in the order of Table 8.6 and, with its staging complete, leaves the swap
to slot T; while one is pending each of the three answers swap-pending. PLAN_WITHDRAW before slot T − 1 takes a pending swap back;
from then on the swap counts as having taken effect, and one answer says so: the next PLAN_WITHDRAW answers ok. -/
def Obligations.PlanCommands : Prop :=
  ∀ (s : State) (r : Req),
    (∀ off len, off = pf r.payload 0 4 → len = pf r.payload 4 4 → Accepts s r 0x0501 16 false .any → len ≠ 0 →
      off + len ≤ planSize → s.fab.pendT = none →
      exec (.planWrite r) s = .next
        (if hostOk s (pf r.payload 8 8) len then
          okTo r (modFab (posted s r) fun f => { f with
            planS := cwrite f.planS off (creadD Config.hostByte s.host (pf r.payload 8 8) len) })
         else answer (posted s r) r.fn (.fail stHostDma noField)))
    ∧ (Accepts s r 0x0502 192 false .any → s.fab.pendT = none →
      exec (.setpointWrite r) s = .next (okTo r (modOpt (posted s r) fun o => { o with sp := { o.sp with sha := recList 64 24 r.payload } })))
    ∧ (∀ t staged, t = pf r.payload 0 8 → Accepts s r 0x0503 8 false .any → t < 2 ^ 48 → s.clk.planSlot.toNat + 1953125 ≤ t →
      s.fab.pendT = none →
      exec (.planSwap r staged) s = .next
        (match planChecks s (planShadow s) s.optics.sp.sha with
         | some b => answer (posted s r) r.fn b.ans
         | none =>
           if newlyOn s s.optics.sp.sha ≠ [] ∧ ¬(staged = true ∧ s.pins.lcPwrEn = true) then
             answer (posted s r) r.fn (.fail stOpticsNot noField)
           else okTo r (retime (modFab (stage (posted s r) s.optics.sp.sha) fun f => { f with
             pendT := some t, nextPlan := some (planShadow s), told := false }))))
    ∧ (∀ off len, off = pf r.payload 0 4 → len = pf r.payload 4 4 → Accepts s r 0x0501 16 false .any → len ≠ 0 →
      off + len ≤ planSize → s.fab.pendT ≠ none →
      exec (.planWrite r) s = .next (answer (posted s r) r.fn (.fail stSwapPending noField)))
    ∧ (Accepts s r 0x0502 192 false .any → s.fab.pendT ≠ none →
      exec (.setpointWrite r) s = .next (answer (posted s r) r.fn (.fail stSwapPending noField)))
    ∧ (∀ t staged, t = pf r.payload 0 8 → Accepts s r 0x0503 8 false .any → t < 2 ^ 48 → s.clk.planSlot.toNat + 1953125 ≤ t →
      s.fab.pendT ≠ none →
      exec (.planSwap r staged) s = .next (answer (posted s r) r.fn (.fail stSwapPending noField)))
    ∧ (∀ t, Accepts s r 0x0504 0 false .any → s.fab.pendT = some t → s.clk.planSlot.toNat + 1 < t → s.fab.applied = false →
      exec (.planWithdraw r) s = .next (payTo r (leBytes 8 0)
        (retime (modOpt (modFab (posted s r) fun f => { f with pendT := none, nextPlan := none, applied := false, told := f.told })
          fun o => { o with due := [] }))))
    ∧ (∀ t, Accepts s r 0x0504 0 false .any → s.fab.pendT = some t → t ≤ s.clk.planSlot.toNat + 1 →
      exec (.planWithdraw r) s = .next (answer (modFab (posted s r) fun f => { f with applied := false, told := true }) r.fn
        (if s.fab.applied = true ∨ s.fab.told = false then ⟨stSwapTook, noField, leBytes 8 1⟩ else .pay_ (leBytes 8 0))))
    ∧ (Accepts s r 0x0504 0 false .any → s.fab.pendT = none →
      exec (.planWithdraw r) s = .next (answer (modFab (posted s r) fun f => { f with nextPlan := f.nextPlan, applied := false }) r.fn
        (if s.fab.applied = true then ⟨stSwapTook, noField, leBytes 8 1⟩ else .pay_ (leBytes 8 0))))

/-- R395, R412, R426: with no policy swap pending an accepted REEF_WRITE sets the shadow policy, and REEF_SWAP leaves the swap to the
next interval boundary once the shadow passes its checks, else it answers the first that fails; REEF_FLOOR within its ranges sets the
partition floor and its end, ESC_WRITE the escalation policy. While a policy swap is pending the first two answer swap-pending. -/
def Obligations.PolicyCommands : Prop :=
  ∀ (s : State) (r : Req),
    (Accepts s r 0x0505 16 false .any → s.reef.polPend = false →
      exec (.reefWrite r) s = .next (okTo r (modReef (posted s r) fun f => { f with pol := { f.pol with sha := recAt 128 r.payload 0 } })))
    ∧ (Accepts s r 0x0506 0 false .any → s.reef.polPend = false → (∀ k ∈ reefPolChecks s.reef.pol.sha, k.2.1 = false) →
      exec (.reefSwap r) s = .next (okTo r (modReef (posted s r) fun f => { f with polPend := true })))
    ∧ (∀ k, Accepts s r 0x0506 0 false .any → s.reef.polPend = false →
      (reefPolChecks s.reef.pol.sha).find? (fun k => k.2.1) = some k →
      exec (.reefSwap r) s = .next (answer (posted s r) r.fn (.failRec k.2.2 k.1)))
    ∧ (Accepts s r 0x0505 16 false .any → s.reef.polPend = true →
      exec (.reefWrite r) s = .next (answer (posted s r) r.fn (.fail stSwapPending noField)))
    ∧ (Accepts s r 0x0506 0 false .any → s.reef.polPend = true →
      exec (.reefSwap r) s = .next (answer (posted s r) r.fn (.fail stSwapPending noField)))
    ∧ (∀ level ms, level = pf r.payload 0 1 → ms = pf r.payload 2 2 → Accepts s r 0x0508 8 false .any → level ≤ 15 → 1 ≤ ms →
      ms ≤ 60000 → pf r.payload 1 1 = 0 → pf r.payload 4 4 = 0 →
      exec (.reefFloor r) s =
        .next (okTo r (modReef (posted s r) fun f => { f with partFloor := some (level, s.clk.mastNs + 1000000 * ms) })))
    ∧ (∀ v, v = pf r.payload 0 4 → Accepts s r 0x0507 4 false .any → v % 2 ^ 16 = 0 → 1 ≤ v / 2 ^ 16 % 2 ^ 12 →
      v / 2 ^ 16 % 2 ^ 12 ≤ 3600 → 1 ≤ v / 2 ^ 28 →
      exec (.escWrite r) s = .next (okTo r (modHal (posted s r) fun h => { h with escPol := BitVec.ofNat 32 v })))

/-- R342 to R345, R467 to R469: an accepted FENCE fences the package; LEASE takes an acceptable record and discards and counts any other
(one with a reserved bit set apart, which is answered); UNFENCE with an acceptable record takes it and ends the fence, and with any
other answers the first check that fails, counting one that is no lease of this package; EVENT_RING sets up an empty ring. -/
def Obligations.FenceLeaseRing : Prop :=
  ∀ (s : State) (r : Req),
    (Accepts s r 0x0601 0 false .any → exec (.fence r) s = .next (okTo r (fence (posted s r))))
    ∧ (Accepts s r 0x0603 32 false .any → fld (recAt 256 r.payload 0) 99 0 = 0 →
      exec (.lease r) s = .next (okTo r
        (if ∀ k ∈ leaseChecks s (recAt 256 r.payload 0), k.2.1 = false then leaseTake (posted s r) (recAt 256 r.payload 0)
         else modFab (posted s r) fun f => { f with leaseBad := f.leaseBad + 1 })))
    ∧ (Accepts s r 0x0602 32 false .any → (∀ k ∈ leaseChecks s (recAt 256 r.payload 0), k.2.1 = false) →
      exec (.unfence r) s = .next (okTo r (unfence (leaseTake (posted s r) (recAt 256 r.payload 0)))))
    ∧ (∀ k, Accepts s r 0x0602 32 false .any → (leaseChecks s (recAt 256 r.payload 0)).find? (fun k => k.2.1) = some k →
      exec (.unfence r) s = .next (answer (if k.2.2 = stLease then leaseCount (posted s r) else posted s r) r.fn (.fail k.2.2 k.1)))
    ∧ (∀ addr nent scope, addr = pf r.payload 0 8 → nent = pf r.payload 8 4 → scope = pf r.payload 14 1 →
      Accepts s r 0x0701 16 true .any → addr % 4096 = 0 → (nent = 0 ∨ 64 ≤ nent ∧ nent ≤ 65536) → scope ≤ 3 →
      (reqCtx r = 0 ∨ scope = 0) → pf r.payload 15 1 = 0 →
      exec (.eventRing r) s = .next (okTo r (modFn (posted s r) (reqCtx r) fun f => { f with
        ringAddr := BitVec.ofNat 64 addr, nent := BitVec.ofNat 32 nent, modUs := BitVec.ofNat 16 (pf r.payload 12 2),
        scope := BitVec.ofNat 8 scope, evtHead := 0, evtTail := 0, evSeq := 0, lost := 0, annDue := false })))

/-! ### Mailbox commands: diagnostics, compute reset, firmware, attestation, cartridge -/

/-- R433 to R435, R438, R465, R274: an accepted DUMP writes a dump and answers its slot, DUMP_RELEASE frees a slot, TRACE arms tracing
into a buffer of writable HBM, FB_COPY and DUMP_COPY within their bounds write what they name to the host or answer host-dma-failed where
the host does not take it, and LOOP_RESET makes a loop in FAULT sweep. -/
def Obligations.DiagnosticCommands : Prop :=
  ∀ (s : State) (r : Req) (p : List Byte), p = r.payload →
    (Accepts s r 0x0801 0 false .any →
      exec (.dump r) s = .next (payTo r (leBytes 8 (dumpSlot s)) (writeDump (posted s r) 0 14 (hungMask s)).1))
    ∧ (Accepts s r 0x0802 8 false .any → pf p 0 1 ≤ 3 → pf p 1 7 = 0 →
      exec (.dumpRelease r) s = .next (okTo r (modHal (posted s r) fun h => { h with dumps := h.dumps.filter fun d => d.1 != pf p 0 1 })))
    ∧ (Accepts s r 0x0803 40 true .exists_ → pf p 0 8 % 64 = 0 → pf p 8 8 ≠ 0 → pf p 8 8 % 64 = 0 →
      hbmWritable s (getCtx s (reqCtx r)) (pf p 0 8) (pf p 8 8) = true → pf p 16 8 ≤ pf p 24 8 → pf p 24 8 < 2 ^ 48 → pf p 32 1 ≤ 1 →
      pf p 33 7 = 0 →
      exec (.trace r) s = .next (okTo r (setCtx (posted s r) (reqCtx r) { getCtx s (reqCtx r) with
        trace := ⟨true, pf p 0 8, pf p 8 8, pf p 16 8, pf p 24 8, pf p 32 1 == 1, 0, false⟩ })))
    ∧ (∀ row n, row = pf p 0 4 → n = pf p 4 4 → Accepts s r 0x0C01 16 false .any → n ≠ 0 → row + n ≤ 32768 →
      let bs := cread (fbSeen s.hal) (64 * row) (64 * n)
      exec (.fbCopy r) s = .next
        (if hostOk s (pf p 8 8) bs.length then okTo r { posted s r with host := hwrite s.host (pf p 8 8) bs }
         else answer (posted s r) r.fn (.fail stHostDma noField)))
    ∧ (∀ slot off len d u bs, slot = pf p 0 1 → off = pf p 4 4 → len = pf p 8 4 → Accepts s r 0x0C02 24 false .any → slot ≤ 3 →
      s.hal.dumps.find? (fun d => d.1 == slot) = some d → d.2.2 ≠ 0 → len ≠ 0 → off + len ≤ d.2.2 → pf p 1 3 = 0 → pf p 12 4 = 0 →
      memRead (posted s r) ⟨0, none⟩ (dumpBase slot + off) len = (u, .ok bs) →
      exec (.dumpCopy r) s = .next
        (if hostOk u (pf p 16 8) bs.length then okTo r { u with host := hwrite u.host (pf p 16 8) bs }
         else answer u r.fn (.fail stHostDma noField)))
    ∧ (∀ slot off len d u e, slot = pf p 0 1 → off = pf p 4 4 → len = pf p 8 4 → Accepts s r 0x0C02 24 false .any → slot ≤ 3 →
      s.hal.dumps.find? (fun d => d.1 == slot) = some d → d.2.2 ≠ 0 → len ≠ 0 → off + len ≤ d.2.2 → pf p 1 3 = 0 → pf p 12 4 = 0 →
      memRead (posted s r) ⟨0, none⟩ (dumpBase slot + off) len = (u, .error e) →
      exec (.dumpCopy r) s = .next (answer u r.fn (.fail stMemUe noField)))
    ∧ (∀ die m, die = pf p 0 1 → m = pf p 2 2 → Accepts s r 0x0804 8 false .any → die ≤ 1 → m < (if die = 0 then 232 else 64) →
      pf p 1 1 = 0 → pf p 4 4 = 0 → (getLoop s (1024 * die + m)).st = .fault →
      exec (.loopReset r) s = .next (okTo r (moveLoop (posted s r) (1024 * die + m)
        { getLoop s (1024 * die + m) with st := .sweep, fails := 0 })))

/-- R421, R426, R427: an accepted COMPUTE_RESET begins a compute reset of cause 10 and is answered at its end, or answers ok at once
where compute is held in reset; RETURN_TO_SERVICE in OUT_OF_SERVICE clears the escalation history, begins the reset that ends in
READY and is answered at its end, and in any other state answers context-state. -/
def Obligations.ComputeResetCommands : Prop :=
  ∀ (s : State) (r : Req),
    (Accepts s r 0x0805 0 false .any →
      exec (.computeReset r) s = .next
        (if s.pkg.state = 3 ∨ s.pkg.state = 0 then okTo r (posted s r) else waits r .compute (computeReset (posted s r) 10 (some r.fn))))
    ∧ (Accepts s r 0x0806 0 false .any → s.pkg.state = 3 →
      exec (.returnToService r) s = .next (waits r .service
        (modPkg (fbCounters (modHal (posted s r) fun h => { h with escHist := [], escNext := 0 })) fun p => { p with
          state := 2, crBusy := true, crCause := 9, crStartNs := s.clk.mastNs, crFn := some r.fn, crSelf := true })))
    ∧ (Accepts s r 0x0806 0 false .any → s.pkg.state ≠ 3 →
      exec (.returnToService r) s = .next (answer (posted s r) r.fn (.fail stCtxState noField)))

/-- R488, R490: while no slot is being written, an accepted FW_WRITE within its bounds lays host bytes into the staging buffer, in
recovery into slot A; FW_COMMIT checks the staged image and begins the write of the other slot, whose VALID bit is first cleared, and
in recovery checks slot A as stored and makes it the slot to boot; an image that fails is answered with its first failing check.
FW_COMMITTED is the write itself, after which the directory names the slot, and its event. FW_STATUS answers versions, active slot and
directory; the active slot is a free value while no image runs (log 1). -/
def Obligations.FirmwareCommands : Prop :=
  ∀ (s : State) (r : Req) (p : List Byte), p = r.payload →
    (∀ off len, off = pf p 0 4 → len = pf p 4 4 → Accepts s r 0x0901 16 false .any → len ≠ 0 → off + len ≤ 16777216 → s.boot.writing = none →
      let bs := creadD Config.hostByte s.host (pf p 8 8) len
      exec (.fwWrite r) s = .next
        (if hostOk s (pf p 8 8) len then
          okTo r (if s.pkg.romService then recoveryWrite (posted s r) off bs
                  else modBoot (posted s r) fun b => { b with staging := cwrite b.staging off bs })
         else answer (posted s r) r.fn (.fail stHostDma noField)))
    ∧ (∀ len, len = pf p 0 4 → Accepts s r 0x0902 8 false .any → len ≠ 0 → len ≤ 16777216 → pf p 4 4 = 0 →
      s.boot.writing = none → s.pkg.romService = false →
      exec (.fwCommit r) s = .next
        (match imageCheck s (cread s.boot.staging 0) (some len) with
         | .error e => answer (posted s r) r.fn (.failRec e.1 e.2)
         | .ok _ => okTo r (modBoot (dirUpdate (posted s r) fun d => setOk d (1 - s.boot.slot) false) fun b => { b with
             writing := some (1 - s.boot.slot, len) })))
    ∧ (∀ len, len = pf p 0 4 → Accepts s r 0x0902 8 false .any → len ≠ 0 → len ≤ 16777216 → pf p 4 4 = 0 →
      s.boot.writing = none → s.pkg.romService = true →
      exec (.fwCommit r) s = .next
        (match slotImage (posted s r) 0 (some len) with
         | .error e => answer (posted s r) r.fn (.failRec e.1 e.2)
         | .ok _ => okTo r (dirUpdate (posted s r) fun d => setFld (setOk (setTries d 0 0) 0 true) 447 447 0)))
    ∧ (∀ slot len, s.boot.writing = some (slot, len) →
      exec .fwCommitted s = .next
        (let u := slotWrite ((List.range 256).foldl (fun s k => eraseSector s slot k) s) slot 0 (cread s.boot.staging 0 len)
         let v := dirUpdate u fun d => setFld (setTries (setOk d slot true) slot 0) 447 447 slot
         raise (modBoot v fun b => { b with writing := none }) (pkgEvent evFwCommitted 0 0 0 0)))
    ∧ (Accepts s r 0x0903 0 true .any → s.boot.hasImage = true →
      exec (.fwStatus r) s = .next (payTo r (leBytes 4 (slotVersion s 0) ++ leBytes 4 (slotVersion s 1) ++ leBytes 1 s.boot.slot
        ++ leBytes 1 (dirNext (dirRec s)) ++ leBytes 1 (rollback s) ++ leBytes 21 0) (posted s r)))
    ∧ (Accepts s r 0x0903 0 true .any → s.boot.hasImage = false →
      exec (.fwStatus r) s = .next (payTo r (leBytes 4 (slotVersion s 0) ++ leBytes 4 (slotVersion s 1)
        ++ leBytes 1 (Config.freeNat s.freeCtr) ++ leBytes 1 (dirNext (dirRec s)) ++ leBytes 1 (rollback s) ++ leBytes 21 0)
        { posted s r with freeCtr := s.freeCtr + 1 }))

/-- R493, R494, R465: an accepted ATTEST writes the report of Table 13.8 with a fresh device signature to the host window it names,
CERT_READ the certificates, LC_LIFE_READ the life record with its signature, when the window holds them and the host takes them, and
answers the length. A window that is too small is answered window-exceeded, one that the host refuses host-dma-failed, and nothing
is written. With no authenticated cartridge LC_LIFE_READ answers cartridge-absent. -/
def Obligations.RetrievalCommands : Prop :=
  ∀ (s : State) (r : Req) (p : List Byte), p = r.payload →
    (∀ report n, Accepts s r 0x0A01 48 true .any → pf p 44 4 = 0 → n = pf p 40 4 →
      report = attBody s (reqCtx r) (pf p 0 32)
        ++ leBytes 64 (Config.deviceSign s.freeCtr (shaRec (attBody s (reqCtx r) (pf p 0 32)))).toNat →
      (report.length ≤ n → hostOk s (pf p 32 8) report.length = true →
        exec (.attest r) s = .next (payTo r (leBytes 8 report.length)
          { posted s r with freeCtr := s.freeCtr + 1, host := hwrite s.host (pf p 32 8) report }))
      ∧ (report.length ≤ n → hostOk s (pf p 32 8) report.length = false →
        exec (.attest r) s = .next (answer { posted s r with freeCtr := s.freeCtr + 1 } r.fn (.fail stHostDma noField)))
      ∧ (n < report.length →
        exec (.attest r) s = .next (answer { posted s r with freeCtr := s.freeCtr + 1 } r.fn (.fail stWindow 320))))
    ∧ (∀ certs n, Accepts s r 0x0A02 16 true .any → pf p 12 4 = 0 → n = pf p 8 4 → certs = Config.certificates →
      (certs.length ≤ n → hostOk s (pf p 0 8) certs.length = true →
        exec (.certRead r) s = .next (payTo r (leBytes 8 certs.length) { posted s r with host := hwrite s.host (pf p 0 8) certs }))
      ∧ (certs.length ≤ n → hostOk s (pf p 0 8) certs.length = false →
        exec (.certRead r) s = .next (answer (posted s r) r.fn (.fail stHostDma noField)))
      ∧ (n < certs.length → exec (.certRead r) s = .next (answer (posted s r) r.fn (.fail stWindow 64))))
    ∧ (∀ life n, Accepts s r 0x0B01 16 false .any → s.pkg.cartOk = true → pf p 12 4 = 0 → n = pf p 8 4 →
      life = (s.optics.cartLife ++ List.replicate 544 0).take 544 →
      (608 ≤ n → hostOk s (pf p 0 8) 608 = true →
        exec (.lcLifeRead r) s = .next (payTo r (leBytes 8 608) { posted s r with
          host := hwrite s.host (pf p 0 8) (life ++ (Config.cartridgeSign life ++ List.replicate 64 0).take 64) }))
      ∧ (608 ≤ n → hostOk s (pf p 0 8) 608 = false →
        exec (.lcLifeRead r) s = .next (answer (posted s r) r.fn (.fail stHostDma noField)))
      ∧ (n < 608 → exec (.lcLifeRead r) s = .next (answer (posted s r) r.fn (.fail stWindow 64))))
    ∧ (Accepts s r 0x0B01 16 false .any → s.pkg.cartOk = false →
      exec (.lcLifeRead r) s = .next (answer (posted s r) r.fn (.fail stCartAbsent noField)))

/-- R296, R290, R519: with an authenticated cartridge in power, a spare left and no swap of the role pending, an accepted LC_SWAP starts
the swap of the role; LC_RECOMMISSION gives each serving line of its fibre the tap power it reads as its commissioning value and ends
the fibre's common-mode fade; LC_POWER_RETRY, with the fault gone, restores power that a load-switch fault took, by the insertion path,
and answers cartridge-absent where its authentication fails; with nothing to restore it answers ok. -/
def Obligations.CartridgeCommands : Prop :=
  ∀ (s : State) (r : Req) (p : List Byte), p = r.payload →
    (Accepts s r 0x0B02 8 false .any → pf p 0 1 ≤ 23 → pf p 1 7 = 0 → s.pkg.cartOk = true →
      (∀ w ∈ s.optics.swaps, w.role ≠ pf p 0 1) → (freeSpare s).isSome = true → s.pins.lcPwrEn = true →
      exec (.lcSwap r) s = .next (okTo r (startSwap (posted s r) (pf p 0 1) false 0 0)))
    ∧ (∀ taps, Accepts s r 0x0B03 8 false .any → pf p 0 1 ≤ 5 → pf p 1 7 = 0 → s.pkg.cartOk = true →
      exec (.lcRecommission r taps) s = .next (okTo r
        (modOpt (((List.range 32).filter fun n => lcState (getLine s n) == 3 && lcFibre (getLine s n) == pf p 0 1).foldl (fun s n =>
            commission s n (match taps.find? fun t => t.1 == n with | some t => t.2 | none => BitVec.ofNat 16 (lcTap (getLine s n))))
          (posted s r)) fun o => { o with fibreFade := o.fibreFade.filter (· != pf p 0 1) })))
    ∧ (Accepts s r 0x0B04 0 false .any → s.pins.lcPresN = false → s.pins.lcFaultN = true → s.optics.lcHold = true →
      ∀ fail faults, exec (.lcPowerRetry r ⟨fail, faults⟩) s = .next (answer (restoreCart (posted s r) fail faults) r.fn
        (if fail = 0 then .ok else .fail stCartAbsent noField)))
    ∧ (Accepts s r 0x0B04 0 false .any → s.pins.lcPresN = false → s.pins.lcFaultN = true → s.optics.lcHold = false →
      ∀ fail faults, exec (.lcPowerRetry r ⟨fail, faults⟩) s = .next (okTo r (posted s r)))

/-! ### The mailbox protocol -/

/-- R454: a request that fails a check of steps 1 to 7 gets the status of the first that it fails, and nothing else of the package
changes: the request stands in its buffer, MBX_POST and MBX_DONE hold its value, the response carries the status with no field named
and no payload, and vector 0 is signalled. The same answer goes to a request that was posted earlier and stands in the buffer, when
its row begins it. -/
def Obligations.MailboxRefuses : Prop :=
  ∀ (i : Instr) (cmd : Cmd) (s : State) (r : Req) (st : Status), mailRow i = some (cmd, r) →
    (Posts s r cmd.op → refusal s cmd r = some st → exec i s = .next (replied s r st noField []))
    ∧ (mbxServed s r.fn = true → (getFn s r.fn).busy = some .posted → hdrOp (recAt 128 (getFn s r.fn).req 0) = cmd.op →
        checkReq s r.fn cmd (recAt 128 (getFn s r.fn).req 0) = some st →
        exec i s = .next (answer s r.fn (.fail st noField)))

/-- R452: a write to MBX_POST is ignored while a command of the function is outstanding, and when its value equals MBX_DONE: no command
is posted and MBX_POST keeps its value. Writes to the request buffer of a function with a command outstanding are discarded; those
before a post of the value of MBX_DONE stand. -/
def Obligations.MailboxIgnoresPosts : Prop :=
  (∀ (i : Instr) (cmd : Cmd) (s : State) (r : Req), mailRow i = some (cmd, r) →
    (∀ w, (getFn s r.fn).busy = some w → w ≠ .posted → exec i s = .next s)
    ∧ (mbxReached s r.fn = true → (getFn s r.fn).busy = none → r.post = (getFn s r.fn).done →
        exec i s = .next (setFn s r.fn { getFn s r.fn with
          req := overlay (getFn s r.fn).req (leBytes 16 r.header.toNat ++ r.payload) })))
  ∧ (∀ (s : State) (n : CtxId), hostReaches s n = true →
    (∀ v : BitVec 32, (getFn s n).busy ≠ none ∨ v = (getFn s n).done →
      exec (.registerWrite n 0x102000 (leBytes 4 v.toNat)) s = .next s)
    ∧ (∀ off bs, (getFn s n).busy ≠ none → 0x100000 ≤ off → off < 0x101000 → bar0Ok off bs.length = true →
      exec (.registerWrite n off bs) s = .next s))

/-- R451, R453: answering writes the response header and payload, then MBX_DONE, and signals vector 0; the function takes its next
command. No register of another function and nothing else of the package changes. -/
def Obligations.AnswersComplete : Prop :=
  ∀ (s : State) (r : Req) (a : Ans),
    answer (posted s r) r.fn a = replied s r a.st a.detail a.pay
    ∧ (getFn (answer (posted s r) r.fn a) r.fn).done = r.post ∧ (getFn (answer (posted s r) r.fn a) r.fn).post = r.post
    ∧ (getFn (answer (posted s r) r.fn a) r.fn).busy = none
    ∧ (∀ n, n ≠ r.fn → getFn (answer (posted s r) r.fn a) n = getFn s n)
    ∧ { answer (posted s r) r.fn a with fns := s.fns, msix := s.msix } = s
    ∧ (a.pay.length < 2 ^ 32 → a.detail < 2 ^ 32 →
        let h := recAt 128 (getFn (answer (posted s r) r.fn a) r.fn).resp 0
        fld h 15 0 = hdrOp r.header ∧ fld h 31 16 = a.st.toNat ∧ fld h 63 32 = hdrSeq r.header ∧ fld h 95 64 = a.pay.length
          ∧ fld h 127 96 = a.detail)

/-! ### Host accesses -/

/-- R447, R452, R454, R469, Tables 12.3 to 12.7: a register write of a size or alignment that is not accepted raises HOST_ERROR. A new
value in MBX_POST, with no command outstanding and a server present, posts the request that stands in the buffer, and an opcode that
Table 12.10 lacks is answered unknown-opcode once the sequence number and reserved bits pass. EVT_HEAD below the ring's size moves
the head, at or above it is ignored; GSTAT clears HOST_ERR by a 1; the request buffer takes bytes while no command is outstanding. -/
def Obligations.RegisterWrites : Prop :=
  ∀ (s : State) (n : CtxId), hostReaches s n = true →
    (∀ off data, bar0Ok off data.length = false →
      exec (.registerWrite n off data) s = .next (hostError s n off 0 true data.length 0 0))
    ∧ (∀ v : BitVec 32, mbxReached s n = true → (getFn s n).busy = none → v ≠ (getFn s n).done →
      knownOps.contains (hdrOp (recAt 128 (getFn s n).req 0)) = true →
      exec (.registerWrite n 0x102000 (leBytes 4 v.toNat)) s = .next (setFn s n { getFn s n with post := v, busy := some .posted }))
    ∧ (∀ (v : BitVec 32) h, mbxServed s n = true → (getFn s n).busy = none → v ≠ (getFn s n).done →
      h = recAt 128 (getFn s n).req 0 → knownOps.contains (hdrOp h) = false → hdrSeq h = v.toNat → hdrReserved h = false →
      exec (.registerWrite n 0x102000 (leBytes 4 v.toNat)) s =
        .next (answer (setFn s n { getFn s n with post := v, busy := some .posted }) n (.fail stUnknownOp noField)))
    ∧ (∀ v : BitVec 32, (getFn s n).nent.toNat ≤ v.toNat → exec (.evtHeadWrite n v) s = .next s)
    ∧ (∀ v : BitVec 32, v.toNat < (getFn s n).nent.toNat →
      exec (.registerWrite n 0x102008 (leBytes 4 v.toNat)) s = .next (setFn s n { getFn s n with evtHead := v })
      ∧ exec (.evtHeadWrite n v) s = .next (setFn s n { getFn s n with evtHead := v }))
    ∧ (∀ v : BitVec 32, bit v 0 = true →
      exec (.registerWrite n 0x1004 (leBytes 4 v.toNat)) s = .next (setFn s n { getFn s n with hostErr := false }))
    ∧ (∀ bs : List Byte, bs.length = 64 → (getFn s n).busy = none → (getFn s n).req.length ≤ 4096 →
      exec (.registerWrite n 0x100000 bs) s = .next (setFn s n { getFn s n with
        req := bs ++ ((getFn s n).req ++ List.replicate (4096 - (getFn s n).req.length) 0).drop 64 }))

/-- R448 to R450, R239, R251, R442: a BAR2 read gives the bytes that its window reaches, corrected; a refused one gives Unsupported
Request and raises HOST_ERROR, one that meets an uncorrectable error Completer Abort with HOST_ERROR; each of the two sets its bit of
AER (the places of the bits are presumed, log 5). -/
def Obligations.Bar2Reads : Prop :=
  ∀ (s : State) (n : CtxId) (off len : Nat), hostReaches s n = true →
    (∀ ps u bs, bar2Parts s n false off len = .ok ps → readParts ps s = (u, .ok bs) →
      exec (.bar2Read n off len) s = .next { u with cpl := some (.data bs) })
    ∧ (∀ k, bar2Parts s n false off len = .error k →
      exec (.bar2Read n off len) s = .next { hostError (aerNote s aerUnsupported) n off 2 false len 0 k with cpl := some .unsupported })
    ∧ (∀ ps u e, bar2Parts s n false off len = .ok ps → readParts ps s = (u, .error e) →
      exec (.bar2Read n off len) s = .next { hostError (aerNote u aerAbort) n off 2 false len stMemUe 7 with cpl := some .abort })

/-- R448 to R450, R239: in READY a whole aligned line written through the PF's physical window lands at BASE + offset, and through a
virtual window where its page lies; every byte of memory outside the line keeps its value. Part of an HBM line is merged with the line
as read, or reported by MERGE_FAILED where it does not read. A write that is refused writes nothing and raises HOST_ERROR with the
cause. -/
def Obligations.Bar2Writes : Prop :=
  ∀ (s : State) (off : Nat) (bs : List Byte), hostReaches s 0 = true →
    (∀ a, a = (getFn s 0).bar2Base.toNat + off → (getFn s 0).bar2Mode = 2 → s.pkg.computeReset = false → s.pkg.state = 1 →
      a % 64 = 0 → bs.length = 64 → isHbm a = true → a < halyardBase → physOk a 64 = true →
      exec (.bar2Write 0 off bs) s = .next (memWrite s a bs)
      ∧ (∀ k < 64, byteAt (memWrite s a bs) (a + k) = bs.getD k 0)
      ∧ (∀ x, x < a ∨ a + 64 ≤ x → byteAt (memWrite s a bs) x = byteAt s x))
    ∧ (∀ a u, a = (getFn s 0).bar2Base.toNat + off → (getFn s 0).bar2Mode = 2 → s.pkg.computeReset = false → s.pkg.state = 1 →
      0 < bs.length → a % 64 + bs.length < 64 → isHbm a = true → a < halyardBase → physOk a bs.length = true →
      (∀ old, memRead s ⟨2, none⟩ (a - a % 64) 64 = (u, .ok old) → exec (.bar2Write 0 off bs) s =
        .next (memWrite u (a - a % 64) (old.take (a % 64) ++ bs ++ old.drop (a % 64 + bs.length))))
      ∧ (∀ e, memRead s ⟨2, none⟩ (a - a % 64) 64 = (u, .error e) → exec (.bar2Write 0 off bs) s = .next (raise u
        { code := evMergeFailed, kind := 8, subj := 0, v0 := a - a % 64, v1 := off, status := stMemUe.toNat, fn := some 0 })))
    ∧ (∀ (n : CtxId) l a, hostReaches s n = true → (getFn s n).bar2Mode = 1 → s.pkg.computeReset = false → s.pkg.state = 1 →
      (getCtx s n).run ≠ .none → ((getFn s n).bar2Base.toNat + off) % 64 = 0 → bs.length = 64 →
      xlate s (getCtx s n) (getCtx s n).ret.act ((getFn s n).bar2Base.toNat + off) = some l → isLocal s l.addr = true → l.wr = true →
      a = localPart l.addr → a % 64 = 0 → physOk a 64 = true →
      exec (.bar2Write n off bs) s = .next (memWrite s a bs) ∧ ∀ x, x < a ∨ a + 64 ≤ x → byteAt (memWrite s a bs) x = byteAt s x)
    ∧ (∀ (n : CtxId) k, hostReaches s n = true → bar2Parts s n true off bs.length = .error k →
      exec (.bar2Write n off bs) s = .next (hostError s n off 2 true bs.length 0 k) ∧ (hostError s n off 2 true bs.length 0 k).mem = s.mem)

/-- R520, Tables 14.8 and 14.9: with Mast power, a block write of its register's length and a right PEC is acknowledged and acts. BMC_CAP
takes a cap of 500 to 1400 W with its enable bit, and a 1 clears ERR; any other value leaves the cap, sets ERR and the alert. REEF_POL
and REEF_SWAP act as the mailbox commands do and leave their status in SMB_STATUS: out-of-service while Halyard does not serve them,
swap-pending while a policy swap is pending, for a swap the first check that the shadow fails, else ok. ALERT_SRC clears the bits
written as 1. A write of another length, or without Mast power, is not acknowledged; one with a wrong PEC is discarded. The Alert
Response Address answers the target's address while an alert stands, and is not acknowledged otherwise. -/
def Obligations.SmbusWrites : Prop :=
  ∀ (s : State) (d : List Byte),
    (∀ w err en, s.pins.pwrgdMast = true → d.length = 4 → 500 ≤ w → w ≤ 1400 → w = fld (recAt 32 d 0) 31 20 →
      err = (bit s.reef.bmcCap 1 && !bit (recAt 32 d 0) 1) → en = bit (recAt 32 d 0) 0 →
      exec (.smbBmcCapWrite d true) s = .next { s with
        reef := { s.reef with bmcCap := BitVec.ofNat 32 (w * 2 ^ 20 + b2n err * 2 + b2n en) }, cpl := some .ack })
    ∧ (∀ w, s.pins.pwrgdMast = true → d.length = 4 → (w < 500 ∨ 1400 < w) → w = fld (recAt 32 d 0) 31 20 →
      exec (.smbBmcCapWrite d true) s = .next { s with
        reef := { s.reef with bmcCap := setFld s.reef.bmcCap 1 1 1 }, hal := { s.hal with alert := s.hal.alert ||| 8 }, cpl := some .ack })
    ∧ (s.pins.pwrgdMast = true → d.length = 16 →
      (s.pkg.halyardUp = true → s.pkg.state ≠ 3 → s.reef.polPend = false →
        exec (.smbReefPolWrite d true) s = .next { s with
          reef := { s.reef with pol := { s.reef.pol with sha := recAt 128 d 0 } }, hal := { s.hal with smb := stOk }, cpl := some .ack })
      ∧ (s.pkg.halyardUp = true → s.pkg.state ≠ 3 → s.reef.polPend = true →
        exec (.smbReefPolWrite d true) s = .next { s with hal := { s.hal with smb := stSwapPending }, cpl := some .ack })
      ∧ ((s.pkg.halyardUp = false ∨ s.pkg.state = 3) →
        exec (.smbReefPolWrite d true) s = .next { s with hal := { s.hal with smb := stOutOfService }, cpl := some .ack }))
    ∧ (s.pins.pwrgdMast = true → d.length = 1 →
      (s.pkg.halyardUp = true → s.pkg.state ≠ 3 → s.reef.polPend = false → (∀ k ∈ reefPolChecks s.reef.pol.sha, k.2.1 = false) →
        exec (.smbReefSwap d true) s = .next { s with
          reef := { s.reef with polPend := true }, hal := { s.hal with smb := stOk }, cpl := some .ack })
      ∧ (∀ k, s.pkg.halyardUp = true → s.pkg.state ≠ 3 → s.reef.polPend = false →
        (reefPolChecks s.reef.pol.sha).find? (fun k => k.2.1) = some k →
        exec (.smbReefSwap d true) s = .next { s with hal := { s.hal with smb := k.2.2 }, cpl := some .ack })
      ∧ (s.pkg.halyardUp = true → s.pkg.state ≠ 3 → s.reef.polPend = true →
        exec (.smbReefSwap d true) s = .next { s with hal := { s.hal with smb := stSwapPending }, cpl := some .ack })
      ∧ ((s.pkg.halyardUp = false ∨ s.pkg.state = 3) →
        exec (.smbReefSwap d true) s = .next { s with hal := { s.hal with smb := stOutOfService }, cpl := some .ack }))
    ∧ (s.pins.pwrgdMast = true → d.length = 4 →
      exec (.smbAlertSrcWrite d true) s =
        .next { s with hal := { s.hal with alert := s.hal.alert &&& ~~~(recAt 32 d 0) }, cpl := some .ack })
    ∧ (s.pins.pwrgdMast = true → s.hal.alert ≠ 0 →
      exec .smbAlertResponse s = .next { s with cpl := some (.data [BitVec.ofNat 8 (0x58 + s.pins.plane.val)]) })
    ∧ (s.pins.pwrgdMast = false ∨ s.hal.alert = 0 → exec .smbAlertResponse s = .next { s with cpl := some .nack })
    ∧ (∀ pec, s.pins.pwrgdMast = false ∨ d.length ≠ 4 → exec (.smbBmcCapWrite d pec) s = .next { s with cpl := some .nack }
      ∧ exec (.smbAlertSrcWrite d pec) s = .next { s with cpl := some .nack })
    ∧ (∀ pec, s.pins.pwrgdMast = false ∨ d.length ≠ 16 → exec (.smbReefPolWrite d pec) s = .next { s with cpl := some .nack })
    ∧ (∀ pec, s.pins.pwrgdMast = false ∨ d.length ≠ 1 → exec (.smbReefSwap d pec) s = .next { s with cpl := some .nack })
    ∧ (s.pins.pwrgdMast = true →
      (d.length = 4 → exec (.smbBmcCapWrite d false) s = .next s ∧ exec (.smbAlertSrcWrite d false) s = .next s)
      ∧ (d.length = 16 → exec (.smbReefPolWrite d false) s = .next s) ∧ (d.length = 1 → exec (.smbReefSwap d false) s = .next s))

/-- R521: with Mast power, IDCODE shifts out the device's code of its stepping, least significant bit first, and BYPASS what is shifted
in behind one bit of delay; SAMPLE/PRELOAD and EXTEST take the lands while PERST_N is asserted and act as BYPASS otherwise. Without
Mast power the port does nothing. -/
def Obligations.JtagInstructions : Prop :=
  ∀ (s : State) (xs : List Bool),
    (s.pins.pwrgdMast = true →
      exec .idcode s = .next { s with boot := { s.boot with jtag := 0 }, cpl := some (.jtag (bitsLsb 32
        (if Config.steppingB1 then 0x1088096F else 0x0088096F))) }
      ∧ exec (.bypass xs) s = .next { s with boot := { s.boot with jtag := 1 }, cpl := some (.jtag ((false :: xs).take xs.length)) }
      ∧ (s.pins.perstN = false →
        exec (.samplePreload xs) s = .next { s with boot := { s.boot with jtag := 2, lands := xs }, cpl := some (.jtag xs) }
        ∧ exec (.extest xs) s = .next { s with boot := { s.boot with jtag := 3, lands := xs }, cpl := some (.jtag xs) })
      ∧ (s.pins.perstN = true → ∀ i ∈ [Instr.samplePreload xs, .extest xs],
        exec i s = .next { s with boot := { s.boot with jtag := 1 }, cpl := some (.jtag ((false :: xs).take xs.length)) }))
    ∧ (s.pins.pwrgdMast = false → ∀ i ∈ [Instr.idcode, .bypass xs, .samplePreload xs, .extest xs], exec i s = .next s)

/-- R497, Table 13.9: while the PCIe link is up DOE discovery answers its entries, and while Halyard serves besides the responder answers
the connection requests in their order, the digest and chain of slot 0, a signed challenge and signed measurements. A request before
its turn is an unexpected request, one that names what is not there an invalid one. The codes of the messages are presumed (log 23);
nonces and signatures are free values (log 1). -/
def Obligations.SpdmResponder : Prop :=
  ∀ (s : State), s.pkg.linkUp = true → s.pins.perstN = true →
    (∀ i : Byte, exec (.doeDiscovery i) s = .next { s with cpl := some (.spdm
      (if i.toNat ≤ 1 then [0x01, 0x00, i, if i = 0 then 1 else 0] else [0xFF, 0xFF, 0, 0])) })
    ∧ (s.pkg.halyardUp = true → restarting s = false →
      exec .getVersion s = .next { s with boot := { s.boot with spdm := 1 }, cpl := some (.spdm [0x10, 0x04, 0, 0, 0, 1, 0, 0x12]) }
      ∧ (1 ≤ s.boot.spdm → exec .getCapabilities s =
          .next { s with boot := { s.boot with spdm := 2 }, cpl := some (.spdm ([0x12, 0x61, 0, 0] ++ Config.spdmBytes 0)) })
      ∧ (2 ≤ s.boot.spdm → exec (.negotiateAlgorithms true true) s =
          .next { s with boot := { s.boot with spdm := 3 }, cpl := some (.spdm ([0x12, 0x63, 0, 0] ++ Config.spdmBytes 1)) })
      ∧ (∀ a b, 2 ≤ s.boot.spdm → (a && b) = false →
          exec (.negotiateAlgorithms a b) s = .next { s with cpl := some (.spdm [0x12, 0x7F, 1, 0]) })
      ∧ (3 ≤ s.boot.spdm →
          exec .getDigests s = .next { s with cpl := some (.spdm ([0x12, 0x01, 0, 1] ++ sha256 spdmChain)) }
          ∧ (∀ off len,
              let part := (spdmChain.drop off).take len
              exec (.getCertificate 0 off len) s = .next { s with cpl := some (.spdm (if spdmChain.length ≤ off then [0x12, 0x7F, 1, 0]
                else [0x12, 0x02, 0, 0] ++ (leBytes 2 part.length ++ leBytes 2 (spdmChain.length - off - part.length) ++ part))) })
          ∧ (∀ i (nonce : BitVec 256), i ≤ 11 ∨ i = 255 →
              let r := (List.range 32).map (Config.freeByte s.freeCtr)
              let bl := if i = 0 then [] else if i = 255 then allMeas s else measBlock s i
              let bs := [0x12, 0x60, if i = 0 then 11 else 0, 0]
                ++ (leBytes 1 (if i = 0 then 0 else if i = 255 then 11 else 1) ++ leBytes 3 bl.length ++ bl ++ r ++ leBytes 2 0)
              exec (.getMeasurements i nonce) s = .next { s with
                freeCtr := s.freeCtr + 2
                cpl := some (.spdm (bs ++ leBytes 64 (Config.deviceSign (s.freeCtr + 1) (shaRec (leBytes 32 nonce.toNat ++ bs))).toNat)) })
          ∧ (∀ i k off len (nonce : BitVec 256), 11 < i → i ≠ 255 → k ≠ 0 → ∀ t, t = { s with cpl := some (.spdm [0x12, 0x7F, 1, 0]) } →
              exec (.getMeasurements i nonce) s = .next t ∧ exec (.getCertificate k off len) s = .next t
                ∧ exec (.challenge k nonce) s = .next t)
          ∧ (∀ nonce : BitVec 256,
              let r := (List.range 32).map (Config.freeByte s.freeCtr)
              let bs := [0x12, 0x03, 0, 1] ++ (sha256 spdmChain ++ r ++ sha256 (allMeas s) ++ leBytes 2 0)
              exec (.challenge 0 nonce) s = .next { s with
                freeCtr := s.freeCtr + 2
                cpl := some (.spdm (bs ++ leBytes 64 (Config.deviceSign (s.freeCtr + 1) (shaRec (leBytes 32 nonce.toNat ++ bs))).toNat)) }))
      ∧ (∀ k off len i (nonce : BitVec 256) a b t, t = { s with cpl := some (.spdm [0x12, 0x7F, 4, 0]) } →
          (s.boot.spdm < 1 → exec .getCapabilities s = .next t) ∧ (s.boot.spdm < 2 → exec (.negotiateAlgorithms a b) s = .next t)
          ∧ (s.boot.spdm < 3 → exec .getDigests s = .next t ∧ exec (.getCertificate k off len) s = .next t
              ∧ exec (.challenge k nonce) s = .next t ∧ exec (.getMeasurements i nonce) s = .next t)))

/-! ### Functions, link and pins -/

/-- R458, R417, R444, R448, R445, R421: FLR of a present VF puts the function's mailbox, ring and window registers back, leaves its unmaps
without an answer and asks for the reset of its context; fewer VFs do the same for each that goes. FLR of the PF puts its registers
back and begins a compute reset of cause 2, unless compute is held in reset. A BAR resize within range turns the window off. The
link's loss takes the host away: requests in service that use it fail; its return gives it back and changes nothing else. -/
def Obligations.FunctionsAndLink : Prop :=
  ∀ (s : State),
    (∀ n : CtxId, n ≠ 0 → n.val ≤ s.pkg.numVfs.val →
      exec (.vfFlr n) s = .next (requestReset (flrFn s n) n ⟨1, none, false, s.clk.mastNs, 0⟩))
    ∧ (∀ n : CtxId, getFn (flrFn s n) n = { Func.init with
        req := (getFn s n).req, resp := (getFn s n).resp, bar2Log := (getFn s n).bar2Log, hostErr := (getFn s n).hostErr })
    ∧ (∀ n : CtxId, n ≠ 0 → n.val ≤ s.pkg.numVfs.val → (getCtx s n).run = .none → (∀ c, (getCtx s c).drains = []) →
      exec (.vfFlr n) s = .next (setFn s n { Func.init with
        req := (getFn s n).req, resp := (getFn s n).resp, bar2Log := (getFn s n).bar2Log, hostErr := (getFn s n).hostErr }))
    ∧ (∀ n : CtxId, exec (.numvfsChange n) s = .next
        ((allCtxs.filter fun c => decide (n.val < c.val) && decide (c.val ≤ s.pkg.numVfs.val)).foldl
          (fun s c => requestReset (flrFn s c) c ⟨1, none, false, s.clk.mastNs, 0⟩) (modPkg s fun p => { p with numVfs := n })))
    ∧ (∀ n : CtxId, s.pkg.numVfs.val ≤ n.val → exec (.numvfsChange n) s = .next (modPkg s fun p => { p with numVfs := n }))
    ∧ (∀ (n : CtxId) k, 30 ≤ k → k ≤ 40 →
      exec (.barResize n k) s = .next (setFn s n { getFn s n with bar2Log := k, bar2Mode := 0, bar2Base := 0 }))
    ∧ exec .pcieLinkLoss s = .next ((existing s).foldl (fun s c => failAll s c (fun q => q.phase != .queued && usesHost q) stHostDma)
        (modPkg s fun p => { p with linkUp := false }))
    ∧ ((∀ c ∈ existing s, ∀ q ∈ (getCtx s c).queue, q.phase = .queued ∨ usesHost q = false) →
      exec .pcieLinkLoss s = .next (modPkg s fun p => { p with linkUp := false }))
    ∧ (s.pins.perstN = true → exec .pcieLinkReturn s = .next (modPkg s fun p => { p with linkUp := true }))
    ∧ (s.pins.perstN = true → (s.pkg.state = 0 ∨ s.pkg.state = 3) →
      exec .pfFlr s = .next (modPkg (flrFn s 0) fun p => { p with crFn := none }))
    ∧ (s.pins.perstN = true → s.pkg.state ≠ 0 → s.pkg.state ≠ 3 →
      exec .pfFlr s = .next (computeReset (modPkg (flrFn s 0) fun p => { p with crFn := none }) 2 none))
    ∧ (s.pins.perstN = true → s.pkg.state = 1 → existing s = [] → s.pkg.crBusy = false → ∃ t, exec .pfFlr s = .next t
        ∧ t.pkg.state = 2 ∧ t.pkg.crBusy = true ∧ t.pkg.crCause = 2 ∧ t.pkg.computeReset = true ∧ t.pkg.hbmUp = false
        ∧ t.pkg.crStartNs = s.clk.mastNs ∧ (getFn t 0).post = 0 ∧ (getFn t 0).done = 0 ∧ t.mem = s.mem)

/-- R423, R424, R517, R522, R524: PERST_N, TEST_N and the power-good inputs put the package in package reset, which keeps Mast time,
memory bytes, the margin tables, the boot flash and the host's memory, drops every context, sets PLAN_SLOT to 0 and drives QSPI_RST_N
low; a PERST_N or TEST_N that finds the package in reset adds nothing but the pin. Loss of auxiliary power also loses the dumps, loss
of Mast power the margin tables, and the Field book's SRAM where it is not kept; after a thermal trip the loss of core power adds
nothing. POWER_UP starts Mast time and its intervals from 0 and restores the Field book from its flash copy. -/
def Obligations.PowerAndResetPins : Prop :=
  ∀ (s : State),
    (let t := packageReset s
     t.clk.mastNs = s.clk.mastNs ∧ t.clk.planSlot = 0 ∧ t.mem.bytes = s.mem.bytes ∧ t.host = s.host ∧ t.reef.vtab = s.reef.vtab
      ∧ t.boot.slots = s.boot.slots ∧ t.boot.dir = s.boot.dir ∧ t.ctxs = [] ∧ t.fns = [] ∧ t.pkg.state = 0 ∧ t.pkg.computeReset = true
      ∧ t.pins.perstN = false ∧ t.pins.qspiRstN = false ∧ t.pkg.crCause = 7 ∧ t.reef.pol = ⟨reefPolReset, reefPolReset⟩ ∧ t.fab.planA = none ∧ t.pending = s.pending)
    ∧ (s.pins.perstN = true → exec .perstNAssert s = .next (packageReset s))
    ∧ (s.pins.perstN = false → exec .perstNAssert s = .next s ∧ exec .testNLow s = .next (modPins s fun p => { p with testN := false }))
    ∧ (s.pins.perstN = true → exec .testNLow s = .next (modPins (packageReset s) fun p => { p with testN := false }))
    ∧ exec .pwrgdAuxDeassert s =
        .next (modHal (modPins (packageReset s) fun p => { p with pwrgdAux := false }) fun h => { h with dumps := [] })
    ∧ (s.pins.thermtripN = true →
      exec .pwrgdCoreDeassert s = .next (modPins (packageReset s) fun p => { p with pwrgdCore := false }))
    ∧ (s.pins.thermtripN = false → exec .pwrgdCoreDeassert s = .next (modPins s fun p => { p with pwrgdCore := false }))
    ∧ (∀ kept, ∃ t, exec (.pwrgdMastDeassert kept) s = .next t ∧ t.pins.pwrgdMast = false ∧ t.pins.pwrgdCore = false
        ∧ t.pins.pwrgdAux = false ∧ t.pins.perstN = false ∧ t.reef.vtab = [] ∧ t.hal.dumps = [] ∧ t.ctxs = []
        ∧ (kept = false → t.hal.fb = []) ∧ (kept = true → t.hal.fb = (packageReset s).hal.fb) ∧ t.hal.flash = s.hal.flash)
    ∧ (s.pins.pwrgdMast = false → ∃ t, exec .powerUp s = .next t ∧ t.clk.mastNs = 0 ∧ t.clk.planSlot = 0
        ∧ t.clk.boot = s.clk.boot + 1 ∧ t.pins.pwrgdMast = true ∧ t.hal.fb = s.hal.flash ∧ t.hal.flash = s.hal.flash
        ∧ t.pkg.crCause = 8 ∧ t.mem.bytes = s.mem.bytes ∧ t.boot = s.boot)

/-- R478 to R481, R522, Table 13.4: with Mast power, PERST_N deasserted starts the package, QSPI_RST_N high again (log 51). The first
step that does not pass ends start-up and stands in BOOT_STEP with 0x8000: step 1 for the ROM's tests or the PCIe link, 2 in recovery
service for no bootable slot, 3 in recovery service for a Halyard that does not start and with Halyard running for an unacceptable
board configuration, 6 for the stacks, 7 for the fill. With every step passed it ends in READY: step 0x000C, compute and HBM in use. -/
def Obligations.StartUp : Prop :=
  ∀ (s : State) (e : BootEnv), s.pins.perstN = false → s.pins.pwrgdMast = true → s.pins.testN = true →
    let u := modPkg (modPins s fun p => { p with
        perstN := true, qspiRstN := true, pwrgdAux := true, pwrgdCore := true, plane := Config.plane }) fun p => { p with linkUp := e.linkOk }
    ∃ t, exec (.perstNDeassert e) s = .next t ∧ t.pins.perstN = true ∧ t.pins.qspiRstN = true ∧ t.pkg.linkUp = e.linkOk
      ∧ t.clk.mastNs = s.clk.mastNs ∧
      if e.romOk = false ∨ e.linkOk = false then t.pkg.bootStep = 0x8001 ∧ t.pkg.romService = s.pkg.romService
      else if (bootSelect u).2 = false then t.pkg.romService = true ∧ t.pkg.bootStep = 0x8002
      else if e.halyardOk = false then t.pkg.romService = true ∧ t.pkg.bootStep = 0x8003
      else t.pkg.halyardUp = true ∧
        if boardOk e.boardCfg = false then t.pkg.bootStep = 0x8003
        else if e.hbmOk = false then t.pkg.bootStep = 0x8006
        else if e.fillOk = false then t.pkg.bootStep = 0x8007
        else t.pkg.state = 1 ∧ t.pkg.bootStep = 0x000C ∧ t.pkg.computeReset = false ∧ t.pkg.hbmUp = true
/-! ### Light: loops, Stay ports, the laser cartridge -/

/-- R270 to R275, Table 7.4: each loop command moves its loop from the one state in which it acts: a peak not yet rejected starts
ACQUIRE, the lock band VERIFY, a timeout or a lost lock goes back; VERIFY and the pilot check compare the tone that the lock-in finds
with those expected, the metric alone for an element without pilot; the third failed VERIFY and a sweep without peaks end in FAULT;
light back after HOLD sweeps again when the die has moved by 4 degrees. A loop in FAULT stays as it is. -/
def Obligations.HeaterLoops : Prop :=
  ∀ (s : State) (die : Fin 2) (m i : Nat) (l : HLoop), loopIx die m = some i → getLoop s i = l →
    (∀ peak, l.st = .sweep → peak ∉ l.peaks → exec (.loopPeakFound die m peak) s =
      .next (moveLoop s i { l with st := .acquire, cur := peak, heater := BitVec.ofNat 12 peak }))
    ∧ (l.st = .sweep → exec (.loopSweepExhausted die m) s = .next (loopFault s i 3))
    ∧ (l.st = .acquire → exec (.loopLockBandMet die m) s = .next (moveLoop s i { l with st := .verify })
      ∧ exec (.loopAcquireTimeout die m) s = .next (moveLoop s i { l with st := .sweep }))
    ∧ (∀ amps metric, l.st = .verify →
      let tone := if loopPilot i then toneField (lockIn amps) else l.tone
      let pass := if loopPilot i then toneIn (expected s i) (lockIn amps) else metric
      let bad := { l with st := .sweep, tone := tone, wrong := wrongUp l.wrong, fails := l.fails + 1, peaks := l.cur :: l.peaks }
      (pass = true → exec (.loopVerifyDone die m amps metric) s =
        .next (moveLoop s i { l with st := .locked, fails := 0, peaks := [], tone := tone }))
      ∧ (pass = false → l.fails < 2 → exec (.loopVerifyDone die m amps metric) s = .next (moveLoop s i bad))
      ∧ (pass = false → 2 ≤ l.fails → exec (.loopVerifyDone die m amps metric) s = .next (loopFault (moveLoop s i bad) i 3)))
    ∧ (∀ amps, l.st = .locked → loopPilot i = true → exec (.loopPilotCheck die m amps) s = .next
        (if toneIn (expected s i) (lockIn amps) then moveLoop s i { l with tone := toneField (lockIn amps) }
         else moveLoop s i { l with st := .sweep, tone := toneField (lockIn amps), wrong := wrongUp l.wrong }))
    ∧ (l.st = .locked → exec (.loopLockLost die m) s = .next (moveLoop s i { l with st := .acquire })
      ∧ ∀ temp, exec (.loopLightLost die m temp) s = .next (moveLoop s i { l with st := .hold, holdT := temp }))
    ∧ (∀ inBand temp, l.st = .hold → exec (.loopLightReturn die m inBand temp) s = .next (moveLoop s i { l with
        st := if l.holdT + 4 ≤ temp ∨ temp + 4 ≤ l.holdT then .sweep else if inBand then .locked else .acquire }))
    ∧ (l.st = .fault → ∀ peak amps temp metric,
      exec (.loopPeakFound die m peak) s = .next s ∧ exec (.loopSweepExhausted die m) s = .next s
      ∧ exec (.loopLockBandMet die m) s = .next s ∧ exec (.loopAcquireTimeout die m) s = .next s
      ∧ exec (.loopVerifyDone die m amps metric) s = .next s ∧ exec (.loopPilotCheck die m amps) s = .next s
      ∧ exec (.loopLockLost die m) s = .next s ∧ exec (.loopLightLost die m temp) s = .next s
      ∧ exec (.loopLightReturn die m metric temp) s = .next s)

/-- R282, Table 7.8: a Stay port goes from DARK to ACQUIRING when light comes in on an enabled lane whose loops are LOCKED, to TRAINED
with a discovery record queued, down without lock, down when a trained port loses its light, and down when a laser swap takes too
long. R338: a port that is down already goes DARK without an event. -/
def Obligations.StayPortStates : Prop :=
  ∀ (s : State) (i : Fin 8) (p : Nat) (x : Port), p = 7 + i.val → x = getPort s p →
    (heard s p = true → x.stay = .dark → spEn (laneSp s (16 + i.val)) = true →
      (∀ j ∈ laneLoops (16 + i.val), (getLoop s j).st = .locked) →
      exec (.stayLightDetected i) s = .next (setPort s p { x with stay := .acquiring }))
    ∧ (heard s p = true → x.stay = .acquiring →
      exec (.stayAcquired i) s = .next (sendDisc (setPort s p { x with stay := .trained }) p))
    ∧ (x.stay = .acquiring → exec (.noLock i) s = .next (raise (portDown s p 10) (pkgEvent evNoLock 1 p 1 1)))
    ∧ (x.stay = .trained ∨ x.stay = .up → exec (.stayLightLost i) s = .next (portDown s p 10))
    ∧ (x.stay = .laserSwap → exec (.laserSwapTimeout i) s = .next (portDown s p 100))
    ∧ (x.stay = .laserSwap ∨ x.stay = .acquiring ∨ x.stay = .dark → exec (.stayLightLost i) s = .next s)
    ∧ (x.stay = .dark → exec (.stayAcquired i) s = .next s ∧ exec (.noLock i) s = .next s ∧ exec (.laserSwapTimeout i) s = .next s)
    ∧ (∀ v, x.st = .down → portDown s p v =
        setPort s p { x with st := .down, stay := .dark, found := 0, seen := false, swapAt := none, retrain := none })

/-- R277: one round of the light rotation points lane ST(4c + j), if enabled and usable, at peer ((j + 4r) mod 7) + 1, parks the other
ST lanes, holds the receive loops that no peer lights in the round, and moves r on by one modulo 7. -/
def Obligations.LightRotation : Prop :=
  ∀ (s : State), s.optics.dark = false → s.pkg.fenced = false → s.pins.perstN = true →
    ∃ t, exec .lightRotationRound s = .next t ∧ t.optics.rot = (s.optics.rot + 1) % 7
      ∧ (∀ n < 16, getLane t n = { getLane s n with
          point := if spEn (laneSp s n) && laneUsable s n then some ((n % 4 + 4 * s.optics.rot) % 7 + 1) else none })
      ∧ (∀ n, 16 ≤ n → getLane t n = getLane s n)
      ∧ (∀ m < 56, getLoop t (176 + m) =
          (let l := getLoop s (176 + m)
           if l.st = .locked ∧ rotationSees (m % 28 / 4 + 1) s.optics.rot = false
           then { l with st := .hold, holdT := tget 0 s.reef.hTemp 0 } else l))
      ∧ (∀ i, (∀ m < 56, i ≠ 176 + m) → getLoop t i = getLoop s i)
      ∧ t.mem = s.mem ∧ t.ctxs = s.ctxs ∧ t.fab = s.fab ∧ t.fns = s.fns ∧ t.hal = s.hal ∧ t.pkg = s.pkg ∧ t.reef = s.reef

/-- R292, R500, R518, R519: removal takes cartridge power and light away, abandons swaps and reports; an insertion in package reset
only notes the cartridge, during a load-switch fault it waits, else it is authenticated and brought up or left dark; a load-switch
fault takes power from a powered cartridge; the fault's end restores a waiting one. -/
def Obligations.CartridgePresence : Prop :=
  ∀ (s : State),
    (s.pins.lcPresN = false → ∃ t, exec .cartridgeRemoved s = .next t ∧ t.pins.lcPresN = true ∧ t.pins.lcPwrEn = false
        ∧ t.pkg.cartOk = false ∧ t.optics.dark = true ∧ t.optics.swaps = [] ∧ t.optics.due = [] ∧ t.optics.cartSerial = 0
        ∧ (s.fab.outq = [] → t.mem = s.mem ∧ t.ctxs = s.ctxs))
    ∧ (∀ e : CartEnv, s.pins.lcPresN = true →
      let u := modOpt (modPins s fun p => { p with lcPresN := false }) fun o =>
        { o with cartSerial := e.serial, cartMap := e.lines, cartLife := e.life, cartCtr := 0 }
      exec (.cartridgeInserted e) s = .next
        (if s.pins.perstN = false then u
         else if s.pins.lcFaultN = false then modOpt u fun o => { o with lcWait := true }
         else if e.authFail ≠ 0 then authFailed u e.authFail else lightOn (authPassed (calibrateCart u (loopList e.faults)) true)))
    ∧ (s.pins.lcPwrEn = false → exec .lcFault s = .next (modPins s fun p => { p with lcFaultN := false }))
    ∧ (s.pins.lcPwrEn = true → ∃ t, exec .lcFault s = .next t ∧ t.pins.lcFaultN = false ∧ t.pins.lcPwrEn = false
        ∧ t.optics.lcHold = true ∧ t.mem = s.mem ∧ t.ctxs = s.ctxs)
    ∧ (∀ a faults, exec (.lcFaultNHigh ⟨a, faults⟩) s = .next
        (let u := modPins s fun p => { p with lcFaultN := true }
         if s.optics.lcWait = true ∧ s.pins.perstN = true ∧ s.pins.lcPresN = false then
           (if a ≠ 0 then authFailed u a else lightOn (authPassed (calibrateCart u (loopList faults)) true))
         else u))

/-- R289 to R299, Table 7.13: a poll takes each line's record but for the commissioning value, and a line first read FAILED is lost; a
commissioning value is set once; a fade test acts on warnings, fibres and roles in that order; a spare that the locker confirms waits
for its slot or, after a failed line, serves at once, and one that it does not confirm fails; at its slot the swap finishes; a failed
line is marked and reported, and its role's swap starts or hastens; a hot case is reported. -/
def Obligations.LaserLines : Prop :=
  ∀ (s : State),
    (∀ rs : List (BitVec 128), s.pkg.cartOk = true → (∀ n < 32, ∀ r, rs[n]? = some r → fld r 95 92 = 5 → lcState (getLine s n) = 5) →
      ∃ t, exec (.lcLinePoll rs) s = .next t
      ∧ (∀ n < 32, ∀ r, rs[n]? = some r → getLine t n = { getLine s n with lc := setFld r 47 32 (lcComm (getLine s n)) })
      ∧ (∀ n, (32 ≤ n ∨ rs[n]? = none) → getLine t n = getLine s n)
      ∧ t.mem = s.mem ∧ t.ctxs = s.ctxs ∧ t.hal = s.hal)
    ∧ (∀ (rs : List (BitVec 128)) (r : BitVec 128) (u : State), s.pkg.cartOk = true → rs.length < 32 →
      exec (.lcLinePoll rs) s = .next u → exec (.lcLinePoll (rs ++ [r])) s = .next
        (let n := rs.length
         let l := getLine u n
         let q := setFld r 47 32 (lcComm l)
         if fld r 95 92 = 5 ∧ lcState l ≠ 5 then
           lineFailed (setLine u n { l with lc := setFld (setFld q 95 92 (lcState l)) 103 96 (lcRole l) }) n
         else setLine u n { l with lc := q }))
    ∧ (∀ (n : Fin 32) tap, lcState (getLine s n) = 3 → lcComm (getLine s n) = 0x8000 →
      exec (.commissioning n tap) s = .next (commission s n tap))
    ∧ (∀ (n : Fin 32) tap, lcComm (getLine s n) ≠ 0x8000 → exec (.commissioning n tap) s = .next s)
    ∧ (let lines := (List.range 24).filterMap fun r => match lineOf s r with
        | some n => if lcState (getLine s n) = 3 ∧ lcComm (getLine s n) ≠ 0x8000 then some n else none
        | none => none
       exec .fadeTest s = .next ((List.range 24).foldl fadeTrigger ((List.range 6).foldl fibreFade (lines.foldl fadeWarn s))))
    ∧ (∀ (role : Fin 24) (off : Int) amps w, s.optics.swaps.find? (fun v => v.role == role.val && v.step == 2) = some w →
      let u := setLine s w.spare (lcSet (getLine s w.spare) 127 104 ((roleFreq s role : Int) + off).toNat)
      let up := modOpt (swapNotice (setLine u w.spare (lcSet (getLine u w.spare) 95 92 2)) w) fun o =>
        { o with swaps := o.swaps.map fun v => if v = w then { w with step := 4 } else v }
      (lockerOk w.spare off amps = true → exec (.spareTuned role ⟨off, amps⟩) s =
        .next (tuneNext (if w.now then finishSwap up { w with step := 4 } else up) (roleDie role)))
      ∧ (lockerOk w.spare off amps = false → exec (.spareTuned role ⟨off, amps⟩) s =
        .next (nextSpare (raise (setLine u w.spare (lcSet (getLine u w.spare) 95 92 5)) (pkgEvent evSwapFail 2 w.spare 0 0)) w)))
    ∧ (∀ (role : Fin 24) w, s.optics.swaps.find? (fun v => v.role == role.val && v.step == 4) = some w →
      exec (.swapSlot role) s = .next (finishSwap (enterLaserSwap s role) w))
    ∧ (∀ n : Fin 32, s.pkg.cartOk = true →
      let role := lcRole (getLine s n)
      let u := raise (setLine s n (lcSet (getLine s n) 95 92 5)) (pkgEvent evLineFailed 2 n 0 0)
      (lcState (getLine s n) ≠ 3 → exec (.lineFailed n) s = .next (match u.optics.swaps.find? fun w => w.spare == n.val with
        | some w => nextSpare u w
        | none => cartWrite u id))
      ∧ (lcState (getLine s n) = 3 → role < 24 →
        let v := enterLaserSwap (setLane u role { getLane u role with lost := true, point := none }) role
        exec (.lineFailed n) s = .next (match v.optics.swaps.find? fun w => w.role == role with
          | some w => if w.step = 4 then finishSwap v w
            else modOpt v fun o => { o with swaps := o.swaps.map fun x => if x = w then { w with now := true } else x }
          | none => startSwap v role true 0 0)))
    ∧ (∀ t, s.pkg.cartOk = true → 60 < t → exec (.caseTemperatureCheck t) s = .next (raise s (pkgEvent evLcHot 0 0 t 60)))
    ∧ (∀ t, t ≤ 60 → exec (.caseTemperatureCheck t) s = .next s)

/-! ### Power and clocks -/

/-- R393 to R396, R413, R473: at an interval boundary a pending policy takes effect, BMC_CAP comes into force, the estimate joins the
last 488, a brake pulse or an asserted brake puts compute and memory on their last rungs and is then forgotten, level, wanted clock
step and PWR_STAT follow the rungs in force, and the package sections of the mirror are updated with GEN two higher. -/
def Obligations.IntervalBoundary : Prop :=
  ∀ (s : State) (e : IntervalEnv), s.pins.perstN = true →
    ∃ t, exec (.intervalBoundary e) s = .next t
      ∧ t.reef.pol = (if s.reef.polPend then ⟨s.reef.pol.sha, s.reef.pol.act⟩ else s.reef.pol) ∧ t.reef.polPend = false
      ∧ t.reef.bmcForce = s.reef.bmcCap ∧ t.reef.bmcCap = s.reef.bmcCap ∧ t.reef.droopUp = false ∧ t.pkg.brakeLatch = false
      ∧ t.reef.estHist = (estFloor 1000 (estimate s e.p1) :: s.reef.estHist).take 488
      ∧ (s.pkg.brakeLatch = true ∨ s.pins.brakeN = false →
          t.reef.rungC = topRung t.reef.pol.act ∧ t.reef.rungM = 16 - rpMemMin t.reef.pol.act ∧ t.reef.belowRun = 0)
      ∧ t.reef.level = rungLevel t.reef.pol.act (rungC t) ∧ t.reef.dvfsWant = rungStep t.reef.pol.act (rungC t)
      ∧ t.reef.stat = pwrStat t (hottest (e.cdie.take 2)).2 (hottest (e.hbm.take 12)).2
      ∧ t.mirror.gen = s.mirror.gen + 2 ∧ t.mirror.pwr = t.reef.stat ∧ t.mirror.health = t.hal.health ∧ t.mirror.escPol = t.hal.escPol
      ∧ t.mirror.bmcCap = t.reef.bmcCap ∧ t.mirror.k = t.reef.k ∧ t.mirror.slot = t.clk.planSlot ∧ t.mirror.drops = t.fab.transectDrops
      ∧ t.mirror.ports = t.fab.ports ∧ t.mirror.cnt = t.mem.cnt ∧ t.mirror.droops = t.reef.droops
      ∧ t.mirror.stretched = t.reef.stretched ∧ t.mirror.vtab = t.reef.vtab
      ∧ t.pins.brakeN = s.pins.brakeN ∧ t.clk = s.clk

/-- R389, R394, R400 to R406, R412: calibration takes a ratio within a tenth as k and reports one outside; a stale calibration is
marked; the clock goes to the usable step for the wanted one; a droop raises the stretch to the highest threshold crossed, it falls by
one sixteenth, with 16 stretched cycles and a free number more counted (log 1), and at 3 sixteenths asks the next boundary for two rungs; a margin trim in which no move is due leaves every usable
entry in place and marks one above 100 unusable; a floor's end clears it; PWR_BRAKE_N sets its pin and, out of package reset, latches. -/
def Obligations.PowerCommands : Prop :=
  ∀ (s : State),
    (∀ milli, s.pins.perstN = true → 900 ≤ milli → milli ≤ 1100 → exec (.calibration milli) s = .next (modReef s fun r => { r with
        calStale := false, calOut := false, k := fdiv (fpr (.num false milli 0)) (fpr (.num false 1000 0)) }))
    ∧ (∀ milli, s.pins.perstN = true → milli < 900 ∨ 1100 < milli → s.reef.calOut = false →
      exec (.calibration milli) s = .next (raise (modReef s fun r => { r with calStale := false, calOut := true })
        (pkgEvent evCalFault 0 0 milli (if milli < 900 then 900 else 1100))))
    ∧ (∀ milli, s.pins.perstN = true → milli < 900 ∨ 1100 < milli → s.reef.calOut = true →
      exec (.calibration milli) s = .next (modReef s fun r => { r with calStale := false }))
    ∧ (s.pins.perstN = true → s.reef.calStale = false → exec .calStale s = .next (raise (modReef s fun r => { r with
        calStale := true, stat := setFld r.stat 16 16 1 }) (pkgEvent evCalStale 0 0 1 1)))
    ∧ (∀ k : Fin 5, s.pins.perstN = true → s.pkg.computeReset = false → usableStep s s.reef.dvfsWant = (k.val, false) →
      exec (.dvfsStepChange k) s = .next (modReef s fun r => { r with
        dvfsStep := k, marginLow := false, stat := setFld r.stat 35 33 k }))
    ∧ (∀ (d : Fin 2) (j : Fin 5), j.val ≠ 0 → s.pkg.computeReset = false → exec (.droop d j) s = .next (modReef s fun r => { r with
        stretch := max r.stretch j
        stretchDie := tput r.stretchDie d (max (tget 0 r.stretchDie d) j)
        droops := tput r.droops d (tget 0 r.droops d + 1) }))
    ∧ (s.reef.stretch ≠ 0 → exec .droopStretchFall s = .next (modReef { s with freeCtr := s.freeCtr + 1 } fun r => { r with
        stretch := r.stretch - 1
        stretchDie := r.stretchDie.map fun p => (p.1, min p.2 (r.stretch - 1))
        stretched := [(0, tget 0 r.stretched 0 + 16 + Config.freeNat s.freeCtr), (1, tget 0 r.stretched 1 + 16 + Config.freeNat s.freeCtr)] }))
    ∧ (3 ≤ s.reef.stretch →
      exec .droopSustained s = .next (oncePerSecond (modReef s fun r => { r with droopUp := true }) evDroopSust 4096 4096))
    ∧ (∀ e0 e1 : TrimEnv, s.pins.perstN = true → 5 ≤ e0.slack → e0.slack ≤ 8 → 5 ≤ e1.slack → e1.slack ≤ 8 → e0.ring = e0.slack →
      e1.ring = e1.slack → ∃ t, exec (.marginTrim [e0, e1]) s = .next t ∧ t.reef.trimNs = s.clk.mastNs
        ∧ ∀ d < 2, ∀ k < 5, fld (tget vtabReset t.reef.vtab d) (8 * k + 7) (8 * k)
            = (let v := fld (tget vtabReset s.reef.vtab d) (8 * k + 7) (8 * k); if v = 0xFF ∨ v ≤ 100 then v else 0xFF))
    ∧ exec .partitionFloorExpiry s = .next (modReef s fun r => { r with partFloor := none })
    ∧ (∀ level ms, s.pins.perstN = true → s.pkg.halyardUp = true → level ≤ 15 → 1 ≤ ms → ms ≤ 60000 →
      exec (.mgtReefFloor level ms) s = .next (modReef s fun r => { r with partFloor := some (level, s.clk.mastNs + 1000000 * ms) }))
    ∧ exec .pwrBrakeNAssert s = .next { s with pins := { s.pins with brakeN := false }, pkg := { s.pkg with brakeLatch := s.pkg.brakeLatch || s.pins.perstN } }
    ∧ exec .pwrBrakeNDeassert s = .next { s with pins := { s.pins with brakeN := true } }

/-! ### Time, health, resets and restarts -/

/-- R308, R10: one slot of plan time is 128 ns of Mast time; with no plan active or pending, no restart under way and nothing to send,
nothing else happens but what Halyard counts over time. -/
def Obligations.PlanSlotAdvances : Prop :=
  ∀ (s : State), s.pins.perstN = true →
    (∃ t, exec .planSlotAdvance s = .next t ∧ t.clk = { s.clk with planSlot := s.clk.planSlot + 1, mastNs := s.clk.mastNs + 128 })
    ∧ (s.fab.planA = none → s.fab.pendT = none → s.fab.inject = [] → s.fab.outq = [] → s.pkg.restart = none →
      (∀ n < 24, (getLane s n).own = [] ∧ (getLane s n).redo = []) →
      (∀ n < 16, (getLane s n).point = none ∧ (getLane s n).seen = [] ∧ (getLane s n).prev = []) →
      (∀ p < 15, (getPort s p).swapAt = none ∧ (getPort s p).retrain = none ∧ owesHeader s p = false) →
      exec .planSlotAdvance s = .next
        (timePasses { s with clk := { s.clk with planSlot := s.clk.planSlot + 1, mastNs := s.clk.mastNs + 128 } } s.clk.mastNs))

/-- R437, R470, R430, R429: a clean reason goes inactive and no other reason changes; the end of a moderation interval announces
what waits; the flush copies the Field book with its marks to flash; a Trim restart re-acquires every loop of the die that is not
in FAULT. R253 to R256: a patrol scrub read writes no byte of memory; symbols of an HBM line that go wrong join those that were, and a
line that then reads with a correctable error is logged; one that reads clean leaves everything as it was. -/
def Obligations.HealthFlushScrub : Prop :=
  (∀ (s : State),
    (∀ n : Fin 15, cleanHolds s n = true → fld s.hal.health 29 15 >>> n.val % 2 = 1 → ∃ t, exec (.healthReasonClear n) s = .next t
        ∧ fld t.hal.health 29 15 = fld s.hal.health 29 15 - 2 ^ n.val ∧ fld t.hal.health 31 30 = healthClass (fld t.hal.health 29 15)
        ∧ t.mem = s.mem ∧ t.ctxs = s.ctxs ∧ t.reef = s.reef)
    ∧ (∀ n : CtxId, (getFn s n).annDue = true → exec (.msixModeration n) s =
        .next (msixSignal (setFn s n { getFn s n with annNs := some s.clk.mastNs, annDue := false }) n 1))
    ∧ (∀ n : CtxId, (getFn s n).annDue = false → exec (.msixModeration n) s = .next (setFn s n { getFn s n with annNs := none }))
    ∧ (s.pkg.halyardUp = true → s.pkg.restart = none → ∃ t, exec .fieldBookFlush s = .next t ∧ t.hal.flash = t.hal.fb ∧ t.hal.dirty = []
        ∧ { t with hal := s.hal } = s ∧ ∀ a, (∀ r ∈ s.hal.dirty, a ≠ 64 * r + 20) → cget 0 t.hal.fb a = cget 0 s.hal.fb a)
    ∧ (∀ die : Fin 2, s.pins.perstN = true → ∃ t, exec (.trimRestart die) s = .next t
        ∧ (∀ i ∈ allLoops, i / 1024 = die.val → (getLoop t i).st = if (getLoop s i).st = .fault then .fault else .acquire)
        ∧ (∀ i ∈ allLoops, i / 1024 ≠ die.val → getLoop t i = getLoop s i) ∧ t.mem = s.mem ∧ t.ctxs = s.ctxs))
  ∧ (∀ (s : State) (addr : BitVec 40) (upset : List (Nat × Byte)) (pass : Nat),
    (∃ t, exec (.patrolScrubRead addr upset pass) s = .next t ∧ (∀ a, byteAt t a = byteAt s a) ∧ t.ctxs = s.ctxs)
    ∧ (∀ a p k old new, a = addr.toNat - addr.toNat % 64 → isHbm addr.toNat = true → isHbm a = true → place a = some (.hbm k) →
      s.pkg.hbmUp = true → upset ≠ [] →
      old = (match s.mem.upset.find? fun u => u.1 == a with | some u => u.2 | none => []) → new = upset.foldl (flipSym a) old →
      lineClass new = .ce p →
      exec (.patrolScrubRead addr upset pass) s = .next (logErr (modMem s fun m => { m with
        upset := (a, new) :: m.upset.filter fun u => u.1 != a }) ⟨1, none⟩ a 0 p (lineSynField new) (some pass)))
    ∧ (∀ a, a = addr.toNat - addr.toNat % 64 → isHbm addr.toNat = true → (s.mem.upset.find? fun u => u.1 == a) = none →
      exec (.patrolScrubRead addr [] pass) s = .next s))

/-- R418 to R420, R416: at the end of its reset a context is in the state of Table 11.4, with its resources, banks and mappings; a
destroyed one is gone; a command that waits for it is answered ok. R421, R422: a reset that does not end in time becomes a compute
reset of cause 4. R421 to R424, R426: the end of a compute reset leaves no context and no open set, the on-chip stores zero, the
pages that contexts mapped marked, compute and HBM in use; and READY, unless the escalation policy takes the package out of
service. Without PWRGD_CORE it does not end (R511). -/
def Obligations.ResetsEnd : Prop :=
  (∀ (s : State) (c : CtxId) (r : ResetInfo), (getCtx s c).run = .resetting → (getCtx s c).reset = some r → s.pkg.crBusy = false →
    (∃ t, exec (.contextResetDone c) s = .next t
      ∧ ((∀ q ∈ (getCtx s c).queue, midVector q = false) → ∀ d, d ≠ c → getCtx t d = getCtx s d)
      ∧ (r.destroy = false → getCtx t c = reinit (getCtx s c)) ∧ (r.destroy = true → (getCtx t c).run = .none)
      ∧ (∀ n, (getFn s n).busy = some (.reset c) ∨ (getFn s n).busy = some (.destroy c) →
          (getFn t n).busy = none ∧ (getFn t n).done = (getFn s n).post))
    ∧ exec (.teardownStuck c) s = .next (computeReset s 4 none))
  ∧ (∀ (s : State), s.pkg.crBusy = true → s.pins.pwrgdCore = true →
    ∃ t, exec .computeResetDone s = .next t ∧ t.ctxs = [] ∧ t.tiles = [] ∧ t.units = [] ∧ t.pkg.crBusy = false ∧ t.mem.bwin = []
      ∧ (∀ d < 2, ∀ o < dieSize, byteAt t (dieBase d + o) = 0) ∧ (∀ o < 0x10000000, byteAt t (0xF100000000 + o) = 0)
      ∧ (∀ l ∈ pagesToMark ((existing s).foldl quiesce s), l ∈ t.mem.marked)
      ∧ (escalates s.pkg.crCause = false → t.pkg.state = 1 ∧ t.pkg.computeReset = false ∧ t.pkg.hbmUp = true))
  ∧ (∀ (s : State), s.pins.pwrgdCore = false → exec .computeResetDone s = .next s)

/-- R425, R97, Table 11.11: a running context over four times its frame limit is a hang: every context is stopped, the hung one with
hang and the others with hang-abort, a dump and a HANG record are written, the event is raised and every context is reset. R428,
R458: a Halyard restart answers every command in progress; the first slot past its end ends it. The end's time is a free value within
200 ms (log 45). -/
def Obligations.HangAndRestart : Prop :=
  ∀ (s : State),
    (∀ c, s.pkg.restart = none → (getCtx s c).run = .running → 4 * frameLimit (getCtx s c) < (getCtx s c).fr.beats →
      let u := (existing s).foldl (fun s d => stopCtx s d (if d = c then stHang else stHangAbort)) s
      let w := writeDump u u.hal.fbSeq.toNat 3 (hungMask u)
      ∃ body, exec (.hang c) s = .next ((existing u).foldl (fun s d => requestReset s d ⟨3, none, false, s.clk.mastNs, 0⟩)
        (raise (fbAppend w.1 0x11 2 body) (pkgEvent evHang 7 c.val (getCtx s c).fr.beats (4 * frameLimit (getCtx s c))))))
    ∧ (∀ c, ¬((getCtx s c).run = .running ∧ 4 * frameLimit (getCtx s c) < (getCtx s c).fr.beats) → exec (.hang c) s = .next s)
    ∧ (∀ memErr, s.pkg.halyardUp = true → s.pkg.restart = none → ∃ t, exec (.halyardRestart memErr) s = .next t
        ∧ t.pkg.restart = some ⟨s.clk.mastNs, if memErr then 12 else 11, s.clk.mastNs + Config.freeNat s.freeCtr % 200000001⟩
        ∧ (∀ n, (getFn s n).busy.isSome = true → (getFn t n).busy = none ∧ (getFn t n).done = (getFn s n).post)
        ∧ (∀ n, (getFn s n).busy = none → getFn t n = getFn s n)
        ∧ (∀ c, { getCtx t c with drains := [] } = { getCtx s c with drains := [] }) ∧ t.mem = s.mem)
    ∧ (∀ memErr, s.pkg.restart.isSome = true → exec (.halyardRestart memErr) s = .next s)
    ∧ (∀ r, s.pins.perstN = true → s.pkg.restart = some r → ∃ t, exec .planSlotAdvance s = .next t
        ∧ t.pkg.restart = if s.clk.mastNs + 128 < r.endNs then some r else none)

/-! ### The fabric -/

/-- R265 to R267, R308, R309, R320, R333: a header codeword returns credits, frees acknowledged retry bytes, starts the replay that it
asks for, passes HOLD marks on, reports the neighbour's reef and, from the time parent, moves PLAN_SLOT when the gap exceeds a slot.
R329, R340, R409: a header-only packet leaves by a lane that may point at the peer now, with this package's key, reef status, slot and
owed credits; none leaves where no lane may, under a fence or in the dark. -/
def Obligations.Headers : Prop :=
  (∀ (s : State) (p : Fin 15) (h : Header), heard s p = true → (p.val < 7 → recvUsable s p (h.from_ / 4) = true) → s.fab.pendT = none →
    ∃ t, exec (.headerCodeword p h) s = .next t
      ∧ (getPort t p).headNs = s.clk.mastNs + 1 ∧ (getPort t p).credits = addCredits p (getPort s p).credits h.credits
      ∧ (getPort t p).reefSeen = ((getPort s p).reefSeen || h.reef)
      ∧ (let l := if p.val < 7 then h.lane else p + 9
         let y := ackLane (getLane s l) p h.ack
         l < 24 → getLane t l = match h.replay with
           | some n => if n < owedTo y p then { y with redo := y.redo.filter (fun e => e.1 != p.val) ++ [(p.val, n)] } else y
           | none => y)
      ∧ (∀ id v r, h.holds = [(id, v)] → findCirc (planA s) id.toNat = some r → crOut r = p.val → (getCirc t id.toNat).held = v)
      ∧ ((getPort s p).st = .up → h.key.toNat = partKey s → (p.val, h.level.toNat, s.clk.mastNs) ∈ t.reef.nbr)
      ∧ (t.fab.parent ≠ some p.val → t.clk = s.clk)
      ∧ (t.fab.parent = some p.val → t.clk.planSlot =
          (let g := slotGap s.clk.planSlot.toNat ((h.slot.toNat + h.delayNs / 128) % 65536)
           if -1 ≤ g ∧ g ≤ 1 then s.clk.planSlot else BitVec.ofInt 48 (s.clk.planSlot.toNat + g)))
      ∧ t.mem = s.mem ∧ t.ctxs = s.ctxs)
  ∧ (∀ (s : State) (p : Fin 7),
    (∀ l, s.pins.perstN = true → s.pkg.fenced = false → s.optics.dark = false → headerLane s p = some l →
      ∃ t h b, exec (.headerOnlyPacket p) s = .next t ∧ t.fab.tx = .header p h b :: s.fab.tx ∧ h.lane = l
        ∧ h.key.toNat = partKey s % 4096 ∧ h.slot.toNat = s.clk.planSlot.toNat % 65536 ∧ (h.reef, h.level) = reefStatus s
        ∧ h.credits = (getPort s p).owed ∧ (getPort t p).owed = List.replicate 8 0 ∧ t.mem = s.mem ∧ t.ctxs = s.ctxs)
    ∧ (headerLane s p = none ∨ s.pkg.fenced = true ∨ s.optics.dark = true ∨ s.pins.perstN = false →
      exec (.headerOnlyPacket p) s = .next s))

/-- R316, R318, R320, R340, R266: a packet accepted on an up port with a good key joins the queue of the port that its destination
names, frees its input buffer when it is for this package, and is undeliverable where no port leads on; one with a wrong key is
discarded; one that fails decoding or follows a gap is discarded and asked for again, one that has come before is discarded. -/
def Obligations.PacketForwarding : Prop :=
  ∀ (s : State) (port : Fin 15) (p : Packet), heard s port = true → (getPort s port).st = .up → s.pkg.fenced = false →
    (∀ u v o, received s port p.lane p.burst p.fecOk p.seq (payLen p) = (u, true) → o = ⟨p, .data, some (port, chanOf p)⟩ →
      (keyCheck (countRx u port (payLen p)) port p.cls p.key.toNat = (v, false) → exec (.packetForward port p) s = .next (release v o))
      ∧ (keyCheck (countRx u port (payLen p)) port p.cls p.key.toNat = (v, true) →
        (nextPort v p.dst.toNat port = .local_ → exec (.packetForward port p) s = .next (release v o))
        ∧ (nextPort v p.dst.toNat port = .unreachable → exec (.packetForward port p) s = .next (undeliverable v port o))
        ∧ (∀ q, nextPort v p.dst.toNat port = .port q → exec (.packetForward port p) s = .next
            (if p.cls ≠ .req ∧ p.cls ≠ .rsp ∧ (getPort v q).st = .up ∧ mayClass v q p.cls = true
             then emitOn v q { o with p := { p with vc := leaveVc v p port q } } else undeliverable v port o))))
    ∧ (p.fecOk = false → (port.val < 7 → recvUsable s port (p.lane / 4) = true) →
      exec (.packetForward port p) s = .next (askReplay (count s port ctFecUncorr 1) port p.lane))
    ∧ (7 ≤ port.val → p.fecOk = true → (tget Rx.init (getPort s port).rx 0).next < p.seq →
      exec (.packetForward port p) s = .next (askReplay s port p.lane))
    ∧ (7 ≤ port.val → p.fecOk = true → p.seq < (tget Rx.init (getPort s port).rx 0).next → exec (.packetForward port p) s = .next s)
    ∧ (port.val < 7 → recvUsable s port (p.lane / 4) = false → exec (.packetForward port p) s = .next s)

/-- R330 to R333, R310: a chunk of a TRANSIT circuit on its planned port takes the free buffer, parks behind a full one within the pool
and asks for HOLD, and breaks the circuit beyond it; one more than 16 ns off its phase is a slip, and a late one marks HOLD; a chunk
of no circuit of the port is refused towards its origin. -/
def Obligations.CircuitChunks : Prop :=
  ∀ (s u v : State) (port : Fin 15) (k : Chunk) (id : Nat), id = k.circuit.toNat → heard s port = true → (getPort s port).st = .up →
    s.pkg.fenced = false → received s port k.lane k.burst k.fecOk k.seq k.bytes.length = (u, true) →
    keyCheck (owe (countRx u port k.bytes.length) port 7 (codewords k.bytes.length)) port .col k.key.toNat = (v, true) →
    let refused := postAck (count v port ctNaks 1) 0 k.src k.srcCtx k.xfer (.nak k.xfer 1)
    (findCirc (planA v) id = none → exec (.colChunkArrival port k) s = .next refused)
    ∧ (∀ r, findCirc (planA v) id = some r → crRole r = 1 ∨ crIn r ≠ port.val → exec (.colChunkArrival port k) s = .next refused)
    ∧ (∀ r, findCirc (planA v) id = some r → crRole r = 2 → crIn r = port.val →
      let w := chunkSlip v id port k.late
      let x := getCirc w id
      let src : Option Origin := some (k.src, k.srcCtx, k.xfer)
      exec (.colChunkArrival port k) s = .next
        (if x.broken then w
         else if x.buf = none ∧ x.spill = [] then
           setCirc w id { x with buf := some k.bytes, src := src, hold := x.hold || decide (16 < k.late) }
         else if poolUsed w (portDie port) + k.bytes.length ≤ poolSize then
           setCirc w id { x with spill := x.spill ++ [k.bytes], src := src, hold := true }
         else breakCircuit w id port (poolUsed w (portDie port)) poolSize src))
    ∧ (∀ r, findCirc (planA v) id = some r → crRole r ≠ 1 → crRole r ≠ 2 → crIn r = port.val →
      exec (.colChunkArrival port k) s = .next (chunkSlip v id port k.late))

/-- R347, R348, R282, R338, R349, R280, R274: discovery queues a record; a record received puts the port in the state of the first row
of Table 8.16 that applies and stores what it says; a swap notice marks a Stay port's laser swap for its slot and adopts a Shroud
peer's pilot map; silence takes a Shroud port down; a neighbour that discovery does not find leaves its PRESENT port down; a stale
equaliser state is forgotten. -/
def Obligations.Discovery : Prop :=
  ∀ (s : State),
    (∀ p : Fin 15, s.pins.perstN = true → s.optics.dark = false → s.pkg.fenced = false →
      (∀ e ∈ s.fab.outq, e.1 = p.val → isDisc e.2.carries = false) →
      exec (.discoveryTraverse p) s = .next (emitTo s p .mgt 0 0 1 [] (.disc 0)))
    ∧ (∀ (p : Fin 15) r ns, discHeard s p = true → s.fab.outq = [] → s.fab.pendT = none →
      ∃ t, exec (.discRec p r ns) s = .next t ∧ (getPort t p).disc = r ∧ (getPort t p).delay = ns
        ∧ (getPort t p).d = delaySlots ns ∧ (getPort t p).seen = true
        ∧ (getPort t p).st = (if (discRow s p r (delaySlots ns)).1 = 6 then .up else .held) ∧ t.mem = s.mem ∧ t.ctxs = s.ctxs)
    ∧ (∀ (p : Fin 15) tones slot, heard s p = true → 7 ≤ p.val → 13 ≤ p.val ∨ partKey s ≠ 0 →
      let x := getPort s p
      (∀ t : BitVec 48, slot = some t → s.clk.planSlot.toNat < t.toNat →
        exec (.swapNotice p ⟨tones, slot⟩) s = .next (setPort s p { x with swapAt := some t.toNat, retrain := none }))
      ∧ ((∀ t : BitVec 48, slot = some t → t.toNat ≤ s.clk.planSlot.toNat) → x.stay ≠ .dark →
        exec (.swapNotice p ⟨tones, slot⟩) s = .next
          (setPort s p { x with stay := .laserSwap, swapAt := none, retrain := some (s.clk.planSlot.toNat + 8) })))
    ∧ (∀ (p : Fin 15) tones slot, heard s p = true → p.val < 7 → partKey s ≠ 0 →
      ∃ t, exec (.swapNotice p ⟨tones, slot⟩) s = .next t ∧ { t with optics := s.optics } = s
        ∧ (∀ c < 4, (tones.filter fun e => e.1 / 4 == c) ≠ [] →
            tget [] t.optics.pilot (4 * p + c) = (tones.filter fun e => e.1 / 4 == c).map (·.2))
        ∧ (∀ e, e ∈ t.optics.fresh ↔ e ∈ s.optics.fresh ∧ ¬(e.1 = p.val ∧
            ∃ k ∈ tones, k.1 = e.2 ∧ k.2 ∉ expected s (176 + (4 * p + k.1 / 4)))))
    ∧ (∀ (p : Fin 15) tones slot, partKey s = 0 → p.val < 13 → exec (.swapNotice p ⟨tones, slot⟩) s = .next s)
    ∧ (∀ p : Fin 7, exec (.shroudPeerTimeout p) s = .next (portDown (setPort s p { getPort s p with headNs := 0 }) p 50))
    ∧ (∀ p : Fin 15, phPresent (hdrA s) p = true → exec (.neighbourNotFound p) s = .next
        (if (getPort s p).st = .down then retime (holdCircuits (raise s (pkgEvent evPortDown 1 p 100 100)) p) else portDown s p 100))
    ∧ (∀ p : Fin 15, phPresent (hdrA s) p = false → exec (.neighbourNotFound p) s = .next s)
    ∧ (∀ (p : Fin 7) (l : Fin 16), ∃ t, exec (.equaliserStateStale p l) s = .next t
        ∧ (∀ e, e ∈ t.optics.fresh ↔ e ∈ s.optics.fresh ∧ e ≠ (p.val, l.val)) ∧ { t with optics := s.optics } = s)

/-- R342 to R345, R350, R351, R312: records and fences that come as MGT act as the commands do while Halyard serves; a running lease
timer that expires stops, fences the package and is reported; a transect adds each port's figures and, where its interval is due,
reports each PRESENT port and starts the interval again; at its slot the plan epoch makes the accepted plan and set-points the active
ones. -/
def Obligations.FabricManagement : Prop :=
  ∀ (s : State),
    (s.pins.perstN = true → s.pkg.halyardUp = true → exec .mgtFence s = .next (fence s)
      ∧ (∀ r, (∀ k ∈ leaseChecks s r, k.2.1 = false) → exec (.mgtLease r) s = .next (modFab s fun f => { f with
          leaseNs := some s.clk.mastNs, leaseSeq := some (BitVec.ofNat 32 (fld r 143 112)) }))
      ∧ ∀ r, (∃ k ∈ leaseChecks s r, k.2.1 = true) →
          exec (.mgtLease r) s = .next (modFab s fun f => { f with leaseBad := f.leaseBad + 1 }))
    ∧ (s.pins.perstN = true → s.pkg.halyardUp = false → ∀ r,
      exec .mgtFence s = .next (modFab s fun f => { f with mgtDrops := f.mgtDrops + 1 })
      ∧ exec (.mgtLease r) s = .next (modFab s fun f => { f with mgtDrops := f.mgtDrops + 1 }))
    ∧ (s.fab.leaseNs.isSome = true →
      exec .leaseExpired s = .next (raise (fence (modFab s fun f => { f with leaseNs := none })) (pkgEvent evLeaseExpired 0 0 1000 1000)))
    ∧ (s.fab.leaseNs = none → exec .leaseExpired s = .next s)
    ∧ (∀ m, s.pins.perstN = true →
      let u := (List.range 15).foldl (addFigures m) s
      let w := if (List.range 15).any fun p => 20000 < (getPort u p).preFec then reasonOn u 2 else u
      exec (.transect m) s = .next (if transectDue w then
          modFab ((List.range 15).foldl (transectPort m) w) fun f => { f with
            transectNs := w.clk.mastNs, trFrame := trFrameNow ((List.range 15).foldl (transectPort m) w) }
        else w))
    ∧ (∀ T pl, s.fab.pendT = some T → s.fab.nextPlan = some pl → T ≤ s.clk.planSlot.toNat → ∃ t, exec .planEpoch s = .next t
        ∧ t.fab.planA = some pl ∧ t.fab.pendT = none ∧ t.fab.nextPlan = none ∧ t.fab.epochT = T ∧ t.fab.applied = !s.fab.told
        ∧ t.fab.told = false ∧ t.optics.sp.act = s.optics.sp.sha ∧ t.optics.sp.sha = s.optics.sp.act
        ∧ t.fab.leaseNs = some s.clk.mastNs ∧ t.fab.leaseSeq = none)
    ∧ (∀ T, s.fab.pendT = some T → s.clk.planSlot.toNat < T → exec .planEpoch s = .next s)

/-! ### Frame programs: beats and CTRL words -/

/-- R86, R87, R95 to R99, R101, R399, R417, R473, R531: at a beat boundary of a RUNNING context a stop that is due acts, else a pending
reset is entered; else a reef hold, a replay pass, a due tick and the bundle come in this order; the context's section of the mirror
is updated in every case. A hold beat moves the beat number and the position in the reef pattern on and leaves tokens, credits, counts
and the issue position; a reef hold counts in REEF_HOLDS and not in FRAME_BEATS. The tick moves the frame number on, up to its last
value, and starts the frame counts anew. -/
def Obligations.BeatBoundary : Prop :=
  ∀ (s : State) (c : CtxId) (fetched : Bool) (x : Ctx), x = getCtx s c →
    (x.run ≠ .running ∨ s.pkg.computeReset = true → exec (.beatBoundary c fetched) s = .next (sampleCtx s c))
    ∧ (x.run = .running → s.pkg.computeReset = false →
      (x.is.stopDue ≠ [] → exec (.beatBoundary c fetched) s = .next (sampleCtx (takeStops s c) c))
      ∧ (∀ info, x.is.stopDue = [] → x.is.reset = some info →
        exec (.beatBoundary c fetched) s = .next (sampleCtx (enterReset s c info) c))
      ∧ (x.is.stopDue = [] → x.is.reset = none → reefHolds s.reef.level x.is.k = true →
        ∃ t, exec (.beatBoundary c fetched) s = .next t ∧ (getCtx t c).is.beatNo = x.is.beatNo + 1 ∧ (getCtx t c).is.k = (x.is.k + 1) % 16
          ∧ (getCtx t c).is.pc = x.is.pc ∧ (getCtx t c).is.rep = x.is.rep ∧ (getCtx t c).is.loops = x.is.loops
          ∧ (getCtx t c).tokens = x.tokens ∧ (getCtx t c).value = x.value ∧ (getCtx t c).cap = x.cap ∧ (getCtx t c).cnt = x.cnt
          ∧ (getCtx t c).queue = x.queue ∧ (getCtx t c).fr.beats = x.fr.beats ∧ (getCtx t c).fr.reefHolds = x.fr.reefHolds + 1
          ∧ (getCtx t c).fr.num = x.fr.num ∧ (∀ d, d ≠ c → getCtx t d = getCtx s d)
          ∧ (getSample t c).gen = (getSample s c).gen + 2 ∧ (getSample t c).tokens = (getCtx t c).tokens
          ∧ (getSample t c).value = (getCtx t c).value ∧ (getSample t c).cap = (getCtx t c).cap ∧ (getSample t c).cnt = (getCtx t c).cnt)
      ∧ (∀ p n, x.is.stopDue = [] → x.is.reset = none → reefHolds s.reef.level x.is.k = false → nextPass x.is = some (p, n) →
        exec (.beatBoundary c fetched) s = .next (sampleCtx (replayBeat (peekPhase s c) c p n) c))
      ∧ (x.is.stopDue = [] → x.is.reset = none → reefHolds s.reef.level x.is.k = false → nextPass x.is = none → x.is.tickDue = true →
        ∃ t, exec (.beatBoundary c fetched) s = .next t ∧ (getCtx t c).fr.beats = 0 ∧ (getCtx t c).is.tickDue = false
          ∧ (getCtx t c).fr.num = (if x.fr.num = BitVec.allOnes 48 then x.fr.num else x.fr.num + 1))
      ∧ (x.is.stopDue = [] → x.is.reset = none → reefHolds s.reef.level x.is.k = false → nextPass x.is = none → x.is.tickDue = false →
        x.is.rep = 0 → exec (.beatBoundary c fetched) s = .next (sampleCtx (match prepare c fetched 4096 s with
          | .hold u order g => holdBeat (if order = 3 then peekPhase u c else u) c order g
          | .stop u st => stopCtxW u c st (if st = stMemUe then ueWhy u else .plain)
          | .issue u b => issueBeat u c b) c))
      ∧ (∀ b, x.is.stopDue = [] → x.is.reset = none → reefHolds s.reef.level x.is.k = false → nextPass x.is = none →
        x.is.tickDue = false → x.is.rep ≠ 0 → b = bundleOf x.is.cur → exec (.beatBoundary c fetched) s = .next (sampleCtx
          (if queuesOk x ((actWords b x.is.rep).map (·.2) |>.filter isServer) then issueBeat s c b else holdBeat s c 5 none) c)))

/-- R79, R80, R82 to R84, R86, Tables 2.14 and 2.17: what each kind of CTRL word does at cycle 0 of a beat of a RUNNING context; a raise
past 65,535 or a return past CAP leaves the counter and stops the context at the next boundary; an invalid word stops it. -/
def Obligations.ControlWords : Prop :=
  ∀ (s : State) (c : CtxId) (w : BitVec 128) (x : Ctx), x = getCtx s c → x.run = .running → s.pkg.computeReset = false → swClass w = 7 →
    (ctrlOk w = true →
      (ctrlKind w = 0 → ∀ gs, gs = (wordGates w).filter (fun g => g.1 != 0) →
        (gatesMet x gs = true → exec (.gate c w) s = .next (setCtx s c (takeGates x gs)))
        ∧ (gatesMet x gs = false → exec (.gate c w) s = .next s))
      ∧ (ctrlKind w = 1 → ∀ k v, k = fld w 95 86 → v = tokenVal x k + fld w 85 70 →
        (v ≤ 65535 → exec (.tokenAdd c w) s = .next (setCtx s c { x with tokens := tput x.tokens k (BitVec.ofNat 16 v) }))
        ∧ (65535 < v → exec (.tokenAdd c w) s = .next (dueStop (setCtx s c x) c stTokenOver)))
      ∧ (ctrlKind w = 2 → exec (.tokenSet c w) s =
        .next (setCtx s c { x with tokens := tput x.tokens (fld w 95 86) (BitVec.ofNat 16 (fld w 85 70)) }))
      ∧ (ctrlKind w = 3 → ∀ p v, p = fld w 95 88 → v = (tget 0 x.value p).toNat + fld w 87 72 →
        (v ≤ (tget 0 x.cap p).toNat → exec (.creditReturn c w) s =
          .next (setCtx s c { x with value := tput x.value p (BitVec.ofNat 16 v) }))
        ∧ ((tget 0 x.cap p).toNat < v → exec (.creditReturn c w) s = .next (dueStop (setCtx s c x) c stCreditOver)))
      ∧ (ctrlKind w = 4 → ∀ p, p = fld w 95 88 → exec (.creditSet c w) s = .next (capFail c x.queue.length (setCtx s c { x with
          cap := tput x.cap p (BitVec.ofNat 16 (fld w 87 72)), value := tput x.value p (BitVec.ofNat 16 (fld w 71 56)) })))
      ∧ (ctrlKind w = 5 → exec (.countSet c w) s =
        .next (setCtx s c { x with cnt := tput x.cnt (fld w 95 90) (BitVec.ofNat 32 (fld w 89 58)) })))
    ∧ (ctrlOk w = false →
      (ctrlKind w = 0 → exec (.gate c w) s = .next (stopCtx s c stBundle))
      ∧ (ctrlKind w = 1 → exec (.tokenAdd c w) s = .next (stopCtx s c stBundle))
      ∧ (ctrlKind w = 2 → exec (.tokenSet c w) s = .next (stopCtx s c stBundle))
      ∧ (ctrlKind w = 3 → exec (.creditReturn c w) s = .next (stopCtx s c stBundle))
      ∧ (ctrlKind w = 4 → ∀ t, t = stopCtx s c stBundle → exec (.creditSet c w) s = .next (capFail c (getCtx t c).queue.length t))
      ∧ (ctrlKind w = 5 → exec (.countSet c w) s = .next (stopCtx s c stBundle)))

/-! ### Tile words -/

/-- R119 to R121, R124 to R126, R151 to R155, R170, R533: MAC adds the group values of its operands to the set, with a sparse B window at
twice the K; the transposed MAC takes B from the streaming region; CLEAR empties the set; DRAIN holds it and lands at its last cycle;
TXOP 1 loads a region. MAC writes no memory in its cycle. On a held set, and for the two MACs on one that no block start has reached,
the word is suppressed and the context stops; a TXOP 1 that breaks R152 or R154 stops it too. -/
def Obligations.MatrixWords : Prop :=
  ∀ (s : State) (o : TileOp) (w : TW) (u : State) (x : ASet) (g k r : Nat), WordRuns s o w u → x = twSet u w →
    macShape (pairClass (rcFormat x.recB)) = (g, k, r) →
    (∀ sp kk v1 ra v2 cb, rwMxop o.rw = 1 → x.started = true → twB w + storeBytes (rcFormat x.recB) (32 * k) ≤ tileSize →
      spFind (getCtx u w.c) (twB w) (storeBytes (rcFormat x.recB) (32 * k)) = .ok sp → (sp ≠ none → has24 (rcFormat x.recB) = true) →
      kk = (if sp = none then k else 2 * k) →
      readOperand w x.recA (twA w) r kk none u = (v1, .ok ra) → readOperand w x.recB (twB w) 32 kk sp v1 = (v2, .ok cb) →
      (x.held = false → exec (.mac o) s = .next (putTwSet v2 w (accumRows x g kk r ra cb))
        ∧ BytesKept s (putTwSet v2 w (accumRows x g kk r ra cb)) 0 0)
      ∧ (x.held = true → exec (.mac o) s = .next (stopCtx v2 o.ctx stAccState)))
    ∧ (∀ reg rest v ra, rwMxop o.rw = 2 → x.started = true → (getTile u w.t).regions = reg :: rest → reg.ready ≤ w.cyc →
      regionRow (rcFormat reg.recB) = regionRow (rcFormat x.recB) → readOperand w x.recA (twA w) r k none u = (v, .ok ra) →
      (x.held = false → exec (.macTransposed o) s = .next (putTwSet
        (setTile v w.t { getTile v w.t with
          regions := if reg.rows ≤ reg.taken + k then rest else { reg with taken := reg.taken + k } :: rest }) w
        (accumRows x g k r ra (columns (pieces 32 k (reg.vals.drop (32 * reg.taken)))))))
      ∧ (x.held = true → exec (.macTransposed o) s = .next (stopCtx v o.ctx stAccState)))
    ∧ (rwMxop o.rw = 4 → (rwTxop o.rw = 1 → loadBreaks w u = false) →
      (x.held = false → exec (.clear o) s = .next (putTwSet u w { x with pairs := [], p := 0, inBad := false }))
      ∧ (x.held = true → exec (.clear o) s = .next (stopCtx u o.ctx stAccState)))
    ∧ (∀ out vs d ws, rwMxop o.rw = 3 → (rwTxop o.rw = 1 → loadBreaks w u = false) → out = twRec u w →
      vs = (List.range 1024).map (fun i => pairVal (tget (0, 0) x.pairs i)) →
      d = convert (twConv u w out (twD w)) (x.tries * lowerStep x)
        (drainBlocks (rcFormat out) (vs.map fun v => XVal.scale v (x.tries * lowerStep x) : List XVal)) →
      convWrites out (twD w) d = some ws →
      let rep := !vs.all XVal.isNum && replayable x out
      exec (.drain o) s = .next (modCtx (putTwSet u w { x with held := true }) w.c fun y => modIs y fun i => { i with
        drains := i.drains ++ [{
          cycle := w.cyc + drainCycles (rcFormat out) - 1, tile := w.lt, aset := twAset w.sw, writes := ws
          cause := drainCause x out (vs.all XVal.isNum) d, redrains := if rep then 0 else d.tries, replay := rep, tag := w.tag
          beats := (getCtx u w.c).fr.beats }] }))
    ∧ (∀ sp v us f, rwTxop o.rw = 1 → f = rcFormat x.recB → loadBreaks w u = false →
      (if has24 f then spFind (getCtx u w.c) (twA w) 4096 else .ok none) = .ok sp →
      readUnits w x.recB (twA w) (if isGrid f then regionRows f * 32 / 64 else regionRows f)
        (if isGrid f then (if sp.isSome then 32 else 64) else (if sp.isSome then 16 else 32)) sp u = (v, .ok us) →
      let mx := isScaled f && !isGrid f
      let vals := if mx then (requantRegion f (regionRowsOf f us)).1 else regionRowsOf f us
      let t := setTile v w.t { getTile v w.t with
        regions := (getTile v w.t).regions ++ [⟨x.recB, regionRows f, 0, w.cyc + regionReady f, vals.flatten⟩] }
      exec (.txopLoad o) s = .next (if mx && (requantRegion f (regionRowsOf f us)).2 then
        nonfiniteEvent t w.c w.t (twAset w.sw) 3 (getCtx u w.c).fr.beats w.tag else t))
    ∧ (rwTxop o.rw = 1 → loadBreaks w u = true → exec (.txopLoad o) s = .next (stopCtx u o.ctx stTranspose))
    ∧ (rwMxop o.rw = 1 → x.started = false → twA w < tileSize → twB w < tileSize →
      exec (.mac o) s = .next (stopCtx u o.ctx stAccState))

/-- R63, R65 to R67, R101, R532: a mesh send reads 256 bytes at D and leaves for one tile, a row or a column without the sender; one to a
tile beyond the context's stops the context; what is in flight lands in order of cycle and source tile, at address D of the
receiving store. -/
def Obligations.MeshWords : Prop :=
  (∀ (s : State) (o : TileOp) (w : TW) (u v : State) (bs : List Byte), WordRuns s o w u → tileRead w (twD w) 256 u = (v, .ok bs) →
    let sends := fun (op : Nat) => (meshDests (getCtx u w.c) op (rwMdest o.rw) w.lt).filterMap fun l =>
      (physTile (getCtx u w.c) l).map fun t =>
        ({ cycle := meshLands w.cyc w.t t, src := w.lt, dst := l, addr := twD w, data := bs } : MeshSend)
    (rwMdest o.rw < nTiles (getCtx u w.c) →
      (rwMsop o.rw = 1 → exec (.meshSend o) s = .next (modCtx v w.c fun y => modIs y fun i => { i with mesh := i.mesh ++ sends 1 }))
      ∧ (rwMsop o.rw = 2 → exec (.meshRowSend o) s = .next (modCtx v w.c fun y => modIs y fun i => { i with mesh := i.mesh ++ sends 2 }))
      ∧ (rwMsop o.rw = 3 →
        exec (.meshColumnSend o) s = .next (modCtx v w.c fun y => modIs y fun i => { i with mesh := i.mesh ++ sends 3 })))
    ∧ (nTiles (getCtx u w.c) ≤ rwMdest o.rw →
      (rwMsop o.rw = 1 → exec (.meshSend o) s = .next (stopCtx v o.ctx stTileAddr))
      ∧ (rwMsop o.rw = 2 → exec (.meshRowSend o) s = .next (stopCtx v o.ctx stTileAddr))
      ∧ (rwMsop o.rw = 3 → exec (.meshColumnSend o) s = .next (stopCtx v o.ctx stTileAddr))))
  ∧ (∀ (s : State) (o : TileOp) (w : TW) (u : State), WordRuns s o w u → tileSize < twD w + 256 →
      (rwMsop o.rw = 1 → exec (.meshSend o) s = .next (stopCtx u o.ctx stTileAddr))
      ∧ (rwMsop o.rw = 2 → exec (.meshRowSend o) s = .next (stopCtx u o.ctx stTileAddr))
      ∧ (rwMsop o.rw = 3 → exec (.meshColumnSend o) s = .next (stopCtx u o.ctx stTileAddr)))
  ∧ (∀ (s : State) (c : CtxId), (getCtx s c).is.mesh = [] → exec (.meshArrival c) s = .next s)
  ∧ (∀ (s : State) (c : CtxId) (m : MeshSend) (t : Nat), firstMesh (getCtx s c).is.mesh = some m → physTile (getCtx s c) m.dst = some t →
      exec (.meshArrival c) s = .next (tileWrite
        (modCtx s c fun x => modIs x fun i => { i with mesh := i.mesh.erase m }) t m.addr m.data))

/-- R101, R133, R134, Table 3.7: every vector function takes 256 lanes at A, and B where it has two operands, writes its result at D and
nothing else; masked select writes the lanes that B selects, CVT the target's elements and scales. Lanes of A beyond the tile store
stop the context. -/
def Obligations.VectorWords : Prop :=
  ∀ (s : State) (o : TileOp) (w : TW) (u : State), WordRuns s o w u →
    let vec := fun (i : Instr) (v : State) (ys : List Fp) =>
      exec i s = .next (tileWrite v w.t (twD w) (lanesBytes ys))
      ∧ BytesKept s (tileWrite v w.t (twD w) (lanesBytes ys)) (tileBase w.t + twD w) 1024
    let one := fun (i : Instr) (v : State) (y : Fp) =>
      exec i s = .next (tileWrite v w.t (twD w) (leBytes 4 y.toNat))
      ∧ BytesKept s (tileWrite v w.t (twD w) (leBytes 4 y.toNat)) (tileBase w.t + twD w) 4
    (∀ v a, readLanes w (twA w) u = (v, .ok a) →
      (twD w + 1024 ≤ tileSize →
        (rwVxop o.rw = 6 → vec (.vxExp2 o) v (a.map fexp2))
        ∧ (rwVxop o.rw = 7 → vec (.vxRsqrt o) v (a.map frsqrt))
        ∧ (rwVxop o.rw = 8 → vec (.vxRecip o) v (a.map frecip)))
      ∧ (twD w + 4 ≤ tileSize →
        (rwVxop o.rw = 10 → one (.vxLaneSum o) v (laneSum a))
        ∧ (rwVxop o.rw = 11 → one (.vxLaneMax o) v (laneMax a)))
      ∧ (∀ v2 b, readLanes w (twB w) v = (v2, .ok b) → twD w + 1024 ≤ tileSize →
        (rwVxop o.rw = 1 → vec (.vxAdd o) v2 (List.zipWith fadd a b))
        ∧ (rwVxop o.rw = 2 → vec (.vxMul o) v2 (List.zipWith fmul a b))
        ∧ (rwVxop o.rw = 4 → vec (.vxMax o) v2 (List.zipWith fmax a b))
        ∧ (rwVxop o.rw = 5 → vec (.vxMin o) v2 (List.zipWith fmin a b))
        ∧ (∀ v3 d, readLanes w (twD w) v2 = (v3, .ok d) → rwVxop o.rw = 3 →
          vec (.vxFma o) v3 (List.zipWith (fun p q => ffma p.1 p.2 q) (List.zip a b) d))
        ∧ (rwVxop o.rw = 12 → ∃ t, exec (.vxMaskedSelect o) s = .next t ∧ BytesKept s t (tileBase w.t + twD w) 1024
          ∧ ∀ l < 256, ∀ k < 4, byteAt t (tileBase w.t + twD w + 4 * l + k) =
            if b.getD l 0 = 0 then byteAt s (tileBase w.t + twD w + 4 * l + k) else (leBytes 4 (canonFp (a.getD l 0)).toNat).getD k 0)))
    ∧ (∀ src dst v us ws, rwVxop o.rw = 9 → dst = twRec u w → src = (getCtx u w.c).recipes.act.getD (rcPair dst) 0 →
      readUnits w src (twA w) (256 / blkElems (rcFormat src)) (blkElems (rcFormat src)) none u = (v, .ok us) →
      convOver dst (twD w) 256 = false →
      let d := convert (twConv v w dst (twD w)) 0 (laneBlocks (rcFormat dst) us.flatten)
      convWrites dst (twD w) d = some ws →
      let y := modCtx v w.c fun x => modFr x fun f => { f with redrain := f.redrain + BitVec.ofNat 32 d.tries }
      exec (.vxCvt o) s = .next (ws.foldl (fun t p => tileWrite t w.t p.1 p.2)
        (if d.conv then nonfiniteEvent y w.c w.t (twAset w.sw) 3 (getCtx u w.c).fr.beats w.tag else y)))
    ∧ (tileSize < twA w + 1024 →
      let bad := fun (i : Instr) (v : State) => exec i s = .next (stopCtx v o.ctx stTileAddr)
      let ub := (readLanes w (twB w) u).1
      (rwVxop o.rw = 6 → bad (.vxExp2 o) u) ∧ (rwVxop o.rw = 7 → bad (.vxRsqrt o) u) ∧ (rwVxop o.rw = 8 → bad (.vxRecip o) u)
      ∧ (rwVxop o.rw = 10 → bad (.vxLaneSum o) u) ∧ (rwVxop o.rw = 11 → bad (.vxLaneMax o) u)
      ∧ (rwVxop o.rw = 1 → bad (.vxAdd o) ub) ∧ (rwVxop o.rw = 2 → bad (.vxMul o) ub) ∧ (rwVxop o.rw = 4 → bad (.vxMax o) ub)
      ∧ (rwVxop o.rw = 5 → bad (.vxMin o) ub) ∧ (rwVxop o.rw = 12 → bad (.vxMaskedSelect o) ub)
      ∧ (rwVxop o.rw = 3 → bad (.vxFma o) (readLanes w (twD w) ub).1))


/-! ### Servers -/

/-- R72 to R76, R81, R237, R238: the head request of a mover that has its credits and passes its checks starts and takes exactly CTAKE; one
that fails a check moves nothing and is a stop due at the next boundary; a COPY moves its one run line by line; on completion its
place is free and DONE_TOKEN rises. -/
def Obligations.Movers : Prop :=
  ∀ (s : State) (c : CtxId) (m : Fin 48),
    (∀ u q, startHead noPre s c 2 m.val = .go u q →
      (∀ v q', moveCheck u c q = (v, none) → q' = { q with phase := .serving, holds := moveSpans v c q } →
        let t := moveWork (takeCredits v c q') c q'
        (mdOp q.desc = 0 → exec (.moveCopy c m) s = .next t) ∧ (mdOp q.desc = 1 → exec (.moveStrided c m) s = .next t)
        ∧ (mdOp q.desc = 2 → exec (.moveGather c m) s = .next t) ∧ (mdOp q.desc = 3 → exec (.moveScatter c m) s = .next t)
        ∧ (mdOp q.desc = 4 → exec (.moveTransposingCopy c m) s = .next t))
      ∧ (∀ v st, moveCheck u c q = (v, some st) →
        let t := failHead v c q st
        (mdOp q.desc = 0 → exec (.moveCopy c m) s = .next t) ∧ (mdOp q.desc = 1 → exec (.moveStrided c m) s = .next t)
        ∧ (mdOp q.desc = 2 → exec (.moveGather c m) s = .next t) ∧ (mdOp q.desc = 3 → exec (.moveScatter c m) s = .next t)
        ∧ (mdOp q.desc = 4 → exec (.moveTransposingCopy c m) s = .next t))
      ∧ swCtake q.sw ≤ (tget 0 (getCtx s c).value (swCpool q.sw)).toNat
      ∧ (∀ v q', moveCheck u c q = (v, none) → q' = { q with phase := .serving, holds := moveSpans v c q } →
        (tget 0 (getCtx (takeCredits v c q') c).value (swCpool q.sw)).toNat = (tget 0 (getCtx s c).value (swCpool q.sw)).toNat - swCtake q.sw))
    ∧ (∀ u q v q' r q'', startHead noPre s c 2 m.val = .go u q → mdOp q.desc = 0 → moveCheck u c q = (v, none) →
      q' = { q with phase := .serving, holds := moveSpans v c q, written := if mdDstSpace q.desc = 1 then [] else [(mdDst q.desc, mdLen q.desc)] } →
      (cutSrc q.desc (0, 0, mdLen q.desc)).foldl (movePart c) (takeCredits v c { q with phase := .serving, holds := moveSpans v c q }, q', none)
        = (r, q'', none) → exec (.moveCopy c m) s = .next (settleMove r c q''))
    ∧ (∀ u q st, startHead noPre s c 2 m.val = .bad u q st →
      exec (.moveCopy c m) s = .next (failHead u c q st) ∧ exec (.moveStrided c m) s = .next (failHead u c q st)
      ∧ exec (.moveGather c m) s = .next (failHead u c q st) ∧ exec (.moveScatter c m) s = .next (failHead u c q st)
      ∧ exec (.moveTransposingCopy c m) s = .next (failHead u c q st))
    ∧ (startHead noPre s c 2 m.val = .idle → exec (.moveCopy c m) s = .next s ∧ exec (.moveStrided c m) s = .next s
      ∧ exec (.moveGather c m) s = .next s ∧ exec (.moveScatter c m) s = .next s ∧ exec (.moveTransposingCopy c m) s = .next s)
    ∧ (∀ q, srvRuns s c = true → headIn s c 2 m.val .ready = some q → exec (.moveDone c m) s = .next (finishHead s c q))
    ∧ (srvRuns s c = false ∨ headIn s c 2 m.val .ready = none → exec (.moveDone c m) s = .next s)

/-- R260 to R264, R321: a board peer's REQ that a grant covers is served and answered, another is refused, a wrong key is dropped; an
answer of the current epoch to the own oldest REQ lands its bytes, a refusal or an error is a stop due at the next boundary; any other
answer is discarded. -/
def Obligations.PeerRequests : Prop :=
  ∀ (s : State),
    (∀ (q : PeerQ) port a u, port = planePort s q.plane → a = q.addr.toNat / 64 * 64 → port < 7 → heard s port = true →
      (getPort s port).st = .up → s.pkg.fenced = false →
      (keyCheck s port .req q.key.toNat = (u, false) → exec (.peerReq q) s = .next u)
      ∧ (keyCheck s port .req q.key.toNat = (u, true) →
        let reply := fun (t : State) (kind : Nat) (bs : List Byte) => emitTo t port .rsp 0 q.ctx 1 bs (.peerRsp q.epoch kind bs)
        (u.pkg.computeReset = true ∨ grantOwner u q = none ∨ physOk a 64 = false → exec (.peerReq q) s = .next (reply u 1 []))
        ∧ (∀ owner, u.pkg.computeReset = false → grantOwner u q = some owner → physOk a 64 = true →
          (q.write = true → isHbm a = true → q.mask ≠ BitVec.allOnes 64 → exec (.peerReq q) s = .next (reply u 1 []))
          ∧ (q.write = true → isHbm a = false ∨ q.mask = BitVec.allOnes 64 → exec (.peerReq q) s = .next (reply (serveWrite u q) 0 [])
            ∧ ∀ x, byteAt (serveWrite u q) x =
              if a ≤ x ∧ x < a + 64 ∧ bit q.mask (x - a) = true then q.data.getD (x - a) 0 else byteAt s x)
          ∧ (∀ t bs, q.write = false → serveRead u owner q = (t, some bs) → exec (.peerReq q) s = .next (reply t 0 bs))
          ∧ (∀ t, q.write = false → serveRead u owner q = (t, none) → exec (.peerReq q) s = .next (reply t 2 [])))))
    ∧ (∀ (q : PeerQ), s.pkg.fenced = true → exec (.peerReq q) s = .next s)
    ∧ (∀ (c : CtxId) (m : Fin 48) (key : BitVec 12) (epoch : BitVec 16) kind data,
      epoch ≠ (getCtx s c).epoch ∨ partKey s = 0 ∨ key.toNat ≠ partKey s → exec (.peerRsp c m ⟨key, epoch, kind⟩ data) s = .next s)
    ∧ (∀ (c : CtxId) (m : Fin 48) (key : BitVec 12) (epoch : BitVec 16) data (q : SrvReq) (o : PeerOp) rest,
      srvRuns s c = true → epoch = (getCtx s c).epoch → partKey s ≠ 0 → key.toNat = partKey s →
      headIn s c 2 m.val .serving = some q → q.resv = o :: rest →
      exec (.peerRsp c m ⟨key, epoch, 1⟩ data) s = .next (failHead s c q stRemote)
      ∧ exec (.peerRsp c m ⟨key, epoch, 2⟩ data) s = .next (failHeadW s c q stMemUe { Why.plain with remote := true })
      ∧ (o.write = true → exec (.peerRsp c m ⟨key, epoch, 0⟩ data) s = .next (settle s c { q with resv := rest }))
      ∧ (o.write = false → data.length = (opPlaces o).length → ∀ v q',
        (o.parts.foldl (landPart c (spreadBytes o data)) (s, { q with resv := rest }, none) = (v, q', none) →
          exec (.peerRsp c m ⟨key, epoch, 0⟩ data) s = .next (settle v c q'))
        ∧ (∀ st, o.parts.foldl (landPart c (spreadBytes o data)) (s, { q with resv := rest }, none) = (v, q', some st) →
          exec (.peerRsp c m ⟨key, epoch, 0⟩ data) s = .next (failHead v c q' st))))

/-- R77, R78, R82, R318, R322, R323, R331, R337: a PUT's bytes wait for the router as MSG packets, a CSEND for its circuit; at the
destination the parts of an allowed transfer are written, with the last RTOKEN rises and the acknowledgement leaves, one refused is
answered; an acknowledgement raises DONE_TOKEN and returns a PUT's credits; NAK, 100 ms without an answer and CLOSE are stops due at the
next boundary. -/
def Obligations.LinkEngines : Prop :=
  ∀ (s : State),
    (∀ (c : CtxId) (e : Fin 2) u q, startHead noPre s c 6 e.val = .go u q →
      (∀ v st, linkCheck u c q = (v, some st) → (ldOp q.desc = 0 → exec (.put c e) s = .next (failHead v c q st))
        ∧ (ldOp q.desc = 1 → exec (.csend c e) s = .next (failHead v c q st)))
      ∧ (∀ v q' w, linkCheck u c q = (v, none) → q' = { q with phase := .serving, holds := linkSpans v c q } →
        w = (newXfer (takeCredits v c q')).2 → ∀ q'', q'' = { q' with xfer := v.fab.xferNo } →
        (ldOp q.desc = 1 → exec (.csend c e) s = .next (putHead w c q''))
        ∧ (∀ t bs, ldOp q.desc = 0 → virtRead w ⟨0, some c⟩ (getCtx w c) q.ret (ldSrc q.desc) (ldLen q.desc) = (t, .ok bs) →
          exec (.put c e) s = .next ((cutParts (hopMax t (ldStation q.desc)) bs).foldl (fun r p =>
            post r .msg c (ldStation q.desc) (ldCtx q.desc) v.fab.xferNo (codewords p.2.length) p.2 (.put (outXfer r c q'' p.1 p.2)))
            (putHead t c q'')))
        ∧ (∀ t st, ldOp q.desc = 0 → virtRead w ⟨0, some c⟩ (getCtx w c) q.ret (ldSrc q.desc) (ldLen q.desc) = (t, .error st) →
          exec (.put c e) s = .next (failHead t c q'' st))))
    ∧ (∀ (x : InXfer), s.pins.perstN = true → s.pkg.fenced = false → partKey s ≠ 0 →
      (ctxOpen s x.dstCtx = false → exec (.putArrival x) s = .next (postAck s x.dstCtx x.srcSta x.srcCtx x.xfer (.nak x.xfer 2)))
      ∧ (ctxOpen s x.dstCtx = true → findIn s x = none → x.off = 0 → x.data.length ≤ x.len → xferOk s x = false →
        exec (.putArrival x) s = .next (postAck s x.dstCtx x.srcSta x.srcCtx x.xfer (.nak x.xfer 0)))
      ∧ (∀ i t wc, ctxOpen s x.dstCtx = true →
        (findIn s x = none ∧ x.off = 0 ∧ x.data.length ≤ x.len ∧ xferOk s x = true
            ∧ i = ⟨x.srcSta, x.srcCtx, x.xfer, x.dstCtx, (getCtx s x.dstCtx).epoch, [], false⟩)
          ∨ (findIn s x = some i ∧ i.closed = false ∧ i.epoch = (getCtx s x.dstCtx).epoch ∧ x.off + x.data.length ≤ x.len) →
        stageWrite s (getCtx s x.dstCtx) (getCtx s x.dstCtx).ret.act i.wc (x.dstVa.toNat + x.off) x.data = (t, wc) →
        (x.last = true → exec (.putArrival x) s = .next (postAck (inboundRaise (dropIn t i) x.dstCtx x.rtoken.val x.srcSta x.srcCtx x.reef x.level)
          x.dstCtx x.srcSta x.srcCtx x.xfer (.ack x.xfer x.cpool x.ctake)))
        ∧ (x.last = false → exec (.putArrival x) s =
          .next (modFab (dropIn t i) fun f => { f with inbound := f.inbound ++ [{ i with wc := wc }] }))))
    ∧ (∀ (c : CtxId) (e : Fin 2) n q, findXfer s c e.val n = some q →
      exec (.acknowledgement c e (.xfer n)) s = .next (finishHead (creditBack s c q) c q)
      ∧ (∀ kind, exec (.nak c e n kind none) s = .next (failHead (creditBack s c q) c q (nakStatus kind)))
      ∧ (sentLong s q = true → exec (.linkTimeout c e n) s = .next (failHead s c q stLinkTimeout))
      ∧ (sentLong s q = false → exec (.linkTimeout c e n) s = .next s))
    ∧ (∀ (c : CtxId) (e : Fin 2) n, findXfer s c e.val n = none →
      exec (.acknowledgement c e (.xfer n)) s = .next s ∧ (∀ kind, exec (.nak c e n kind none) s = .next s)
      ∧ (∀ q, (getCtx s c).queue.find? (fun q => q.cls == 5 && q.unit == e.val && q.phase != .queued && q.xfer == n) = some q →
        exec (.linkTimeout c e n) s = .next (if sentLong s q = true ∧ pieceWaits s c q = false then failHead s c q stLinkTimeout else s))
      ∧ ((getCtx s c).queue.find? (fun q => q.cls == 5 && q.unit == e.val && q.phase != .queued && q.xfer == n) = none →
        exec (.linkTimeout c e n) s = .next s))
    ∧ (∀ (c : CtxId) (e : Fin 2) n kind g q, findColl s c e.val g.1 g.2 = some q →
      exec (.nak c e n kind (some g)) s = .next (failHead s c q (nakStatus kind)))
    ∧ (∀ (c : CtxId) sta ctx n hit, s.pins.perstN = true → s.pkg.fenced = false →
      hit = (fun i : Inbound => i.srcSta == sta && i.srcCtx == ctx && i.xfer == n && i.dstCtx == c) →
      ((s.fab.inbound.any fun i => hit i && !i.closed) = true → exec (.close c sta ctx n) s = .next (dueStopW
        (modFab s fun f => { f with inbound := f.inbound.map fun i => if hit i then { i with closed := true } else i })
        c stCtxClosed { Why.plain with source := some (sta, ctx) }))
      ∧ ((s.fab.inbound.any fun i => hit i && !i.closed) = false → exec (.close c sta ctx n) s = .next s))

/-- R193 to R202, R205, R213, R215, R219, Table 5.8: a request that passes its checks runs its passes, a raise-only one none; a running one goes on
to its next quiesce point; completion raises VSTEP, writes the result record and raises the token. Each arithmetic instruction writes
its vector register or accumulator, LD loads and ST stores vector q, END moves on to the next vector. -/
def Obligations.UpdateUnits : Prop :=
  ∀ (s : State) (u : Fin 24) (x : UpdUnit), x = getUnit s u.val →
    (∀ c v q, startHead updPre s c 3 u.val = .go v q →
      (∀ w tab k q', updCheck v c q = (w, .ok (tab, k)) → q' = { q with phase := .serving, tab := tab, holds := updSpans q.desc tab } →
        (udNvec q.desc ≠ 0 → exec (.updateRequest c u) s = .next (updWork (takeCredits w c q') c q' k))
        ∧ (udNvec q.desc = 0 → exec (.updateRaiseOnly c u) s = .next (putHead
          (setUnit (takeCredits w c q') q.unit { UpdUnit.init with ctx := c, q := udVbase q.desc }) c { q' with phase := .ready, skip := k })))
      ∧ (∀ w st, updCheck v c q = (w, .error st) →
        (udNvec q.desc ≠ 0 → exec (.updateRequest c u) s = .next (failHead w c q st))
        ∧ (udNvec q.desc = 0 → exec (.updateRaiseOnly c u) s = .next (failHead w c q st))))
    ∧ (∀ c q, srvRuns s c = true → headIn s c 3 u.val .serving = some q →
      exec (.updateRequest c u) s = .next (updRun s c q (toQuiesce (udNvec q.desc) q.vdone))
      ∧ (∀ t, t = updRun s c q (udNvec q.desc - q.vdone) → headIn t c 3 u.val .serving = none →
        exec (.updateDone c u) s = exec (.updateDone c u) t))
    ∧ (∀ c q v q', srvRuns s c = true → headIn s c 3 u.val .ready = some q → raiseVersion s c q = (v, .ok q') →
      (udResEn q'.desc = false → exec (.updateDone c u) s = .next (finishHead (updNonfinite v c q') c q'))
      ∧ (udResEn q'.desc = true → ∀ q'', q'' = { q' with written := q'.written ++ [(udResult q'.desc, 64)] } →
        exec (.updateDone c u) s = .next (finishHead (updNonfinite
          (virtWrite v (getCtx v c) q'.ret (udResult q'.desc) (updResult q')) c q'') c q'')))
    ∧ (∀ w : BitVec 32, s.pkg.computeReset = false → firstSt (instrChecks w) = none →
      let a := vreg x (uiVa w)
      let b := operB x w
      let d := vreg x (uiVd w)
      let after := fun (y : UpdUnit) => match runningOn (setUnit s u.val y) u.val with
        | some (c, q) => putHead (setUnit s u.val y) c (stepBody q w)
        | none => setUnit s u.val y
      let put := fun ys => after (setVreg x (uiVd w) ys)
      (uiOpc w = 1 → exec (.updAdd u w) s = .next (put (List.zipWith fadd a b)))
      ∧ (uiOpc w = 2 → exec (.updSub u w) s = .next (put (List.zipWith fsub a b)))
      ∧ (uiOpc w = 3 → exec (.updMul u w) s = .next (put (List.zipWith fmul a b)))
      ∧ (uiOpc w = 4 → exec (.updFma u w) s = .next (put (List.zipWith (fun p z => ffma p.1 p.2 z) (a.zip b) d)))
      ∧ (uiOpc w = 5 → exec (.updMax u w) s = .next (put (List.zipWith fmax a b)))
      ∧ (uiOpc w = 6 → exec (.updMin u w) s = .next (put (List.zipWith fmin a b)))
      ∧ (uiOpc w = 7 → exec (.updAbs u w) s = .next (put (a.map fabs)))
      ∧ (uiOpc w = 8 → exec (.updSqrt u w) s = .next (put (a.map fsqrt)))
      ∧ (uiOpc w = 9 → exec (.updRsqrt u w) s = .next (put (a.map frsqrt)))
      ∧ (uiOpc w = 10 → exec (.updRecip u w) s = .next (put (a.map frecip)))
      ∧ (uiOpc w = 11 → exec (.updExp2 u w) s = .next (put (a.map fexp2)))
      ∧ (uiOpc w = 12 → exec (.updSel u w) s = .next (put (List.zipWith (fun p z => if p.2 = 0 then z else canonFp p.1) (a.zip b) d)))
      ∧ (uiOpc w = 13 → exec (.updNfcls u w) s = .next (put (a.map fnfcls)))
      ∧ (uiOpc w = 14 → exec (.updMov u w) s = .next (put (b.map canonFp)))
      ∧ (uiOpc w = 16 → exec (.updSqacc u w) s = .next (after { x with
          a := tput x.a (uiAcc w) (accumulate (accOf x (uiAcc w)) (fpr (xsum (a.map fun v => XVal.mul (fpv v) (fpv v))))) }))
      ∧ (uiOpc w = 17 → exec (.updSumacc u w) s = .next (after { x with
          a := tput x.a (uiAcc w) (accumulate (accOf x (uiAcc w)) (fpr (xsum (a.map fpv)))) }))
      ∧ (uiOpc w = 18 → exec (.updAccrd u w) s = .next (put (List.replicate 128 (pairRound (accOf x (uiAcc w))))))
      ∧ (∀ c p q, runningOn s u.val = some (c, p) → q = stepBody p w →
        (∀ v ys, uiOpc w = 32 → usIn (streamRec p.tab (uiStream w)) = true → loadVec s c q (streamRec p.tab (uiStream w)) x.q = (v, .ok ys) →
          exec (.updLd u w) s = .next (putHead (setUnit v u.val (setVreg x (uiVd w) ys)) c q))
        ∧ (∀ runs bad v q', uiOpc w = 33 → usOut (streamRec p.tab (uiStream w)) = true →
          storeVec (getCtx s c) q (streamRec p.tab 0) (streamRec p.tab (uiStream w)) x.q a = (runs, bad) →
          runs.foldl (runIn c) (s, q) = (v, q') → exec (.updSt u w) s = .next (putHead v c { q' with nonfin := q'.nonfin + bad }))
        ∧ (uiOpc w = 63 → p.vdone < udNvec p.desc → exec (.updEnd u w) s = .next (putHead (setUnit s u.val { x with
            q := if p.vdone + 1 < udNvec p.desc then udVbase p.desc + (p.vdone + 1) else x.q }) c { q with vdone := p.vdone + 1 }))))

/-- R173, R177 to R183: a dispatch request that passes its checks reads its operand and keeps its results; completion writes them all,
sets the count registers and raises the token. -/
def Obligations.DispatchEngines : Prop :=
  ∀ (s : State) (c : CtxId) (e : Fin 2),
    (∀ u q, startHead noPre s c 4 e.val = .go u q →
      let kind := doKind (dispOp q q.desc)
      let ends := fun (t : State) =>
        (kind = 1 → exec (.topkRoute c e) s = .next t) ∧ (kind = 2 → exec (.bitmapList c e) s = .next t)
        ∧ (kind = 3 → exec (.countSum c e) s = .next t) ∧ (kind = 4 → exec (.flagCount c e) s = .next t)
      (∀ v st, dispCheck u c q = (v, some st) → ends (failHead v c q st))
      ∧ (∀ v q' w t bs, dispCheck u c q = (v, none) → q' = { q with phase := .serving, holds := dispSpans q } → w = takeCredits v c q →
        virtRead w ⟨0, some c⟩ (getCtx w c) q.ret (ddAddr q.desc 0) (dispNeed q.desc (dispOp q q.desc) 0) = (t, .ok bs) →
        (∀ st, dispOut q.desc (dispOp q q.desc) bs = .error st → ends (failHead t c q' st))
        ∧ (∀ o, dispOut q.desc (dispOp q q.desc) bs = .ok o → linesWhole t (getCtx t c) q.ret o.writes = true →
          ends (putHead t c { q' with phase := .ready, pending := o.writes, counts := o.counts }))
        ∧ (∀ o, dispOut q.desc (dispOp q q.desc) bs = .ok o → linesWhole t (getCtx t c) q.ret o.writes = false →
          ends (failHead t c q' stLine))))
    ∧ (∀ q, srvRuns s c = true → headIn s c 4 e.val .ready = some q → exec (.dispatchDone c e) s =
      .next (finishHead (q.counts.foldl (fun t w => setCount t c w.1 w.2)
        (q.pending.foldl (fun t w => virtWrite t (getCtx s c) q.ret w.1 w.2) s)) c
        { q with pending := [], written := q.pending.map fun w => (w.1, w.2.length) }))
    ∧ (srvRuns s c = false ∨ headIn s c 4 e.val .ready = none → exec (.dispatchDone c e) s = .next s)

/-- R355 to R383: a collective that passes its checks starts, and one that fails them is a stop due at the next boundary; a grant or
piece for a request in service is taken, one for a closed context refused, one that differs or is stale answered as a mismatch, a grant
too early kept; receive counts that fit are written after AUX, others stop the request; acknowledged pieces count once; the request
completes when all is acknowledged and in. -/
def Obligations.Collectives : Prop :=
  ∀ (s : State),
    (∀ (c : CtxId) (e : Fin 2) u q, startHead noPre s c 5 e.val = .go u q →
      let ends := fun (t : State) =>
        (cdOp q.desc = 1 → exec (.allReduce c e) s = .next t) ∧ (cdOp q.desc = 2 → exec (.reduceScatter c e) s = .next t)
        ∧ (cdOp q.desc = 3 → exec (.allGather c e) s = .next t) ∧ (cdOp q.desc = 4 → exec (.broadcast c e) s = .next t)
        ∧ (cdOp q.desc = 5 → exec (.allToAllRagged c e) s = .next t) ∧ (cdOp q.desc = 6 → exec (.permute c e) s = .next t)
      (∀ v k, collCheck u c q = (v, .ok k) → ends (collWork (takeCredits v c q) c { q with phase := .serving } k))
      ∧ (∀ v st, collCheck u c q = (v, .error st) → ends (failHead v c q st)))
    ∧ (∀ (g : CollGrant), collHeard s = true →
      (ctxOpen s g.ctx = false → exec (.collSegmentGrant g) s = .next (postAck s g.ctx g.srcSta g.srcCtx 0 (.collNak g.hash g.seq 2)))
      ∧ (ctxOpen s g.ctx = true → findCollAny s g.ctx g.hash g.seq = none → pastSeq s g.ctx g.hash g.seq = false →
        exec (.collSegmentGrant g) s =
          .next (if begun s g.ctx g.hash g.seq then s else modCtx s g.ctx fun x => { x with early := x.early ++ [g] }))
      ∧ (ctxOpen s g.ctx = true → findCollAny s g.ctx g.hash g.seq = none → pastSeq s g.ctx g.hash g.seq = true →
        exec (.collSegmentGrant g) s = .next (dueStop (postAck s g.ctx g.srcSta g.srcCtx 0 (.collNak g.hash g.seq 4)) g.ctx stCollMis))
      ∧ (∀ q k, ctxOpen s g.ctx = true → findCollAny s g.ctx g.hash g.seq = some (q, k) →
        (grantDiffers q.desc k g = true → exec (.collSegmentGrant g) s = .next (failHeadW
          (postAck s g.ctx g.srcSta g.srcCtx 0 (.collNak k.hash k.seq 4)) g.ctx q stCollMis .plain))
        ∧ (grantDiffers q.desc k g = false → exec (.collSegmentGrant g) s =
          .next (((takeGrant g.ctx { s := s, q := q, k := k } g).next (pump g.ctx)).done g.ctx))))
    ∧ (∀ (p : Piece), collHeard s = true →
      (ctxOpen s p.ctx = false → exec (.collPieceArrival p) s = .next (postAck s p.ctx p.srcSta p.srcCtx 0 (.collNak p.hash p.seq 2)))
      ∧ (ctxOpen s p.ctx = true → findCollAny s p.ctx p.hash p.seq = none → exec (.collPieceArrival p) s =
          .next (if pastSeq s p.ctx p.hash p.seq then dueStop (postAck s p.ctx p.srcSta p.srcCtx 0 (.collNak p.hash p.seq 4)) p.ctx stCollMis
            else s))
      ∧ (∀ q k, ctxOpen s p.ctx = true → findCollAny s p.ctx p.hash p.seq = some (q, k) →
        (pieceDiffers q.desc k p = true → exec (.collPieceArrival p) s = .next (failHeadW
          (postAck s p.ctx p.srcSta p.srcCtx 0 (.collNak k.hash k.seq 4)) p.ctx q stCollMis .plain))
        ∧ (∀ key, key = (p.src, p.level, p.part) → pieceDiffers q.desc k p = false → key ∈ inKeys q.desc k → whole q.desc k key = false →
          (cdOp q.desc = 5 → k.recvs ≠ []) → (held k p.level p.src p.part).length + p.data.length ≤ pieceBytes q.desc k key true →
          exec (.collPieceArrival p) s = .next (((pieceTake p.ctx p key { s := s, q := q, k := k }).next (pump p.ctx)).done p.ctx))))
    ∧ (∀ (c : CtxId) (e : Fin 2) hash seq (counts : List SendCount) q k cs, collHeard s = true → srvRuns s c = true →
      findColl s c e.val hash seq = some q → q.coll = some k → cdOp q.desc = 5 → k.recvs = [] →
      (∀ i < k.n, i = k.rank ∨ ∃ n ∈ counts, n.req.rank = i) → (∀ n ∈ counts, grantDiffers q.desc k n.req = false) →
      cs = (List.range k.n).map (fun i => if i = k.rank then k.sends.getD i 0 else ((counts.find? fun n => n.req.rank == i).map (·.n)).getD 0) →
      let r := ({ s := s, q := q, k := { k with recvs := cs } } : CRun).write c (cdAux q.desc + 8 * k.n) (cs.flatMap (leBytes 8))
      (cs.sum ≤ cdDstWin q.desc → exec (.countsExchanged c e hash seq counts) s = .next ((pump c (r.write c
          (cdDst q.desc + (cs.take k.rank).sum)
          ((k.src.drop (k.sends.take k.rank).sum).take (k.sends.getD k.rank 0)))).done c))
      ∧ (cdDstWin q.desc < cs.sum → exec (.countsExchanged c e hash seq counts) s = .next (failHeadW
        ((List.range k.n).foldl (fun t i => if i = k.rank then t else tell t c k i (.collNak k.hash k.seq 0)) r.s)
        c r.q stRecvOver .plain)))
    ∧ (∀ (c : CtxId) (e : Fin 2) a q k key, collHeard s = true → srvRuns s c = true → findColl s c e.val a.hash a.seq = some q →
      q.coll = some k → key = (a.rank, a.level, a.part) →
      (key ∈ outKeys q.desc k → sentKey q.desc k key = true → k.acked.contains key = false → cdOp q.desc ≠ 6 →
        exec (.acknowledgement c e (.piece a)) s =
          .next ((pump c { s := s, q := q, k := { k with acked := key :: k.acked } }).done c))
      ∧ (k.acked.contains key = true → exec (.acknowledgement c e (.piece a)) s = .next s))
    ∧ (∀ (c : CtxId) (e : Fin 2) hash seq q, findColl s c e.val hash seq = some q →
      (∀ k, srvRuns s c = true → q.coll = some k → exec (.collDone c e hash seq) s = .next
        (if collOver q.desc k then finishHead (collNonfinite (modCtx s c fun x => endGroup x hash seq) c q) c q else s))
      ∧ (collHeard s = true → ∀ sta ctx, exec (.contextClosed c e hash seq sta ctx) s =
        .next (failHeadW s c q stCtxClosed { Why.plain with source := some (sta, ctx) })))

/-! ### Invariants -/

/-- From every state whose memory is in canonical form, addresses strictly rising and no zero listed, a step completes, and leads
to a state whose memory is. The form is the model's own. -/
def Obligations.StepKeepsMemoryForm : Prop := ∀ s : State, s.mem.wf = true → ∃ t, step s = .next t ∧ t.mem.wf = true

/-- After reset memory is in its canonical form and lists nothing, and no command waits. -/
def Obligations.ResetMemoryForm : Prop := State.reset.mem.wf = true ∧ State.reset.mem.bytes = [] ∧ State.reset.pending = []
end

