-- ==== Sys2Proof/Laws/Tables.lean ====
section
/-! SUPPORT. Tables and byte cells: a read after a write, what a write leaves alone, and the canonical form that every memory
operation keeps. -/

namespace Sys2Proof.Machine

/-! ### Tables -/

theorem tget_tput_self {α : Type} (d : α) (t : Tbl α) (k : Nat) (v : α) : tget d (tput t k v) k = v := by
  induction t with
  | nil => simp [tput, tget]
  | cons p r ih =>
    obtain ⟨i, x⟩ := p
    simp only [tput]
    split
    · simp [tget]
    · split
      · simp [tget]
      · have : i ≠ k := fun e => by omega
        simp [tget, this, ih]

theorem tget_tput_ne {α : Type} (d : α) (t : Tbl α) {j k : Nat} (v : α) (h : j ≠ k) :
    tget d (tput t k v) j = tget d t j := by
  induction t with
  | nil => simp [tput, tget, Ne.symm h]
  | cons p r ih =>
    obtain ⟨i, x⟩ := p
    simp only [tput]
    split
    · simp [tget, Ne.symm h]
    · split
      · next e => subst e; simp [tget, Ne.symm h]
      · simp only [tget, ih]

/-- The later of two writes of one record stands. -/
theorem tput_tput {α : Type} (t : Tbl α) (k : Nat) (v w : α) : tput (tput t k v) k w = tput t k w := by
  induction t with
  | nil => simp [tput]
  | cons p r ih =>
    obtain ⟨i, x⟩ := p
    by_cases h1 : k < i
    · simp [tput, h1]
    · by_cases h2 : k = i
      · subst h2; simp [tput]
      · simp [tput, h1, h2, ih]

/-! ### Byte cells -/

/-- Canonical form, said of all pairs: no zero byte, addresses rising. -/
theorem wf_iff (m : Cells) : Cells.wf m = true ↔ (∀ c ∈ m, c.2 ≠ 0) ∧ m.Pairwise fun a b => a.1 < b.1 := by
  induction m with
  | nil => simp [Cells.wf]
  | cons p r ih =>
    obtain ⟨a, v⟩ := p
    cases r with
    | nil => simp [Cells.wf]
    | cons q r =>
      obtain ⟨b, w⟩ := q
      simp only [Cells.wf, Bool.and_eq_true, decide_eq_true_eq, bne_iff_ne, ih, List.pairwise_cons, List.mem_cons]
      constructor
      · rintro ⟨⟨hv, hab⟩, hz, hp, hr⟩
        refine ⟨?_, ?_, hp, hr⟩
        · rintro c (rfl | h)
          · exact hv
          · exact hz c h
        · rintro c (rfl | h)
          · exact hab
          · exact lt_trans hab (hp c h)
      · rintro ⟨hz, ha, hp, hr⟩
        exact ⟨⟨hz _ (.inl rfl), ha _ (.inl rfl)⟩, fun c h => hz c (.inr h), hp, hr⟩

theorem mem_cellsOf {a : Nat} {bs : List Byte} {c : Host.Cell} (h : c ∈ cellsOf a bs) :
    a ≤ c.1 ∧ c.1 < a + bs.length ∧ c.2 ≠ 0 := by
  induction bs generalizing a with
  | nil => simp [cellsOf] at h
  | cons b r ih =>
    simp only [cellsOf] at h
    split at h
    · obtain ⟨h1, h2, h3⟩ := ih h
      exact ⟨by omega, by simp only [List.length_cons]; omega, h3⟩
    · next hb =>
      rcases List.mem_cons.1 h with rfl | h
      · exact ⟨le_refl a, by simp, hb⟩
      · obtain ⟨h1, h2, h3⟩ := ih h
        exact ⟨by omega, by simp only [List.length_cons]; omega, h3⟩

theorem cellsOf_sorted (a : Nat) (bs : List Byte) : (cellsOf a bs).Pairwise fun x y => x.1 < y.1 := by
  induction bs generalizing a with
  | nil => simp [cellsOf]
  | cons b r ih =>
    simp only [cellsOf]
    split
    · exact ih _
    · exact List.pairwise_cons.2 ⟨fun c h => by have := mem_cellsOf h; simp; omega, ih _⟩

/-- A write keeps the canonical form. -/
theorem cwrite_wf (m : Cells) (a : Nat) (bs : List Byte) (h : Cells.wf m = true) : Cells.wf (cwrite m a bs) = true := by
  rw [wf_iff] at *
  obtain ⟨hz, hp⟩ := h
  refine ⟨?_, ?_⟩
  · intro c hc
    simp only [cwrite, List.mem_append, List.mem_filter, decide_eq_true_eq] at hc
    rcases hc with (⟨h, -⟩ | h) | ⟨h, -⟩
    · exact hz c h
    · exact (mem_cellsOf h).2.2
    · exact hz c h
  · simp only [cwrite]
    rw [List.pairwise_append, List.pairwise_append]
    refine ⟨⟨hp.filter _, cellsOf_sorted a bs, ?_⟩, hp.filter _, ?_⟩
    · intro x hx y hy
      have := mem_cellsOf hy
      simp only [List.mem_filter, decide_eq_true_eq] at hx
      omega
    · intro x hx y hy
      simp only [List.mem_append, List.mem_filter, decide_eq_true_eq] at hx hy
      rcases hx with ⟨-, hx⟩ | hx
      · omega
      · have := mem_cellsOf hx; omega

/-- Clearing keeps the canonical form. -/
theorem cclear_wf (m : Cells) (a n : Nat) (h : Cells.wf m = true) : Cells.wf (cclear m a n) = true := by
  rw [wf_iff] at *
  exact ⟨fun c hc => h.1 c (List.mem_filter.1 hc).1, h.2.filter _⟩

theorem cget_append (d : Byte) (l r : Cells) (a : Nat) (h : ∀ c ∈ l, c.1 ≠ a) : cget d (l ++ r) a = cget d r a := by
  induction l with
  | nil => rfl
  | cons p l ih =>
    obtain ⟨i, v⟩ := p
    have hi : i ≠ a := h (i, v) (by simp)
    simp only [List.cons_append, cget, hi, if_false]
    exact ih fun c hc => h c (by simp [hc])

theorem cget_none (d : Byte) (m : Cells) (a : Nat) (h : ∀ c ∈ m, c.1 ≠ a) : cget d m a = d := by
  have := cget_append d m [] a h
  simpa [cget] using this

theorem cget_append_left (d : Byte) (l r : Cells) (a : Nat) (h : ∀ c ∈ r, c.1 ≠ a) : cget d (l ++ r) a = cget d l a := by
  induction l with
  | nil => exact cget_none d r a h
  | cons p l ih =>
    obtain ⟨i, v⟩ := p
    by_cases hi : i = a
    · simp [cget, hi]
    · simp [cget, hi, ih]

theorem cget_filter (d : Byte) (m : Cells) (a : Nat) (p : Host.Cell → Bool) (h : ∀ v, p (a, v) = true) :
    cget d (m.filter p) a = cget d m a := by
  induction m with
  | nil => rfl
  | cons q m ih =>
    obtain ⟨i, v⟩ := q
    by_cases hi : i = a
    · subst hi; simp [List.filter, h v, cget]
    · cases hp : p (i, v) <;> simp [List.filter, hp, cget, hi, ih]

theorem cget_cellsOf (a : Nat) (bs : List Byte) (k : Nat) (h : k < bs.length) : cget 0 (cellsOf a bs) (a + k) = bs.getD k 0 := by
  induction bs generalizing a k with
  | nil => simp at h
  | cons b r ih =>
    cases k with
    | zero =>
      simp only [cellsOf]
      split
      · next hb =>
        rw [cget_none]
        · simp [hb]
        · intro c hc; have := mem_cellsOf hc; omega
      · simp [cget]
    | succ k =>
      have := ih (a + 1) k (by simpa using h)
      rw [show a + 1 + k = a + (k + 1) by omega] at this
      simp only [cellsOf]
      split
      · simpa using this
      · have hne : a ≠ a + (k + 1) := by omega
        simpa [cget, hne] using this

/-- A write leaves every byte outside its range alone. -/
theorem cget_cwrite_out (m : Cells) (a : Nat) (bs : List Byte) (b : Nat) (h : b < a ∨ a + bs.length ≤ b) :
    cget 0 (cwrite m a bs) b = cget 0 m b := by
  simp only [cwrite]
  rcases h with h | h
  · rw [cget_append_left, cget_append_left]
    · exact cget_filter _ _ _ _ fun v => by simpa using h
    · intro c hc; have := mem_cellsOf hc; omega
    · intro c hc; simp only [List.mem_filter, decide_eq_true_eq] at hc; omega
  · rw [cget_append]
    · exact cget_filter _ _ _ _ fun v => by simpa using h
    · intro c hc
      simp only [List.mem_append, List.mem_filter, decide_eq_true_eq] at hc
      rcases hc with ⟨-, hc⟩ | hc
      · omega
      · have := mem_cellsOf hc; omega

/-- A read after a write to the same place gives the value written. -/
theorem cget_cwrite_in (m : Cells) (a : Nat) (bs : List Byte) (k : Nat) (h : k < bs.length) :
    cget 0 (cwrite m a bs) (a + k) = bs.getD k 0 := by
  simp only [cwrite]
  rw [cget_append_left, cget_append]
  · exact cget_cellsOf a bs k h
  · intro c hc; simp only [List.mem_filter, decide_eq_true_eq] at hc; omega
  · intro c hc; simp only [List.mem_filter, decide_eq_true_eq] at hc; omega

/-- Cleared bytes read zero. -/
theorem cget_cclear_in (m : Cells) (a n b : Nat) (h : a ≤ b ∧ b < a + n) : cget 0 (cclear m a n) b = 0 := by
  rw [cget_none]
  intro c hc
  simp only [cclear, List.mem_filter, Bool.or_eq_true, decide_eq_true_eq] at hc
  omega

theorem cget_cclear_out (m : Cells) (a n b : Nat) (h : b < a ∨ a + n ≤ b) : cget 0 (cclear m a n) b = cget 0 m b := by
  simp only [cclear]
  exact cget_filter _ _ _ _ fun v => by simp; omega

/-- A read byte by byte. -/
theorem creadD_eq (d : Nat → Byte) (m : Cells) (a n : Nat) :
    creadD d m a n = (List.range n).map fun i => cget (d (a + i)) m (a + i) := by
  have key (i : Nat) (hi : i < n) :
      cget (d (a + i)) (m.filter fun c => decide (a ≤ c.1) && decide (c.1 < a + n)) (a + i) = cget (d (a + i)) m (a + i) :=
    cget_filter _ _ _ _ fun v => by simp; omega
  simp only [creadD]
  split
  · next hw =>
    refine List.map_congr_left fun i hi => ?_
    rw [← key i (List.mem_range.1 hi), List.isEmpty_iff.1 hw]; rfl
  · exact List.map_congr_left fun i hi => key i (List.mem_range.1 hi)

end Sys2Proof.Machine
end

