-- ==== Sys2Proof/Laws/State.lean ====
section
/-! SUPPORT. What each named update of State does to each field and to each record read from it, true by unfolding. -/

namespace Sys2Proof.Machine

/-! ### modPins -/

@[simp] theorem modPins_clk (s : State) (f : Pins → Pins) : (modPins s f).clk = s.clk := rfl
@[simp] theorem modPins_pins (s : State) (f : Pins → Pins) : (modPins s f).pins = f s.pins := rfl
@[simp] theorem modPins_pkg (s : State) (f : Pins → Pins) : (modPins s f).pkg = s.pkg := rfl
@[simp] theorem modPins_reef (s : State) (f : Pins → Pins) : (modPins s f).reef = s.reef := rfl
@[simp] theorem modPins_ctxs (s : State) (f : Pins → Pins) : (modPins s f).ctxs = s.ctxs := rfl
@[simp] theorem modPins_tiles (s : State) (f : Pins → Pins) : (modPins s f).tiles = s.tiles := rfl
@[simp] theorem modPins_units (s : State) (f : Pins → Pins) : (modPins s f).units = s.units := rfl
@[simp] theorem modPins_mem (s : State) (f : Pins → Pins) : (modPins s f).mem = s.mem := rfl
@[simp] theorem modPins_host (s : State) (f : Pins → Pins) : (modPins s f).host = s.host := rfl
@[simp] theorem modPins_optics (s : State) (f : Pins → Pins) : (modPins s f).optics = s.optics := rfl
@[simp] theorem modPins_fab (s : State) (f : Pins → Pins) : (modPins s f).fab = s.fab := rfl
@[simp] theorem modPins_hal (s : State) (f : Pins → Pins) : (modPins s f).hal = s.hal := rfl
@[simp] theorem modPins_fns (s : State) (f : Pins → Pins) : (modPins s f).fns = s.fns := rfl
@[simp] theorem modPins_boot (s : State) (f : Pins → Pins) : (modPins s f).boot = s.boot := rfl
@[simp] theorem modPins_mirror (s : State) (f : Pins → Pins) : (modPins s f).mirror = s.mirror := rfl
@[simp] theorem modPins_turns (s : State) (f : Pins → Pins) : (modPins s f).turns = s.turns := rfl
@[simp] theorem modPins_msix (s : State) (f : Pins → Pins) : (modPins s f).msix = s.msix := rfl
@[simp] theorem modPins_cpl (s : State) (f : Pins → Pins) : (modPins s f).cpl = s.cpl := rfl
@[simp] theorem modPins_freeCtr (s : State) (f : Pins → Pins) : (modPins s f).freeCtr = s.freeCtr := rfl
@[simp] theorem modPins_pending (s : State) (f : Pins → Pins) : (modPins s f).pending = s.pending := rfl
@[simp] theorem getCtx_modPins (s : State) (f : Pins → Pins) (k : CtxId) : getCtx (modPins s f) k = getCtx s k := rfl
@[simp] theorem getFn_modPins (s : State) (f : Pins → Pins) (k : CtxId) : getFn (modPins s f) k = getFn s k := rfl
@[simp] theorem getTile_modPins (s : State) (f : Pins → Pins) (k : Nat) : getTile (modPins s f) k = getTile s k := rfl
@[simp] theorem getUnit_modPins (s : State) (f : Pins → Pins) (k : Nat) : getUnit (modPins s f) k = getUnit s k := rfl
@[simp] theorem getLoop_modPins (s : State) (f : Pins → Pins) (k : Nat) : getLoop (modPins s f) k = getLoop s k := rfl
@[simp] theorem getLane_modPins (s : State) (f : Pins → Pins) (k : Nat) : getLane (modPins s f) k = getLane s k := rfl
@[simp] theorem getLine_modPins (s : State) (f : Pins → Pins) (k : Nat) : getLine (modPins s f) k = getLine s k := rfl
@[simp] theorem getPort_modPins (s : State) (f : Pins → Pins) (k : Nat) : getPort (modPins s f) k = getPort s k := rfl
@[simp] theorem getCirc_modPins (s : State) (f : Pins → Pins) (k : Nat) : getCirc (modPins s f) k = getCirc s k := rfl

/-! ### modPkg -/

@[simp] theorem modPkg_clk (s : State) (f : Pkg → Pkg) : (modPkg s f).clk = s.clk := rfl
@[simp] theorem modPkg_pins (s : State) (f : Pkg → Pkg) : (modPkg s f).pins = s.pins := rfl
@[simp] theorem modPkg_pkg (s : State) (f : Pkg → Pkg) : (modPkg s f).pkg = f s.pkg := rfl
@[simp] theorem modPkg_reef (s : State) (f : Pkg → Pkg) : (modPkg s f).reef = s.reef := rfl
@[simp] theorem modPkg_ctxs (s : State) (f : Pkg → Pkg) : (modPkg s f).ctxs = s.ctxs := rfl
@[simp] theorem modPkg_tiles (s : State) (f : Pkg → Pkg) : (modPkg s f).tiles = s.tiles := rfl
@[simp] theorem modPkg_units (s : State) (f : Pkg → Pkg) : (modPkg s f).units = s.units := rfl
@[simp] theorem modPkg_mem (s : State) (f : Pkg → Pkg) : (modPkg s f).mem = s.mem := rfl
@[simp] theorem modPkg_host (s : State) (f : Pkg → Pkg) : (modPkg s f).host = s.host := rfl
@[simp] theorem modPkg_optics (s : State) (f : Pkg → Pkg) : (modPkg s f).optics = s.optics := rfl
@[simp] theorem modPkg_fab (s : State) (f : Pkg → Pkg) : (modPkg s f).fab = s.fab := rfl
@[simp] theorem modPkg_hal (s : State) (f : Pkg → Pkg) : (modPkg s f).hal = s.hal := rfl
@[simp] theorem modPkg_fns (s : State) (f : Pkg → Pkg) : (modPkg s f).fns = s.fns := rfl
@[simp] theorem modPkg_boot (s : State) (f : Pkg → Pkg) : (modPkg s f).boot = s.boot := rfl
@[simp] theorem modPkg_mirror (s : State) (f : Pkg → Pkg) : (modPkg s f).mirror = s.mirror := rfl
@[simp] theorem modPkg_turns (s : State) (f : Pkg → Pkg) : (modPkg s f).turns = s.turns := rfl
@[simp] theorem modPkg_msix (s : State) (f : Pkg → Pkg) : (modPkg s f).msix = s.msix := rfl
@[simp] theorem modPkg_cpl (s : State) (f : Pkg → Pkg) : (modPkg s f).cpl = s.cpl := rfl
@[simp] theorem modPkg_freeCtr (s : State) (f : Pkg → Pkg) : (modPkg s f).freeCtr = s.freeCtr := rfl
@[simp] theorem modPkg_pending (s : State) (f : Pkg → Pkg) : (modPkg s f).pending = s.pending := rfl
@[simp] theorem getCtx_modPkg (s : State) (f : Pkg → Pkg) (k : CtxId) : getCtx (modPkg s f) k = getCtx s k := rfl
@[simp] theorem getFn_modPkg (s : State) (f : Pkg → Pkg) (k : CtxId) : getFn (modPkg s f) k = getFn s k := rfl
@[simp] theorem getTile_modPkg (s : State) (f : Pkg → Pkg) (k : Nat) : getTile (modPkg s f) k = getTile s k := rfl
@[simp] theorem getUnit_modPkg (s : State) (f : Pkg → Pkg) (k : Nat) : getUnit (modPkg s f) k = getUnit s k := rfl
@[simp] theorem getLoop_modPkg (s : State) (f : Pkg → Pkg) (k : Nat) : getLoop (modPkg s f) k = getLoop s k := rfl
@[simp] theorem getLane_modPkg (s : State) (f : Pkg → Pkg) (k : Nat) : getLane (modPkg s f) k = getLane s k := rfl
@[simp] theorem getLine_modPkg (s : State) (f : Pkg → Pkg) (k : Nat) : getLine (modPkg s f) k = getLine s k := rfl
@[simp] theorem getPort_modPkg (s : State) (f : Pkg → Pkg) (k : Nat) : getPort (modPkg s f) k = getPort s k := rfl
@[simp] theorem getCirc_modPkg (s : State) (f : Pkg → Pkg) (k : Nat) : getCirc (modPkg s f) k = getCirc s k := rfl

/-! ### modReef -/

@[simp] theorem modReef_clk (s : State) (f : Reef → Reef) : (modReef s f).clk = s.clk := rfl
@[simp] theorem modReef_pins (s : State) (f : Reef → Reef) : (modReef s f).pins = s.pins := rfl
@[simp] theorem modReef_pkg (s : State) (f : Reef → Reef) : (modReef s f).pkg = s.pkg := rfl
@[simp] theorem modReef_reef (s : State) (f : Reef → Reef) : (modReef s f).reef = f s.reef := rfl
@[simp] theorem modReef_ctxs (s : State) (f : Reef → Reef) : (modReef s f).ctxs = s.ctxs := rfl
@[simp] theorem modReef_tiles (s : State) (f : Reef → Reef) : (modReef s f).tiles = s.tiles := rfl
@[simp] theorem modReef_units (s : State) (f : Reef → Reef) : (modReef s f).units = s.units := rfl
@[simp] theorem modReef_mem (s : State) (f : Reef → Reef) : (modReef s f).mem = s.mem := rfl
@[simp] theorem modReef_host (s : State) (f : Reef → Reef) : (modReef s f).host = s.host := rfl
@[simp] theorem modReef_optics (s : State) (f : Reef → Reef) : (modReef s f).optics = s.optics := rfl
@[simp] theorem modReef_fab (s : State) (f : Reef → Reef) : (modReef s f).fab = s.fab := rfl
@[simp] theorem modReef_hal (s : State) (f : Reef → Reef) : (modReef s f).hal = s.hal := rfl
@[simp] theorem modReef_fns (s : State) (f : Reef → Reef) : (modReef s f).fns = s.fns := rfl
@[simp] theorem modReef_boot (s : State) (f : Reef → Reef) : (modReef s f).boot = s.boot := rfl
@[simp] theorem modReef_mirror (s : State) (f : Reef → Reef) : (modReef s f).mirror = s.mirror := rfl
@[simp] theorem modReef_turns (s : State) (f : Reef → Reef) : (modReef s f).turns = s.turns := rfl
@[simp] theorem modReef_msix (s : State) (f : Reef → Reef) : (modReef s f).msix = s.msix := rfl
@[simp] theorem modReef_cpl (s : State) (f : Reef → Reef) : (modReef s f).cpl = s.cpl := rfl
@[simp] theorem modReef_freeCtr (s : State) (f : Reef → Reef) : (modReef s f).freeCtr = s.freeCtr := rfl
@[simp] theorem modReef_pending (s : State) (f : Reef → Reef) : (modReef s f).pending = s.pending := rfl
@[simp] theorem getCtx_modReef (s : State) (f : Reef → Reef) (k : CtxId) : getCtx (modReef s f) k = getCtx s k := rfl
@[simp] theorem getFn_modReef (s : State) (f : Reef → Reef) (k : CtxId) : getFn (modReef s f) k = getFn s k := rfl
@[simp] theorem getTile_modReef (s : State) (f : Reef → Reef) (k : Nat) : getTile (modReef s f) k = getTile s k := rfl
@[simp] theorem getUnit_modReef (s : State) (f : Reef → Reef) (k : Nat) : getUnit (modReef s f) k = getUnit s k := rfl
@[simp] theorem getLoop_modReef (s : State) (f : Reef → Reef) (k : Nat) : getLoop (modReef s f) k = getLoop s k := rfl
@[simp] theorem getLane_modReef (s : State) (f : Reef → Reef) (k : Nat) : getLane (modReef s f) k = getLane s k := rfl
@[simp] theorem getLine_modReef (s : State) (f : Reef → Reef) (k : Nat) : getLine (modReef s f) k = getLine s k := rfl
@[simp] theorem getPort_modReef (s : State) (f : Reef → Reef) (k : Nat) : getPort (modReef s f) k = getPort s k := rfl
@[simp] theorem getCirc_modReef (s : State) (f : Reef → Reef) (k : Nat) : getCirc (modReef s f) k = getCirc s k := rfl

/-! ### modMem -/

@[simp] theorem modMem_clk (s : State) (f : Memory → Memory) : (modMem s f).clk = s.clk := rfl
@[simp] theorem modMem_pins (s : State) (f : Memory → Memory) : (modMem s f).pins = s.pins := rfl
@[simp] theorem modMem_pkg (s : State) (f : Memory → Memory) : (modMem s f).pkg = s.pkg := rfl
@[simp] theorem modMem_reef (s : State) (f : Memory → Memory) : (modMem s f).reef = s.reef := rfl
@[simp] theorem modMem_ctxs (s : State) (f : Memory → Memory) : (modMem s f).ctxs = s.ctxs := rfl
@[simp] theorem modMem_tiles (s : State) (f : Memory → Memory) : (modMem s f).tiles = s.tiles := rfl
@[simp] theorem modMem_units (s : State) (f : Memory → Memory) : (modMem s f).units = s.units := rfl
@[simp] theorem modMem_mem (s : State) (f : Memory → Memory) : (modMem s f).mem = f s.mem := rfl
@[simp] theorem modMem_host (s : State) (f : Memory → Memory) : (modMem s f).host = s.host := rfl
@[simp] theorem modMem_optics (s : State) (f : Memory → Memory) : (modMem s f).optics = s.optics := rfl
@[simp] theorem modMem_fab (s : State) (f : Memory → Memory) : (modMem s f).fab = s.fab := rfl
@[simp] theorem modMem_hal (s : State) (f : Memory → Memory) : (modMem s f).hal = s.hal := rfl
@[simp] theorem modMem_fns (s : State) (f : Memory → Memory) : (modMem s f).fns = s.fns := rfl
@[simp] theorem modMem_boot (s : State) (f : Memory → Memory) : (modMem s f).boot = s.boot := rfl
@[simp] theorem modMem_mirror (s : State) (f : Memory → Memory) : (modMem s f).mirror = s.mirror := rfl
@[simp] theorem modMem_turns (s : State) (f : Memory → Memory) : (modMem s f).turns = s.turns := rfl
@[simp] theorem modMem_msix (s : State) (f : Memory → Memory) : (modMem s f).msix = s.msix := rfl
@[simp] theorem modMem_cpl (s : State) (f : Memory → Memory) : (modMem s f).cpl = s.cpl := rfl
@[simp] theorem modMem_freeCtr (s : State) (f : Memory → Memory) : (modMem s f).freeCtr = s.freeCtr := rfl
@[simp] theorem modMem_pending (s : State) (f : Memory → Memory) : (modMem s f).pending = s.pending := rfl
@[simp] theorem getCtx_modMem (s : State) (f : Memory → Memory) (k : CtxId) : getCtx (modMem s f) k = getCtx s k := rfl
@[simp] theorem getFn_modMem (s : State) (f : Memory → Memory) (k : CtxId) : getFn (modMem s f) k = getFn s k := rfl
@[simp] theorem getTile_modMem (s : State) (f : Memory → Memory) (k : Nat) : getTile (modMem s f) k = getTile s k := rfl
@[simp] theorem getUnit_modMem (s : State) (f : Memory → Memory) (k : Nat) : getUnit (modMem s f) k = getUnit s k := rfl
@[simp] theorem getLoop_modMem (s : State) (f : Memory → Memory) (k : Nat) : getLoop (modMem s f) k = getLoop s k := rfl
@[simp] theorem getLane_modMem (s : State) (f : Memory → Memory) (k : Nat) : getLane (modMem s f) k = getLane s k := rfl
@[simp] theorem getLine_modMem (s : State) (f : Memory → Memory) (k : Nat) : getLine (modMem s f) k = getLine s k := rfl
@[simp] theorem getPort_modMem (s : State) (f : Memory → Memory) (k : Nat) : getPort (modMem s f) k = getPort s k := rfl
@[simp] theorem getCirc_modMem (s : State) (f : Memory → Memory) (k : Nat) : getCirc (modMem s f) k = getCirc s k := rfl

/-! ### modOpt -/

@[simp] theorem modOpt_clk (s : State) (f : Optics → Optics) : (modOpt s f).clk = s.clk := rfl
@[simp] theorem modOpt_pins (s : State) (f : Optics → Optics) : (modOpt s f).pins = s.pins := rfl
@[simp] theorem modOpt_pkg (s : State) (f : Optics → Optics) : (modOpt s f).pkg = s.pkg := rfl
@[simp] theorem modOpt_reef (s : State) (f : Optics → Optics) : (modOpt s f).reef = s.reef := rfl
@[simp] theorem modOpt_ctxs (s : State) (f : Optics → Optics) : (modOpt s f).ctxs = s.ctxs := rfl
@[simp] theorem modOpt_tiles (s : State) (f : Optics → Optics) : (modOpt s f).tiles = s.tiles := rfl
@[simp] theorem modOpt_units (s : State) (f : Optics → Optics) : (modOpt s f).units = s.units := rfl
@[simp] theorem modOpt_mem (s : State) (f : Optics → Optics) : (modOpt s f).mem = s.mem := rfl
@[simp] theorem modOpt_host (s : State) (f : Optics → Optics) : (modOpt s f).host = s.host := rfl
@[simp] theorem modOpt_optics (s : State) (f : Optics → Optics) : (modOpt s f).optics = f s.optics := rfl
@[simp] theorem modOpt_fab (s : State) (f : Optics → Optics) : (modOpt s f).fab = s.fab := rfl
@[simp] theorem modOpt_hal (s : State) (f : Optics → Optics) : (modOpt s f).hal = s.hal := rfl
@[simp] theorem modOpt_fns (s : State) (f : Optics → Optics) : (modOpt s f).fns = s.fns := rfl
@[simp] theorem modOpt_boot (s : State) (f : Optics → Optics) : (modOpt s f).boot = s.boot := rfl
@[simp] theorem modOpt_mirror (s : State) (f : Optics → Optics) : (modOpt s f).mirror = s.mirror := rfl
@[simp] theorem modOpt_turns (s : State) (f : Optics → Optics) : (modOpt s f).turns = s.turns := rfl
@[simp] theorem modOpt_msix (s : State) (f : Optics → Optics) : (modOpt s f).msix = s.msix := rfl
@[simp] theorem modOpt_cpl (s : State) (f : Optics → Optics) : (modOpt s f).cpl = s.cpl := rfl
@[simp] theorem modOpt_freeCtr (s : State) (f : Optics → Optics) : (modOpt s f).freeCtr = s.freeCtr := rfl
@[simp] theorem modOpt_pending (s : State) (f : Optics → Optics) : (modOpt s f).pending = s.pending := rfl
@[simp] theorem getCtx_modOpt (s : State) (f : Optics → Optics) (k : CtxId) : getCtx (modOpt s f) k = getCtx s k := rfl
@[simp] theorem getFn_modOpt (s : State) (f : Optics → Optics) (k : CtxId) : getFn (modOpt s f) k = getFn s k := rfl
@[simp] theorem getTile_modOpt (s : State) (f : Optics → Optics) (k : Nat) : getTile (modOpt s f) k = getTile s k := rfl
@[simp] theorem getUnit_modOpt (s : State) (f : Optics → Optics) (k : Nat) : getUnit (modOpt s f) k = getUnit s k := rfl
@[simp] theorem getPort_modOpt (s : State) (f : Optics → Optics) (k : Nat) : getPort (modOpt s f) k = getPort s k := rfl
@[simp] theorem getCirc_modOpt (s : State) (f : Optics → Optics) (k : Nat) : getCirc (modOpt s f) k = getCirc s k := rfl

/-! ### modFab -/

@[simp] theorem modFab_clk (s : State) (f : Fabric → Fabric) : (modFab s f).clk = s.clk := rfl
@[simp] theorem modFab_pins (s : State) (f : Fabric → Fabric) : (modFab s f).pins = s.pins := rfl
@[simp] theorem modFab_pkg (s : State) (f : Fabric → Fabric) : (modFab s f).pkg = s.pkg := rfl
@[simp] theorem modFab_reef (s : State) (f : Fabric → Fabric) : (modFab s f).reef = s.reef := rfl
@[simp] theorem modFab_ctxs (s : State) (f : Fabric → Fabric) : (modFab s f).ctxs = s.ctxs := rfl
@[simp] theorem modFab_tiles (s : State) (f : Fabric → Fabric) : (modFab s f).tiles = s.tiles := rfl
@[simp] theorem modFab_units (s : State) (f : Fabric → Fabric) : (modFab s f).units = s.units := rfl
@[simp] theorem modFab_mem (s : State) (f : Fabric → Fabric) : (modFab s f).mem = s.mem := rfl
@[simp] theorem modFab_host (s : State) (f : Fabric → Fabric) : (modFab s f).host = s.host := rfl
@[simp] theorem modFab_optics (s : State) (f : Fabric → Fabric) : (modFab s f).optics = s.optics := rfl
@[simp] theorem modFab_fab (s : State) (f : Fabric → Fabric) : (modFab s f).fab = f s.fab := rfl
@[simp] theorem modFab_hal (s : State) (f : Fabric → Fabric) : (modFab s f).hal = s.hal := rfl
@[simp] theorem modFab_fns (s : State) (f : Fabric → Fabric) : (modFab s f).fns = s.fns := rfl
@[simp] theorem modFab_boot (s : State) (f : Fabric → Fabric) : (modFab s f).boot = s.boot := rfl
@[simp] theorem modFab_mirror (s : State) (f : Fabric → Fabric) : (modFab s f).mirror = s.mirror := rfl
@[simp] theorem modFab_turns (s : State) (f : Fabric → Fabric) : (modFab s f).turns = s.turns := rfl
@[simp] theorem modFab_msix (s : State) (f : Fabric → Fabric) : (modFab s f).msix = s.msix := rfl
@[simp] theorem modFab_cpl (s : State) (f : Fabric → Fabric) : (modFab s f).cpl = s.cpl := rfl
@[simp] theorem modFab_freeCtr (s : State) (f : Fabric → Fabric) : (modFab s f).freeCtr = s.freeCtr := rfl
@[simp] theorem modFab_pending (s : State) (f : Fabric → Fabric) : (modFab s f).pending = s.pending := rfl
@[simp] theorem getCtx_modFab (s : State) (f : Fabric → Fabric) (k : CtxId) : getCtx (modFab s f) k = getCtx s k := rfl
@[simp] theorem getFn_modFab (s : State) (f : Fabric → Fabric) (k : CtxId) : getFn (modFab s f) k = getFn s k := rfl
@[simp] theorem getTile_modFab (s : State) (f : Fabric → Fabric) (k : Nat) : getTile (modFab s f) k = getTile s k := rfl
@[simp] theorem getUnit_modFab (s : State) (f : Fabric → Fabric) (k : Nat) : getUnit (modFab s f) k = getUnit s k := rfl
@[simp] theorem getLoop_modFab (s : State) (f : Fabric → Fabric) (k : Nat) : getLoop (modFab s f) k = getLoop s k := rfl
@[simp] theorem getLane_modFab (s : State) (f : Fabric → Fabric) (k : Nat) : getLane (modFab s f) k = getLane s k := rfl
@[simp] theorem getLine_modFab (s : State) (f : Fabric → Fabric) (k : Nat) : getLine (modFab s f) k = getLine s k := rfl

/-! ### modHal -/

@[simp] theorem modHal_clk (s : State) (f : Hal → Hal) : (modHal s f).clk = s.clk := rfl
@[simp] theorem modHal_pins (s : State) (f : Hal → Hal) : (modHal s f).pins = s.pins := rfl
@[simp] theorem modHal_pkg (s : State) (f : Hal → Hal) : (modHal s f).pkg = s.pkg := rfl
@[simp] theorem modHal_reef (s : State) (f : Hal → Hal) : (modHal s f).reef = s.reef := rfl
@[simp] theorem modHal_ctxs (s : State) (f : Hal → Hal) : (modHal s f).ctxs = s.ctxs := rfl
@[simp] theorem modHal_tiles (s : State) (f : Hal → Hal) : (modHal s f).tiles = s.tiles := rfl
@[simp] theorem modHal_units (s : State) (f : Hal → Hal) : (modHal s f).units = s.units := rfl
@[simp] theorem modHal_mem (s : State) (f : Hal → Hal) : (modHal s f).mem = s.mem := rfl
@[simp] theorem modHal_host (s : State) (f : Hal → Hal) : (modHal s f).host = s.host := rfl
@[simp] theorem modHal_optics (s : State) (f : Hal → Hal) : (modHal s f).optics = s.optics := rfl
@[simp] theorem modHal_fab (s : State) (f : Hal → Hal) : (modHal s f).fab = s.fab := rfl
@[simp] theorem modHal_hal (s : State) (f : Hal → Hal) : (modHal s f).hal = f s.hal := rfl
@[simp] theorem modHal_fns (s : State) (f : Hal → Hal) : (modHal s f).fns = s.fns := rfl
@[simp] theorem modHal_boot (s : State) (f : Hal → Hal) : (modHal s f).boot = s.boot := rfl
@[simp] theorem modHal_mirror (s : State) (f : Hal → Hal) : (modHal s f).mirror = s.mirror := rfl
@[simp] theorem modHal_turns (s : State) (f : Hal → Hal) : (modHal s f).turns = s.turns := rfl
@[simp] theorem modHal_msix (s : State) (f : Hal → Hal) : (modHal s f).msix = s.msix := rfl
@[simp] theorem modHal_cpl (s : State) (f : Hal → Hal) : (modHal s f).cpl = s.cpl := rfl
@[simp] theorem modHal_freeCtr (s : State) (f : Hal → Hal) : (modHal s f).freeCtr = s.freeCtr := rfl
@[simp] theorem modHal_pending (s : State) (f : Hal → Hal) : (modHal s f).pending = s.pending := rfl
@[simp] theorem getCtx_modHal (s : State) (f : Hal → Hal) (k : CtxId) : getCtx (modHal s f) k = getCtx s k := rfl
@[simp] theorem getFn_modHal (s : State) (f : Hal → Hal) (k : CtxId) : getFn (modHal s f) k = getFn s k := rfl
@[simp] theorem getTile_modHal (s : State) (f : Hal → Hal) (k : Nat) : getTile (modHal s f) k = getTile s k := rfl
@[simp] theorem getUnit_modHal (s : State) (f : Hal → Hal) (k : Nat) : getUnit (modHal s f) k = getUnit s k := rfl
@[simp] theorem getLoop_modHal (s : State) (f : Hal → Hal) (k : Nat) : getLoop (modHal s f) k = getLoop s k := rfl
@[simp] theorem getLane_modHal (s : State) (f : Hal → Hal) (k : Nat) : getLane (modHal s f) k = getLane s k := rfl
@[simp] theorem getLine_modHal (s : State) (f : Hal → Hal) (k : Nat) : getLine (modHal s f) k = getLine s k := rfl
@[simp] theorem getPort_modHal (s : State) (f : Hal → Hal) (k : Nat) : getPort (modHal s f) k = getPort s k := rfl
@[simp] theorem getCirc_modHal (s : State) (f : Hal → Hal) (k : Nat) : getCirc (modHal s f) k = getCirc s k := rfl

/-! ### modBoot -/

@[simp] theorem modBoot_clk (s : State) (f : Boot → Boot) : (modBoot s f).clk = s.clk := rfl
@[simp] theorem modBoot_pins (s : State) (f : Boot → Boot) : (modBoot s f).pins = s.pins := rfl
@[simp] theorem modBoot_pkg (s : State) (f : Boot → Boot) : (modBoot s f).pkg = s.pkg := rfl
@[simp] theorem modBoot_reef (s : State) (f : Boot → Boot) : (modBoot s f).reef = s.reef := rfl
@[simp] theorem modBoot_ctxs (s : State) (f : Boot → Boot) : (modBoot s f).ctxs = s.ctxs := rfl
@[simp] theorem modBoot_tiles (s : State) (f : Boot → Boot) : (modBoot s f).tiles = s.tiles := rfl
@[simp] theorem modBoot_units (s : State) (f : Boot → Boot) : (modBoot s f).units = s.units := rfl
@[simp] theorem modBoot_mem (s : State) (f : Boot → Boot) : (modBoot s f).mem = s.mem := rfl
@[simp] theorem modBoot_host (s : State) (f : Boot → Boot) : (modBoot s f).host = s.host := rfl
@[simp] theorem modBoot_optics (s : State) (f : Boot → Boot) : (modBoot s f).optics = s.optics := rfl
@[simp] theorem modBoot_fab (s : State) (f : Boot → Boot) : (modBoot s f).fab = s.fab := rfl
@[simp] theorem modBoot_hal (s : State) (f : Boot → Boot) : (modBoot s f).hal = s.hal := rfl
@[simp] theorem modBoot_fns (s : State) (f : Boot → Boot) : (modBoot s f).fns = s.fns := rfl
@[simp] theorem modBoot_boot (s : State) (f : Boot → Boot) : (modBoot s f).boot = f s.boot := rfl
@[simp] theorem modBoot_mirror (s : State) (f : Boot → Boot) : (modBoot s f).mirror = s.mirror := rfl
@[simp] theorem modBoot_turns (s : State) (f : Boot → Boot) : (modBoot s f).turns = s.turns := rfl
@[simp] theorem modBoot_msix (s : State) (f : Boot → Boot) : (modBoot s f).msix = s.msix := rfl
@[simp] theorem modBoot_cpl (s : State) (f : Boot → Boot) : (modBoot s f).cpl = s.cpl := rfl
@[simp] theorem modBoot_freeCtr (s : State) (f : Boot → Boot) : (modBoot s f).freeCtr = s.freeCtr := rfl
@[simp] theorem modBoot_pending (s : State) (f : Boot → Boot) : (modBoot s f).pending = s.pending := rfl
@[simp] theorem getCtx_modBoot (s : State) (f : Boot → Boot) (k : CtxId) : getCtx (modBoot s f) k = getCtx s k := rfl
@[simp] theorem getFn_modBoot (s : State) (f : Boot → Boot) (k : CtxId) : getFn (modBoot s f) k = getFn s k := rfl
@[simp] theorem getTile_modBoot (s : State) (f : Boot → Boot) (k : Nat) : getTile (modBoot s f) k = getTile s k := rfl
@[simp] theorem getUnit_modBoot (s : State) (f : Boot → Boot) (k : Nat) : getUnit (modBoot s f) k = getUnit s k := rfl
@[simp] theorem getLoop_modBoot (s : State) (f : Boot → Boot) (k : Nat) : getLoop (modBoot s f) k = getLoop s k := rfl
@[simp] theorem getLane_modBoot (s : State) (f : Boot → Boot) (k : Nat) : getLane (modBoot s f) k = getLane s k := rfl
@[simp] theorem getLine_modBoot (s : State) (f : Boot → Boot) (k : Nat) : getLine (modBoot s f) k = getLine s k := rfl
@[simp] theorem getPort_modBoot (s : State) (f : Boot → Boot) (k : Nat) : getPort (modBoot s f) k = getPort s k := rfl
@[simp] theorem getCirc_modBoot (s : State) (f : Boot → Boot) (k : Nat) : getCirc (modBoot s f) k = getCirc s k := rfl

/-! ### setCtx -/

@[simp] theorem setCtx_clk (s : State) (k : CtxId) (x : Ctx) : (setCtx s k x).clk = s.clk := rfl
@[simp] theorem setCtx_pins (s : State) (k : CtxId) (x : Ctx) : (setCtx s k x).pins = s.pins := rfl
@[simp] theorem setCtx_pkg (s : State) (k : CtxId) (x : Ctx) : (setCtx s k x).pkg = s.pkg := rfl
@[simp] theorem setCtx_reef (s : State) (k : CtxId) (x : Ctx) : (setCtx s k x).reef = s.reef := rfl
@[simp] theorem setCtx_tiles (s : State) (k : CtxId) (x : Ctx) : (setCtx s k x).tiles = s.tiles := rfl
@[simp] theorem setCtx_units (s : State) (k : CtxId) (x : Ctx) : (setCtx s k x).units = s.units := rfl
@[simp] theorem setCtx_mem (s : State) (k : CtxId) (x : Ctx) : (setCtx s k x).mem = s.mem := rfl
@[simp] theorem setCtx_host (s : State) (k : CtxId) (x : Ctx) : (setCtx s k x).host = s.host := rfl
@[simp] theorem setCtx_optics (s : State) (k : CtxId) (x : Ctx) : (setCtx s k x).optics = s.optics := rfl
@[simp] theorem setCtx_fab (s : State) (k : CtxId) (x : Ctx) : (setCtx s k x).fab = s.fab := rfl
@[simp] theorem setCtx_hal (s : State) (k : CtxId) (x : Ctx) : (setCtx s k x).hal = s.hal := rfl
@[simp] theorem setCtx_fns (s : State) (k : CtxId) (x : Ctx) : (setCtx s k x).fns = s.fns := rfl
@[simp] theorem setCtx_boot (s : State) (k : CtxId) (x : Ctx) : (setCtx s k x).boot = s.boot := rfl
@[simp] theorem setCtx_mirror (s : State) (k : CtxId) (x : Ctx) : (setCtx s k x).mirror = s.mirror := rfl
@[simp] theorem setCtx_turns (s : State) (k : CtxId) (x : Ctx) : (setCtx s k x).turns = s.turns := rfl
@[simp] theorem setCtx_msix (s : State) (k : CtxId) (x : Ctx) : (setCtx s k x).msix = s.msix := rfl
@[simp] theorem setCtx_cpl (s : State) (k : CtxId) (x : Ctx) : (setCtx s k x).cpl = s.cpl := rfl
@[simp] theorem setCtx_freeCtr (s : State) (k : CtxId) (x : Ctx) : (setCtx s k x).freeCtr = s.freeCtr := rfl
@[simp] theorem setCtx_pending (s : State) (k : CtxId) (x : Ctx) : (setCtx s k x).pending = s.pending := rfl
@[simp] theorem getCtx_setCtx_self (s : State) (k : CtxId) (x : Ctx) : getCtx (setCtx s k x) k = x := tget_tput_self ..
theorem getCtx_setCtx_ne (s : State) (k j : CtxId) (x : Ctx) (h : j ≠ k) : getCtx (setCtx s k x) j = getCtx s j := tget_tput_ne _ _ _ (fun e => h (Fin.ext e))
@[simp] theorem getFn_setCtx (s : State) (k : CtxId) (x : Ctx) (j : CtxId) : getFn (setCtx s k x) j = getFn s j := rfl
@[simp] theorem getTile_setCtx (s : State) (k : CtxId) (x : Ctx) (j : Nat) : getTile (setCtx s k x) j = getTile s j := rfl
@[simp] theorem getUnit_setCtx (s : State) (k : CtxId) (x : Ctx) (j : Nat) : getUnit (setCtx s k x) j = getUnit s j := rfl
@[simp] theorem getLoop_setCtx (s : State) (k : CtxId) (x : Ctx) (j : Nat) : getLoop (setCtx s k x) j = getLoop s j := rfl
@[simp] theorem getLane_setCtx (s : State) (k : CtxId) (x : Ctx) (j : Nat) : getLane (setCtx s k x) j = getLane s j := rfl
@[simp] theorem getLine_setCtx (s : State) (k : CtxId) (x : Ctx) (j : Nat) : getLine (setCtx s k x) j = getLine s j := rfl
@[simp] theorem getPort_setCtx (s : State) (k : CtxId) (x : Ctx) (j : Nat) : getPort (setCtx s k x) j = getPort s j := rfl
@[simp] theorem getCirc_setCtx (s : State) (k : CtxId) (x : Ctx) (j : Nat) : getCirc (setCtx s k x) j = getCirc s j := rfl

/-! ### setFn -/

@[simp] theorem setFn_clk (s : State) (k : CtxId) (x : Func) : (setFn s k x).clk = s.clk := rfl
@[simp] theorem setFn_pins (s : State) (k : CtxId) (x : Func) : (setFn s k x).pins = s.pins := rfl
@[simp] theorem setFn_pkg (s : State) (k : CtxId) (x : Func) : (setFn s k x).pkg = s.pkg := rfl
@[simp] theorem setFn_reef (s : State) (k : CtxId) (x : Func) : (setFn s k x).reef = s.reef := rfl
@[simp] theorem setFn_ctxs (s : State) (k : CtxId) (x : Func) : (setFn s k x).ctxs = s.ctxs := rfl
@[simp] theorem setFn_tiles (s : State) (k : CtxId) (x : Func) : (setFn s k x).tiles = s.tiles := rfl
@[simp] theorem setFn_units (s : State) (k : CtxId) (x : Func) : (setFn s k x).units = s.units := rfl
@[simp] theorem setFn_mem (s : State) (k : CtxId) (x : Func) : (setFn s k x).mem = s.mem := rfl
@[simp] theorem setFn_host (s : State) (k : CtxId) (x : Func) : (setFn s k x).host = s.host := rfl
@[simp] theorem setFn_optics (s : State) (k : CtxId) (x : Func) : (setFn s k x).optics = s.optics := rfl
@[simp] theorem setFn_fab (s : State) (k : CtxId) (x : Func) : (setFn s k x).fab = s.fab := rfl
@[simp] theorem setFn_hal (s : State) (k : CtxId) (x : Func) : (setFn s k x).hal = s.hal := rfl
@[simp] theorem setFn_boot (s : State) (k : CtxId) (x : Func) : (setFn s k x).boot = s.boot := rfl
@[simp] theorem setFn_mirror (s : State) (k : CtxId) (x : Func) : (setFn s k x).mirror = s.mirror := rfl
@[simp] theorem setFn_turns (s : State) (k : CtxId) (x : Func) : (setFn s k x).turns = s.turns := rfl
@[simp] theorem setFn_msix (s : State) (k : CtxId) (x : Func) : (setFn s k x).msix = s.msix := rfl
@[simp] theorem setFn_cpl (s : State) (k : CtxId) (x : Func) : (setFn s k x).cpl = s.cpl := rfl
@[simp] theorem setFn_freeCtr (s : State) (k : CtxId) (x : Func) : (setFn s k x).freeCtr = s.freeCtr := rfl
@[simp] theorem setFn_pending (s : State) (k : CtxId) (x : Func) : (setFn s k x).pending = s.pending := rfl
@[simp] theorem getCtx_setFn (s : State) (k : CtxId) (x : Func) (j : CtxId) : getCtx (setFn s k x) j = getCtx s j := rfl
@[simp] theorem getFn_setFn_self (s : State) (k : CtxId) (x : Func) : getFn (setFn s k x) k = x := tget_tput_self ..
theorem getFn_setFn_ne (s : State) (k j : CtxId) (x : Func) (h : j ≠ k) : getFn (setFn s k x) j = getFn s j := tget_tput_ne _ _ _ (fun e => h (Fin.ext e))
@[simp] theorem getTile_setFn (s : State) (k : CtxId) (x : Func) (j : Nat) : getTile (setFn s k x) j = getTile s j := rfl
@[simp] theorem getUnit_setFn (s : State) (k : CtxId) (x : Func) (j : Nat) : getUnit (setFn s k x) j = getUnit s j := rfl
@[simp] theorem getLoop_setFn (s : State) (k : CtxId) (x : Func) (j : Nat) : getLoop (setFn s k x) j = getLoop s j := rfl
@[simp] theorem getLane_setFn (s : State) (k : CtxId) (x : Func) (j : Nat) : getLane (setFn s k x) j = getLane s j := rfl
@[simp] theorem getLine_setFn (s : State) (k : CtxId) (x : Func) (j : Nat) : getLine (setFn s k x) j = getLine s j := rfl
@[simp] theorem getPort_setFn (s : State) (k : CtxId) (x : Func) (j : Nat) : getPort (setFn s k x) j = getPort s j := rfl
@[simp] theorem getCirc_setFn (s : State) (k : CtxId) (x : Func) (j : Nat) : getCirc (setFn s k x) j = getCirc s j := rfl

/-! ### setTile -/

@[simp] theorem setTile_clk (s : State) (k : Nat) (x : Tile) : (setTile s k x).clk = s.clk := rfl
@[simp] theorem setTile_pins (s : State) (k : Nat) (x : Tile) : (setTile s k x).pins = s.pins := rfl
@[simp] theorem setTile_pkg (s : State) (k : Nat) (x : Tile) : (setTile s k x).pkg = s.pkg := rfl
@[simp] theorem setTile_reef (s : State) (k : Nat) (x : Tile) : (setTile s k x).reef = s.reef := rfl
@[simp] theorem setTile_ctxs (s : State) (k : Nat) (x : Tile) : (setTile s k x).ctxs = s.ctxs := rfl
@[simp] theorem setTile_units (s : State) (k : Nat) (x : Tile) : (setTile s k x).units = s.units := rfl
@[simp] theorem setTile_mem (s : State) (k : Nat) (x : Tile) : (setTile s k x).mem = s.mem := rfl
@[simp] theorem setTile_host (s : State) (k : Nat) (x : Tile) : (setTile s k x).host = s.host := rfl
@[simp] theorem setTile_optics (s : State) (k : Nat) (x : Tile) : (setTile s k x).optics = s.optics := rfl
@[simp] theorem setTile_fab (s : State) (k : Nat) (x : Tile) : (setTile s k x).fab = s.fab := rfl
@[simp] theorem setTile_hal (s : State) (k : Nat) (x : Tile) : (setTile s k x).hal = s.hal := rfl
@[simp] theorem setTile_fns (s : State) (k : Nat) (x : Tile) : (setTile s k x).fns = s.fns := rfl
@[simp] theorem setTile_boot (s : State) (k : Nat) (x : Tile) : (setTile s k x).boot = s.boot := rfl
@[simp] theorem setTile_mirror (s : State) (k : Nat) (x : Tile) : (setTile s k x).mirror = s.mirror := rfl
@[simp] theorem setTile_turns (s : State) (k : Nat) (x : Tile) : (setTile s k x).turns = s.turns := rfl
@[simp] theorem setTile_msix (s : State) (k : Nat) (x : Tile) : (setTile s k x).msix = s.msix := rfl
@[simp] theorem setTile_cpl (s : State) (k : Nat) (x : Tile) : (setTile s k x).cpl = s.cpl := rfl
@[simp] theorem setTile_freeCtr (s : State) (k : Nat) (x : Tile) : (setTile s k x).freeCtr = s.freeCtr := rfl
@[simp] theorem setTile_pending (s : State) (k : Nat) (x : Tile) : (setTile s k x).pending = s.pending := rfl
@[simp] theorem getCtx_setTile (s : State) (k : Nat) (x : Tile) (j : CtxId) : getCtx (setTile s k x) j = getCtx s j := rfl
@[simp] theorem getFn_setTile (s : State) (k : Nat) (x : Tile) (j : CtxId) : getFn (setTile s k x) j = getFn s j := rfl
@[simp] theorem getTile_setTile_self (s : State) (k : Nat) (x : Tile) : getTile (setTile s k x) k = x := tget_tput_self ..
theorem getTile_setTile_ne (s : State) (k j : Nat) (x : Tile) (h : j ≠ k) : getTile (setTile s k x) j = getTile s j := tget_tput_ne _ _ _ h
@[simp] theorem getUnit_setTile (s : State) (k : Nat) (x : Tile) (j : Nat) : getUnit (setTile s k x) j = getUnit s j := rfl
@[simp] theorem getLoop_setTile (s : State) (k : Nat) (x : Tile) (j : Nat) : getLoop (setTile s k x) j = getLoop s j := rfl
@[simp] theorem getLane_setTile (s : State) (k : Nat) (x : Tile) (j : Nat) : getLane (setTile s k x) j = getLane s j := rfl
@[simp] theorem getLine_setTile (s : State) (k : Nat) (x : Tile) (j : Nat) : getLine (setTile s k x) j = getLine s j := rfl
@[simp] theorem getPort_setTile (s : State) (k : Nat) (x : Tile) (j : Nat) : getPort (setTile s k x) j = getPort s j := rfl
@[simp] theorem getCirc_setTile (s : State) (k : Nat) (x : Tile) (j : Nat) : getCirc (setTile s k x) j = getCirc s j := rfl

/-! ### setUnit -/

@[simp] theorem setUnit_clk (s : State) (k : Nat) (x : UpdUnit) : (setUnit s k x).clk = s.clk := rfl
@[simp] theorem setUnit_pins (s : State) (k : Nat) (x : UpdUnit) : (setUnit s k x).pins = s.pins := rfl
@[simp] theorem setUnit_pkg (s : State) (k : Nat) (x : UpdUnit) : (setUnit s k x).pkg = s.pkg := rfl
@[simp] theorem setUnit_reef (s : State) (k : Nat) (x : UpdUnit) : (setUnit s k x).reef = s.reef := rfl
@[simp] theorem setUnit_ctxs (s : State) (k : Nat) (x : UpdUnit) : (setUnit s k x).ctxs = s.ctxs := rfl
@[simp] theorem setUnit_tiles (s : State) (k : Nat) (x : UpdUnit) : (setUnit s k x).tiles = s.tiles := rfl
@[simp] theorem setUnit_mem (s : State) (k : Nat) (x : UpdUnit) : (setUnit s k x).mem = s.mem := rfl
@[simp] theorem setUnit_host (s : State) (k : Nat) (x : UpdUnit) : (setUnit s k x).host = s.host := rfl
@[simp] theorem setUnit_optics (s : State) (k : Nat) (x : UpdUnit) : (setUnit s k x).optics = s.optics := rfl
@[simp] theorem setUnit_fab (s : State) (k : Nat) (x : UpdUnit) : (setUnit s k x).fab = s.fab := rfl
@[simp] theorem setUnit_hal (s : State) (k : Nat) (x : UpdUnit) : (setUnit s k x).hal = s.hal := rfl
@[simp] theorem setUnit_fns (s : State) (k : Nat) (x : UpdUnit) : (setUnit s k x).fns = s.fns := rfl
@[simp] theorem setUnit_boot (s : State) (k : Nat) (x : UpdUnit) : (setUnit s k x).boot = s.boot := rfl
@[simp] theorem setUnit_mirror (s : State) (k : Nat) (x : UpdUnit) : (setUnit s k x).mirror = s.mirror := rfl
@[simp] theorem setUnit_turns (s : State) (k : Nat) (x : UpdUnit) : (setUnit s k x).turns = s.turns := rfl
@[simp] theorem setUnit_msix (s : State) (k : Nat) (x : UpdUnit) : (setUnit s k x).msix = s.msix := rfl
@[simp] theorem setUnit_cpl (s : State) (k : Nat) (x : UpdUnit) : (setUnit s k x).cpl = s.cpl := rfl
@[simp] theorem setUnit_freeCtr (s : State) (k : Nat) (x : UpdUnit) : (setUnit s k x).freeCtr = s.freeCtr := rfl
@[simp] theorem setUnit_pending (s : State) (k : Nat) (x : UpdUnit) : (setUnit s k x).pending = s.pending := rfl
@[simp] theorem getCtx_setUnit (s : State) (k : Nat) (x : UpdUnit) (j : CtxId) : getCtx (setUnit s k x) j = getCtx s j := rfl
@[simp] theorem getFn_setUnit (s : State) (k : Nat) (x : UpdUnit) (j : CtxId) : getFn (setUnit s k x) j = getFn s j := rfl
@[simp] theorem getTile_setUnit (s : State) (k : Nat) (x : UpdUnit) (j : Nat) : getTile (setUnit s k x) j = getTile s j := rfl
@[simp] theorem getUnit_setUnit_self (s : State) (k : Nat) (x : UpdUnit) : getUnit (setUnit s k x) k = x := tget_tput_self ..
theorem getUnit_setUnit_ne (s : State) (k j : Nat) (x : UpdUnit) (h : j ≠ k) : getUnit (setUnit s k x) j = getUnit s j := tget_tput_ne _ _ _ h
@[simp] theorem getLoop_setUnit (s : State) (k : Nat) (x : UpdUnit) (j : Nat) : getLoop (setUnit s k x) j = getLoop s j := rfl
@[simp] theorem getLane_setUnit (s : State) (k : Nat) (x : UpdUnit) (j : Nat) : getLane (setUnit s k x) j = getLane s j := rfl
@[simp] theorem getLine_setUnit (s : State) (k : Nat) (x : UpdUnit) (j : Nat) : getLine (setUnit s k x) j = getLine s j := rfl
@[simp] theorem getPort_setUnit (s : State) (k : Nat) (x : UpdUnit) (j : Nat) : getPort (setUnit s k x) j = getPort s j := rfl
@[simp] theorem getCirc_setUnit (s : State) (k : Nat) (x : UpdUnit) (j : Nat) : getCirc (setUnit s k x) j = getCirc s j := rfl

/-! ### setLoop -/

@[simp] theorem setLoop_clk (s : State) (k : Nat) (x : HLoop) : (setLoop s k x).clk = s.clk := rfl
@[simp] theorem setLoop_pins (s : State) (k : Nat) (x : HLoop) : (setLoop s k x).pins = s.pins := rfl
@[simp] theorem setLoop_pkg (s : State) (k : Nat) (x : HLoop) : (setLoop s k x).pkg = s.pkg := rfl
@[simp] theorem setLoop_reef (s : State) (k : Nat) (x : HLoop) : (setLoop s k x).reef = s.reef := rfl
@[simp] theorem setLoop_ctxs (s : State) (k : Nat) (x : HLoop) : (setLoop s k x).ctxs = s.ctxs := rfl
@[simp] theorem setLoop_tiles (s : State) (k : Nat) (x : HLoop) : (setLoop s k x).tiles = s.tiles := rfl
@[simp] theorem setLoop_units (s : State) (k : Nat) (x : HLoop) : (setLoop s k x).units = s.units := rfl
@[simp] theorem setLoop_mem (s : State) (k : Nat) (x : HLoop) : (setLoop s k x).mem = s.mem := rfl
@[simp] theorem setLoop_host (s : State) (k : Nat) (x : HLoop) : (setLoop s k x).host = s.host := rfl
@[simp] theorem setLoop_fab (s : State) (k : Nat) (x : HLoop) : (setLoop s k x).fab = s.fab := rfl
@[simp] theorem setLoop_hal (s : State) (k : Nat) (x : HLoop) : (setLoop s k x).hal = s.hal := rfl
@[simp] theorem setLoop_fns (s : State) (k : Nat) (x : HLoop) : (setLoop s k x).fns = s.fns := rfl
@[simp] theorem setLoop_boot (s : State) (k : Nat) (x : HLoop) : (setLoop s k x).boot = s.boot := rfl
@[simp] theorem setLoop_mirror (s : State) (k : Nat) (x : HLoop) : (setLoop s k x).mirror = s.mirror := rfl
@[simp] theorem setLoop_turns (s : State) (k : Nat) (x : HLoop) : (setLoop s k x).turns = s.turns := rfl
@[simp] theorem setLoop_msix (s : State) (k : Nat) (x : HLoop) : (setLoop s k x).msix = s.msix := rfl
@[simp] theorem setLoop_cpl (s : State) (k : Nat) (x : HLoop) : (setLoop s k x).cpl = s.cpl := rfl
@[simp] theorem setLoop_freeCtr (s : State) (k : Nat) (x : HLoop) : (setLoop s k x).freeCtr = s.freeCtr := rfl
@[simp] theorem setLoop_pending (s : State) (k : Nat) (x : HLoop) : (setLoop s k x).pending = s.pending := rfl
@[simp] theorem getCtx_setLoop (s : State) (k : Nat) (x : HLoop) (j : CtxId) : getCtx (setLoop s k x) j = getCtx s j := rfl
@[simp] theorem getFn_setLoop (s : State) (k : Nat) (x : HLoop) (j : CtxId) : getFn (setLoop s k x) j = getFn s j := rfl
@[simp] theorem getTile_setLoop (s : State) (k : Nat) (x : HLoop) (j : Nat) : getTile (setLoop s k x) j = getTile s j := rfl
@[simp] theorem getUnit_setLoop (s : State) (k : Nat) (x : HLoop) (j : Nat) : getUnit (setLoop s k x) j = getUnit s j := rfl
@[simp] theorem getLoop_setLoop_self (s : State) (k : Nat) (x : HLoop) : getLoop (setLoop s k x) k = x := tget_tput_self ..
theorem getLoop_setLoop_ne (s : State) (k j : Nat) (x : HLoop) (h : j ≠ k) : getLoop (setLoop s k x) j = getLoop s j := tget_tput_ne _ _ _ h
@[simp] theorem getLane_setLoop (s : State) (k : Nat) (x : HLoop) (j : Nat) : getLane (setLoop s k x) j = getLane s j := rfl
@[simp] theorem getLine_setLoop (s : State) (k : Nat) (x : HLoop) (j : Nat) : getLine (setLoop s k x) j = getLine s j := rfl
@[simp] theorem getPort_setLoop (s : State) (k : Nat) (x : HLoop) (j : Nat) : getPort (setLoop s k x) j = getPort s j := rfl
@[simp] theorem getCirc_setLoop (s : State) (k : Nat) (x : HLoop) (j : Nat) : getCirc (setLoop s k x) j = getCirc s j := rfl

/-! ### setLane -/

@[simp] theorem setLane_clk (s : State) (k : Nat) (x : Lane) : (setLane s k x).clk = s.clk := rfl
@[simp] theorem setLane_pins (s : State) (k : Nat) (x : Lane) : (setLane s k x).pins = s.pins := rfl
@[simp] theorem setLane_pkg (s : State) (k : Nat) (x : Lane) : (setLane s k x).pkg = s.pkg := rfl
@[simp] theorem setLane_reef (s : State) (k : Nat) (x : Lane) : (setLane s k x).reef = s.reef := rfl
@[simp] theorem setLane_ctxs (s : State) (k : Nat) (x : Lane) : (setLane s k x).ctxs = s.ctxs := rfl
@[simp] theorem setLane_tiles (s : State) (k : Nat) (x : Lane) : (setLane s k x).tiles = s.tiles := rfl
@[simp] theorem setLane_units (s : State) (k : Nat) (x : Lane) : (setLane s k x).units = s.units := rfl
@[simp] theorem setLane_mem (s : State) (k : Nat) (x : Lane) : (setLane s k x).mem = s.mem := rfl
@[simp] theorem setLane_host (s : State) (k : Nat) (x : Lane) : (setLane s k x).host = s.host := rfl
@[simp] theorem setLane_fab (s : State) (k : Nat) (x : Lane) : (setLane s k x).fab = s.fab := rfl
@[simp] theorem setLane_hal (s : State) (k : Nat) (x : Lane) : (setLane s k x).hal = s.hal := rfl
@[simp] theorem setLane_fns (s : State) (k : Nat) (x : Lane) : (setLane s k x).fns = s.fns := rfl
@[simp] theorem setLane_boot (s : State) (k : Nat) (x : Lane) : (setLane s k x).boot = s.boot := rfl
@[simp] theorem setLane_mirror (s : State) (k : Nat) (x : Lane) : (setLane s k x).mirror = s.mirror := rfl
@[simp] theorem setLane_turns (s : State) (k : Nat) (x : Lane) : (setLane s k x).turns = s.turns := rfl
@[simp] theorem setLane_msix (s : State) (k : Nat) (x : Lane) : (setLane s k x).msix = s.msix := rfl
@[simp] theorem setLane_cpl (s : State) (k : Nat) (x : Lane) : (setLane s k x).cpl = s.cpl := rfl
@[simp] theorem setLane_freeCtr (s : State) (k : Nat) (x : Lane) : (setLane s k x).freeCtr = s.freeCtr := rfl
@[simp] theorem setLane_pending (s : State) (k : Nat) (x : Lane) : (setLane s k x).pending = s.pending := rfl
@[simp] theorem getCtx_setLane (s : State) (k : Nat) (x : Lane) (j : CtxId) : getCtx (setLane s k x) j = getCtx s j := rfl
@[simp] theorem getFn_setLane (s : State) (k : Nat) (x : Lane) (j : CtxId) : getFn (setLane s k x) j = getFn s j := rfl
@[simp] theorem getTile_setLane (s : State) (k : Nat) (x : Lane) (j : Nat) : getTile (setLane s k x) j = getTile s j := rfl
@[simp] theorem getUnit_setLane (s : State) (k : Nat) (x : Lane) (j : Nat) : getUnit (setLane s k x) j = getUnit s j := rfl
@[simp] theorem getLoop_setLane (s : State) (k : Nat) (x : Lane) (j : Nat) : getLoop (setLane s k x) j = getLoop s j := rfl
@[simp] theorem getLane_setLane_self (s : State) (k : Nat) (x : Lane) : getLane (setLane s k x) k = x := tget_tput_self ..
theorem getLane_setLane_ne (s : State) (k j : Nat) (x : Lane) (h : j ≠ k) : getLane (setLane s k x) j = getLane s j := tget_tput_ne _ _ _ h
@[simp] theorem getLine_setLane (s : State) (k : Nat) (x : Lane) (j : Nat) : getLine (setLane s k x) j = getLine s j := rfl
@[simp] theorem getPort_setLane (s : State) (k : Nat) (x : Lane) (j : Nat) : getPort (setLane s k x) j = getPort s j := rfl
@[simp] theorem getCirc_setLane (s : State) (k : Nat) (x : Lane) (j : Nat) : getCirc (setLane s k x) j = getCirc s j := rfl

/-! ### setLine -/

@[simp] theorem setLine_clk (s : State) (k : Nat) (x : Line) : (setLine s k x).clk = s.clk := rfl
@[simp] theorem setLine_pins (s : State) (k : Nat) (x : Line) : (setLine s k x).pins = s.pins := rfl
@[simp] theorem setLine_pkg (s : State) (k : Nat) (x : Line) : (setLine s k x).pkg = s.pkg := rfl
@[simp] theorem setLine_reef (s : State) (k : Nat) (x : Line) : (setLine s k x).reef = s.reef := rfl
@[simp] theorem setLine_ctxs (s : State) (k : Nat) (x : Line) : (setLine s k x).ctxs = s.ctxs := rfl
@[simp] theorem setLine_tiles (s : State) (k : Nat) (x : Line) : (setLine s k x).tiles = s.tiles := rfl
@[simp] theorem setLine_units (s : State) (k : Nat) (x : Line) : (setLine s k x).units = s.units := rfl
@[simp] theorem setLine_mem (s : State) (k : Nat) (x : Line) : (setLine s k x).mem = s.mem := rfl
@[simp] theorem setLine_host (s : State) (k : Nat) (x : Line) : (setLine s k x).host = s.host := rfl
@[simp] theorem setLine_fab (s : State) (k : Nat) (x : Line) : (setLine s k x).fab = s.fab := rfl
@[simp] theorem setLine_hal (s : State) (k : Nat) (x : Line) : (setLine s k x).hal = s.hal := rfl
@[simp] theorem setLine_fns (s : State) (k : Nat) (x : Line) : (setLine s k x).fns = s.fns := rfl
@[simp] theorem setLine_boot (s : State) (k : Nat) (x : Line) : (setLine s k x).boot = s.boot := rfl
@[simp] theorem setLine_mirror (s : State) (k : Nat) (x : Line) : (setLine s k x).mirror = s.mirror := rfl
@[simp] theorem setLine_turns (s : State) (k : Nat) (x : Line) : (setLine s k x).turns = s.turns := rfl
@[simp] theorem setLine_msix (s : State) (k : Nat) (x : Line) : (setLine s k x).msix = s.msix := rfl
@[simp] theorem setLine_cpl (s : State) (k : Nat) (x : Line) : (setLine s k x).cpl = s.cpl := rfl
@[simp] theorem setLine_freeCtr (s : State) (k : Nat) (x : Line) : (setLine s k x).freeCtr = s.freeCtr := rfl
@[simp] theorem setLine_pending (s : State) (k : Nat) (x : Line) : (setLine s k x).pending = s.pending := rfl
@[simp] theorem getCtx_setLine (s : State) (k : Nat) (x : Line) (j : CtxId) : getCtx (setLine s k x) j = getCtx s j := rfl
@[simp] theorem getFn_setLine (s : State) (k : Nat) (x : Line) (j : CtxId) : getFn (setLine s k x) j = getFn s j := rfl
@[simp] theorem getTile_setLine (s : State) (k : Nat) (x : Line) (j : Nat) : getTile (setLine s k x) j = getTile s j := rfl
@[simp] theorem getUnit_setLine (s : State) (k : Nat) (x : Line) (j : Nat) : getUnit (setLine s k x) j = getUnit s j := rfl
@[simp] theorem getLoop_setLine (s : State) (k : Nat) (x : Line) (j : Nat) : getLoop (setLine s k x) j = getLoop s j := rfl
@[simp] theorem getLane_setLine (s : State) (k : Nat) (x : Line) (j : Nat) : getLane (setLine s k x) j = getLane s j := rfl
@[simp] theorem getLine_setLine_self (s : State) (k : Nat) (x : Line) : getLine (setLine s k x) k = x := tget_tput_self ..
theorem getLine_setLine_ne (s : State) (k j : Nat) (x : Line) (h : j ≠ k) : getLine (setLine s k x) j = getLine s j := tget_tput_ne _ _ _ h
@[simp] theorem getPort_setLine (s : State) (k : Nat) (x : Line) (j : Nat) : getPort (setLine s k x) j = getPort s j := rfl
@[simp] theorem getCirc_setLine (s : State) (k : Nat) (x : Line) (j : Nat) : getCirc (setLine s k x) j = getCirc s j := rfl

/-! ### setPort -/

@[simp] theorem setPort_clk (s : State) (k : Nat) (x : Port) : (setPort s k x).clk = s.clk := rfl
@[simp] theorem setPort_pins (s : State) (k : Nat) (x : Port) : (setPort s k x).pins = s.pins := rfl
@[simp] theorem setPort_pkg (s : State) (k : Nat) (x : Port) : (setPort s k x).pkg = s.pkg := rfl
@[simp] theorem setPort_reef (s : State) (k : Nat) (x : Port) : (setPort s k x).reef = s.reef := rfl
@[simp] theorem setPort_ctxs (s : State) (k : Nat) (x : Port) : (setPort s k x).ctxs = s.ctxs := rfl
@[simp] theorem setPort_tiles (s : State) (k : Nat) (x : Port) : (setPort s k x).tiles = s.tiles := rfl
@[simp] theorem setPort_units (s : State) (k : Nat) (x : Port) : (setPort s k x).units = s.units := rfl
@[simp] theorem setPort_mem (s : State) (k : Nat) (x : Port) : (setPort s k x).mem = s.mem := rfl
@[simp] theorem setPort_host (s : State) (k : Nat) (x : Port) : (setPort s k x).host = s.host := rfl
@[simp] theorem setPort_optics (s : State) (k : Nat) (x : Port) : (setPort s k x).optics = s.optics := rfl
@[simp] theorem setPort_hal (s : State) (k : Nat) (x : Port) : (setPort s k x).hal = s.hal := rfl
@[simp] theorem setPort_fns (s : State) (k : Nat) (x : Port) : (setPort s k x).fns = s.fns := rfl
@[simp] theorem setPort_boot (s : State) (k : Nat) (x : Port) : (setPort s k x).boot = s.boot := rfl
@[simp] theorem setPort_mirror (s : State) (k : Nat) (x : Port) : (setPort s k x).mirror = s.mirror := rfl
@[simp] theorem setPort_turns (s : State) (k : Nat) (x : Port) : (setPort s k x).turns = s.turns := rfl
@[simp] theorem setPort_msix (s : State) (k : Nat) (x : Port) : (setPort s k x).msix = s.msix := rfl
@[simp] theorem setPort_cpl (s : State) (k : Nat) (x : Port) : (setPort s k x).cpl = s.cpl := rfl
@[simp] theorem setPort_freeCtr (s : State) (k : Nat) (x : Port) : (setPort s k x).freeCtr = s.freeCtr := rfl
@[simp] theorem setPort_pending (s : State) (k : Nat) (x : Port) : (setPort s k x).pending = s.pending := rfl
@[simp] theorem getCtx_setPort (s : State) (k : Nat) (x : Port) (j : CtxId) : getCtx (setPort s k x) j = getCtx s j := rfl
@[simp] theorem getFn_setPort (s : State) (k : Nat) (x : Port) (j : CtxId) : getFn (setPort s k x) j = getFn s j := rfl
@[simp] theorem getTile_setPort (s : State) (k : Nat) (x : Port) (j : Nat) : getTile (setPort s k x) j = getTile s j := rfl
@[simp] theorem getUnit_setPort (s : State) (k : Nat) (x : Port) (j : Nat) : getUnit (setPort s k x) j = getUnit s j := rfl
@[simp] theorem getLoop_setPort (s : State) (k : Nat) (x : Port) (j : Nat) : getLoop (setPort s k x) j = getLoop s j := rfl
@[simp] theorem getLane_setPort (s : State) (k : Nat) (x : Port) (j : Nat) : getLane (setPort s k x) j = getLane s j := rfl
@[simp] theorem getLine_setPort (s : State) (k : Nat) (x : Port) (j : Nat) : getLine (setPort s k x) j = getLine s j := rfl
@[simp] theorem getPort_setPort_self (s : State) (k : Nat) (x : Port) : getPort (setPort s k x) k = x := tget_tput_self ..
theorem getPort_setPort_ne (s : State) (k j : Nat) (x : Port) (h : j ≠ k) : getPort (setPort s k x) j = getPort s j := tget_tput_ne _ _ _ h
@[simp] theorem getCirc_setPort (s : State) (k : Nat) (x : Port) (j : Nat) : getCirc (setPort s k x) j = getCirc s j := rfl

/-! ### setCirc -/

@[simp] theorem setCirc_clk (s : State) (k : Nat) (x : Circ) : (setCirc s k x).clk = s.clk := rfl
@[simp] theorem setCirc_pins (s : State) (k : Nat) (x : Circ) : (setCirc s k x).pins = s.pins := rfl
@[simp] theorem setCirc_pkg (s : State) (k : Nat) (x : Circ) : (setCirc s k x).pkg = s.pkg := rfl
@[simp] theorem setCirc_reef (s : State) (k : Nat) (x : Circ) : (setCirc s k x).reef = s.reef := rfl
@[simp] theorem setCirc_ctxs (s : State) (k : Nat) (x : Circ) : (setCirc s k x).ctxs = s.ctxs := rfl
@[simp] theorem setCirc_tiles (s : State) (k : Nat) (x : Circ) : (setCirc s k x).tiles = s.tiles := rfl
@[simp] theorem setCirc_units (s : State) (k : Nat) (x : Circ) : (setCirc s k x).units = s.units := rfl
@[simp] theorem setCirc_mem (s : State) (k : Nat) (x : Circ) : (setCirc s k x).mem = s.mem := rfl
@[simp] theorem setCirc_host (s : State) (k : Nat) (x : Circ) : (setCirc s k x).host = s.host := rfl
@[simp] theorem setCirc_optics (s : State) (k : Nat) (x : Circ) : (setCirc s k x).optics = s.optics := rfl
@[simp] theorem setCirc_hal (s : State) (k : Nat) (x : Circ) : (setCirc s k x).hal = s.hal := rfl
@[simp] theorem setCirc_fns (s : State) (k : Nat) (x : Circ) : (setCirc s k x).fns = s.fns := rfl
@[simp] theorem setCirc_boot (s : State) (k : Nat) (x : Circ) : (setCirc s k x).boot = s.boot := rfl
@[simp] theorem setCirc_mirror (s : State) (k : Nat) (x : Circ) : (setCirc s k x).mirror = s.mirror := rfl
@[simp] theorem setCirc_turns (s : State) (k : Nat) (x : Circ) : (setCirc s k x).turns = s.turns := rfl
@[simp] theorem setCirc_msix (s : State) (k : Nat) (x : Circ) : (setCirc s k x).msix = s.msix := rfl
@[simp] theorem setCirc_cpl (s : State) (k : Nat) (x : Circ) : (setCirc s k x).cpl = s.cpl := rfl
@[simp] theorem setCirc_freeCtr (s : State) (k : Nat) (x : Circ) : (setCirc s k x).freeCtr = s.freeCtr := rfl
@[simp] theorem setCirc_pending (s : State) (k : Nat) (x : Circ) : (setCirc s k x).pending = s.pending := rfl
@[simp] theorem getCtx_setCirc (s : State) (k : Nat) (x : Circ) (j : CtxId) : getCtx (setCirc s k x) j = getCtx s j := rfl
@[simp] theorem getFn_setCirc (s : State) (k : Nat) (x : Circ) (j : CtxId) : getFn (setCirc s k x) j = getFn s j := rfl
@[simp] theorem getTile_setCirc (s : State) (k : Nat) (x : Circ) (j : Nat) : getTile (setCirc s k x) j = getTile s j := rfl
@[simp] theorem getUnit_setCirc (s : State) (k : Nat) (x : Circ) (j : Nat) : getUnit (setCirc s k x) j = getUnit s j := rfl
@[simp] theorem getLoop_setCirc (s : State) (k : Nat) (x : Circ) (j : Nat) : getLoop (setCirc s k x) j = getLoop s j := rfl
@[simp] theorem getLane_setCirc (s : State) (k : Nat) (x : Circ) (j : Nat) : getLane (setCirc s k x) j = getLane s j := rfl
@[simp] theorem getLine_setCirc (s : State) (k : Nat) (x : Circ) (j : Nat) : getLine (setCirc s k x) j = getLine s j := rfl
@[simp] theorem getPort_setCirc (s : State) (k : Nat) (x : Circ) (j : Nat) : getPort (setCirc s k x) j = getPort s j := rfl
@[simp] theorem getCirc_setCirc_self (s : State) (k : Nat) (x : Circ) : getCirc (setCirc s k x) k = x := tget_tput_self ..
theorem getCirc_setCirc_ne (s : State) (k j : Nat) (x : Circ) (h : j ≠ k) : getCirc (setCirc s k x) j = getCirc s j := tget_tput_ne _ _ _ h

/-! ### Modifications through the records -/

theorem modCtx_eq (s : State) (c : CtxId) (f : Ctx → Ctx) : modCtx s c f = setCtx s c (f (getCtx s c)) := rfl
theorem modFn_eq (s : State) (n : CtxId) (f : Func → Func) : modFn s n f = setFn s n (f (getFn s n)) := rfl
@[simp] theorem getCtx_modCtx_self (s : State) (c : CtxId) (f : Ctx → Ctx) : getCtx (modCtx s c f) c = f (getCtx s c) := getCtx_setCtx_self ..
theorem getCtx_modCtx_ne (s : State) (c d : CtxId) (f : Ctx → Ctx) (h : d ≠ c) : getCtx (modCtx s c f) d = getCtx s d := getCtx_setCtx_ne _ _ _ _ h
@[simp] theorem getFn_modFn_self (s : State) (c : CtxId) (f : Func → Func) : getFn (modFn s c f) c = f (getFn s c) := getFn_setFn_self ..
theorem getFn_modFn_ne (s : State) (c d : CtxId) (f : Func → Func) (h : d ≠ c) : getFn (modFn s c f) d = getFn s d := getFn_setFn_ne _ _ _ _ h
@[simp] theorem modCtx_clk (s : State) (c : CtxId) (f : Ctx → Ctx) : (modCtx s c f).clk = s.clk := rfl
@[simp] theorem modFn_clk (s : State) (c : CtxId) (f : Func → Func) : (modFn s c f).clk = s.clk := rfl
@[simp] theorem modCtx_pins (s : State) (c : CtxId) (f : Ctx → Ctx) : (modCtx s c f).pins = s.pins := rfl
@[simp] theorem modFn_pins (s : State) (c : CtxId) (f : Func → Func) : (modFn s c f).pins = s.pins := rfl
@[simp] theorem modCtx_pkg (s : State) (c : CtxId) (f : Ctx → Ctx) : (modCtx s c f).pkg = s.pkg := rfl
@[simp] theorem modFn_pkg (s : State) (c : CtxId) (f : Func → Func) : (modFn s c f).pkg = s.pkg := rfl
@[simp] theorem modCtx_reef (s : State) (c : CtxId) (f : Ctx → Ctx) : (modCtx s c f).reef = s.reef := rfl
@[simp] theorem modFn_reef (s : State) (c : CtxId) (f : Func → Func) : (modFn s c f).reef = s.reef := rfl
@[simp] theorem modFn_ctxs (s : State) (c : CtxId) (f : Func → Func) : (modFn s c f).ctxs = s.ctxs := rfl
@[simp] theorem modCtx_tiles (s : State) (c : CtxId) (f : Ctx → Ctx) : (modCtx s c f).tiles = s.tiles := rfl
@[simp] theorem modFn_tiles (s : State) (c : CtxId) (f : Func → Func) : (modFn s c f).tiles = s.tiles := rfl
@[simp] theorem modCtx_units (s : State) (c : CtxId) (f : Ctx → Ctx) : (modCtx s c f).units = s.units := rfl
@[simp] theorem modFn_units (s : State) (c : CtxId) (f : Func → Func) : (modFn s c f).units = s.units := rfl
@[simp] theorem modCtx_mem (s : State) (c : CtxId) (f : Ctx → Ctx) : (modCtx s c f).mem = s.mem := rfl
@[simp] theorem modFn_mem (s : State) (c : CtxId) (f : Func → Func) : (modFn s c f).mem = s.mem := rfl
@[simp] theorem modCtx_host (s : State) (c : CtxId) (f : Ctx → Ctx) : (modCtx s c f).host = s.host := rfl
@[simp] theorem modFn_host (s : State) (c : CtxId) (f : Func → Func) : (modFn s c f).host = s.host := rfl
@[simp] theorem modCtx_optics (s : State) (c : CtxId) (f : Ctx → Ctx) : (modCtx s c f).optics = s.optics := rfl
@[simp] theorem modFn_optics (s : State) (c : CtxId) (f : Func → Func) : (modFn s c f).optics = s.optics := rfl
@[simp] theorem modCtx_fab (s : State) (c : CtxId) (f : Ctx → Ctx) : (modCtx s c f).fab = s.fab := rfl
@[simp] theorem modFn_fab (s : State) (c : CtxId) (f : Func → Func) : (modFn s c f).fab = s.fab := rfl
@[simp] theorem modCtx_hal (s : State) (c : CtxId) (f : Ctx → Ctx) : (modCtx s c f).hal = s.hal := rfl
@[simp] theorem modFn_hal (s : State) (c : CtxId) (f : Func → Func) : (modFn s c f).hal = s.hal := rfl
@[simp] theorem modCtx_fns (s : State) (c : CtxId) (f : Ctx → Ctx) : (modCtx s c f).fns = s.fns := rfl
@[simp] theorem modCtx_boot (s : State) (c : CtxId) (f : Ctx → Ctx) : (modCtx s c f).boot = s.boot := rfl
@[simp] theorem modFn_boot (s : State) (c : CtxId) (f : Func → Func) : (modFn s c f).boot = s.boot := rfl
@[simp] theorem modCtx_mirror (s : State) (c : CtxId) (f : Ctx → Ctx) : (modCtx s c f).mirror = s.mirror := rfl
@[simp] theorem modFn_mirror (s : State) (c : CtxId) (f : Func → Func) : (modFn s c f).mirror = s.mirror := rfl
@[simp] theorem modCtx_turns (s : State) (c : CtxId) (f : Ctx → Ctx) : (modCtx s c f).turns = s.turns := rfl
@[simp] theorem modFn_turns (s : State) (c : CtxId) (f : Func → Func) : (modFn s c f).turns = s.turns := rfl
@[simp] theorem modCtx_msix (s : State) (c : CtxId) (f : Ctx → Ctx) : (modCtx s c f).msix = s.msix := rfl
@[simp] theorem modFn_msix (s : State) (c : CtxId) (f : Func → Func) : (modFn s c f).msix = s.msix := rfl
@[simp] theorem modCtx_cpl (s : State) (c : CtxId) (f : Ctx → Ctx) : (modCtx s c f).cpl = s.cpl := rfl
@[simp] theorem modFn_cpl (s : State) (c : CtxId) (f : Func → Func) : (modFn s c f).cpl = s.cpl := rfl
@[simp] theorem modCtx_freeCtr (s : State) (c : CtxId) (f : Ctx → Ctx) : (modCtx s c f).freeCtr = s.freeCtr := rfl
@[simp] theorem modFn_freeCtr (s : State) (c : CtxId) (f : Func → Func) : (modFn s c f).freeCtr = s.freeCtr := rfl
@[simp] theorem modCtx_pending (s : State) (c : CtxId) (f : Ctx → Ctx) : (modCtx s c f).pending = s.pending := rfl
@[simp] theorem modFn_pending (s : State) (c : CtxId) (f : Func → Func) : (modFn s c f).pending = s.pending := rfl
@[simp] theorem getFn_modCtx (s : State) (c : CtxId) (f : Ctx → Ctx) (k : CtxId) : getFn (modCtx s c f) k = getFn s k := rfl
@[simp] theorem getCtx_modFn (s : State) (c : CtxId) (f : Func → Func) (k : CtxId) : getCtx (modFn s c f) k = getCtx s k := rfl
@[simp] theorem modIs_is (x : Ctx) (f : Issue → Issue) : (modIs x f).is = f x.is := rfl
@[simp] theorem modFr_fr (x : Ctx) (f : Frame → Frame) : (modFr x f).fr = f x.fr := rfl

end Sys2Proof.Machine
end

