-- ==== Sys2Proof/Laws/Events.lean ====
section
/-! SUPPORT. What recording and signalling can touch, said once: an event, a Field book record, an interrupt or a health reason
changes host memory, the records of Halyard, pending signals and outgoing fabric events, and nothing else of the package. -/

namespace Sys2Proof.Machine

/-- A function's registers but for its ring's tail, counts and signals. -/
def Func.quiet (f : Func) : Func :=
  { f with evtTail := 0, evSeq := 0, lost := 0, annNs := none, annDue := false, pba := 0 }

/-- From s to t only records and signals changed. -/
structure Rec (s t : State) : Prop where
  rest : { s with host := t.host, fns := t.fns, msix := t.msix, hal := t.hal, fab := { s.fab with tx := t.fab.tx, inject := t.fab.inject } } = t
  fns  : ∀ n, (getFn t n).quiet = (getFn s n).quiet

theorem Rec.refl (s : State) : Rec s s := ⟨rfl, fun _ => rfl⟩

theorem Rec.trans {s t u : State} (h : Rec s t) (k : Rec t u) : Rec s u := by
  refine ⟨?_, fun n => (k.fns n).trans (h.fns n)⟩
  have h1 := h.rest
  have k1 := k.rest
  rw [← k1, ← h1]

theorem Rec.foldl {α : Type} {f : State → α → State} (hf : ∀ s a, Rec s (f s a)) (l : List α) (s : State) : Rec s (l.foldl f s) := by
  induction l generalizing s with
  | nil => exact .refl s
  | cons a l ih => exact (hf s a).trans (ih _)

theorem Rec.ite {s t u : State} {p : Prop} [Decidable p] (h : Rec s t) (k : Rec s u) : Rec s (if p then t else u) := by
  split
  · exact h
  · exact k

theorem rec_modHal (s : State) (f : Hal → Hal) : Rec s (modHal s f) := ⟨rfl, fun _ => rfl⟩
theorem rec_host (s : State) (h : Cells) : Rec s { s with host := h } := ⟨rfl, fun _ => rfl⟩
theorem rec_msix (s : State) (m : List (Nat × Nat)) : Rec s { s with msix := m } := ⟨rfl, fun _ => rfl⟩
theorem rec_send (s : State) (x : Tx) : Rec s (send s x) := ⟨rfl, fun _ => rfl⟩
theorem rec_post (s : State) (cls : TClass) (c : CtxId) (dst : BitVec 24) (dc : CtxId) (x w : Nat) (bs : List Byte) (y : Says) :
    Rec s (post s cls c dst dc x w bs y) := ⟨rfl, fun _ => rfl⟩

theorem rec_setFn (s : State) (n : CtxId) (g : Func) (h : g.quiet = (getFn s n).quiet) : Rec s (setFn s n g) := by
  refine ⟨rfl, fun m => ?_⟩
  by_cases hm : m = n
  · subst hm; simpa using h
  · rw [getFn_setFn_ne _ _ _ _ hm]

theorem rec_msixSignal (s : State) (n : CtxId) (v : Nat) : Rec s (msixSignal s n v) := by
  unfold msixSignal
  exact .ite (rec_setFn _ _ _ rfl) (rec_msix _ _)

/-- The registers of one function changed in ways that recording may change. -/
theorem rec_modFn (s : State) (n : CtxId) (f : Func → Func) (h : ∀ g, (f g).quiet = g.quiet) : Rec s (modFn s n f) :=
  rec_setFn s n _ (h _)

theorem rec_announce (s : State) (n : CtxId) : Rec s (announce s n) := by
  unfold announce
  dsimp only
  exact .ite ((rec_setFn s n { getFn s n with annNs := some s.clk.mastNs, annDue := false } rfl).trans (rec_msixSignal _ _ _))
    (rec_setFn s n { getFn s n with annDue := true } rfl)

theorem rec_ringWrite (s : State) (n : CtxId) (e : Event) : Rec s (ringWrite s n e) := by
  unfold ringWrite
  dsimp only
  have hd : ∀ l, Rec s (setFn s n { getFn s n with lost := l }) := fun l => rec_setFn s n _ rfl
  refine .ite (.refl s) (.ite (hd _) (.ite (hd _) ?_))
  have h (c : Cells) (a : BitVec 32) (b : BitVec 32) (k : BitVec 16) :
      Rec s (announce (setFn { s with host := c } n { getFn s n with evtTail := a, evSeq := b, lost := k }) n) :=
    ((rec_host s c).trans (rec_setFn { s with host := c } n { getFn s n with evtTail := a, evSeq := b, lost := k } rfl)).trans
      (rec_announce _ n)
  exact .ite ((h _ _ _ _).trans (rec_msixSignal _ _ _)) (h _ _ _ _)

theorem rec_fbAppend (s : State) (typ rows : Nat) (body : List Byte) : Rec s (fbAppend s typ rows body) := by
  unfold fbAppend
  exact Rec.trans (.ite (rec_modHal _ _) (.refl s)) (rec_modHal _ _)

theorem rec_fbInPlace (s : State) (row typ rows : Nat) (body : List Byte) : Rec s (fbInPlace s row typ rows body) := by
  unfold fbInPlace
  dsimp only
  exact rec_modHal _ _

theorem rec_fbCounters (s : State) : Rec s (fbCounters s) := rec_fbInPlace ..

theorem rec_noteOnce (s : State) (code subj len : Nat) : Rec s (noteOnce s code subj len) := rec_modHal _ _

theorem rec_eventOut (s : State) (e : Event) : Rec s (eventOut s e) := by
  unfold eventOut
  have h : Rec s (if eventToBmc e.code then modHal s fun h => { h with alert := h.alert ||| 1 } else s) :=
    .ite (rec_modHal _ _) (.refl s)
  exact .ite h (h.trans (.foldl (fun s n => rec_ringWrite s n e) _ _))

theorem rec_eventLog (s : State) (e : Event) : Rec s (eventLog s e) := by
  unfold eventLog
  split
  · exact .refl s
  · refine .ite ?_ ?_
    · split
      · exact rec_fbAppend ..
      · exact .ite ((rec_modHal _ _).trans (rec_fbCounters _)) ((rec_modHal _ _).trans (rec_fbAppend ..))
    · split
      · exact rec_fbAppend ..
      · exact .ite ((rec_noteOnce ..).trans (rec_fbAppend ..)) (.refl s)

theorem rec_eventMgt (s : State) (e : Event) : Rec s (eventMgt s e) := by
  unfold eventMgt
  exact .ite (rec_post ..) (.refl s)

/-- Raising an event only records and signals. -/
theorem rec_raise (s : State) (e : Event) : Rec s (raise s e) := by
  unfold raise
  exact .ite (rec_modHal _ _)
    (((rec_eventLog s e).trans (rec_eventOut _ e)).trans (rec_eventMgt _ e))

theorem rec_resetRecord (s : State) (domain cause mask start esc : Nat) (oos abandoned : Bool) :
    Rec s (resetRecord s domain cause mask start esc oos abandoned) :=
  ((rec_modHal _ _).trans (rec_fbAppend ..)).trans (rec_fbCounters _)

theorem rec_setReasons (s : State) (reasons : Nat) : Rec s (setReasons s reasons) := by
  unfold setReasons
  have h (t : State) (ht : Rec s t) (a : BitVec 32) : Rec s (if a = t.hal.health then t else fbCounters t) :=
    .ite ht (ht.trans (rec_fbCounters _))
  have k (f : Hal → Hal) := h _ (rec_modHal s f) s.hal.health
  dsimp only
  exact .ite (k _) (((k _).trans (rec_modHal _ _)).trans (rec_raise _ _))

theorem rec_reasonOn (s : State) (n : Nat) : Rec s (reasonOn s n) := (rec_modHal _ _).trans (rec_setReasons _ _)

theorem rec_reasonOff (s : State) (n : Nat) : Rec s (reasonOff s n) := by
  unfold reasonOff
  exact .ite (rec_setReasons _ _) (.refl s)

/-! ### What follows from it, part by part -/

variable {s t : State}

theorem Rec.clk (h : Rec s t) : t.clk = s.clk := by rw [← h.rest]
theorem Rec.pins (h : Rec s t) : t.pins = s.pins := by rw [← h.rest]
theorem Rec.pkg (h : Rec s t) : t.pkg = s.pkg := by rw [← h.rest]
theorem Rec.reef (h : Rec s t) : t.reef = s.reef := by rw [← h.rest]
theorem Rec.ctxs (h : Rec s t) : t.ctxs = s.ctxs := by rw [← h.rest]
theorem Rec.tiles (h : Rec s t) : t.tiles = s.tiles := by rw [← h.rest]
theorem Rec.units (h : Rec s t) : t.units = s.units := by rw [← h.rest]
theorem Rec.mem (h : Rec s t) : t.mem = s.mem := by rw [← h.rest]
theorem Rec.optics (h : Rec s t) : t.optics = s.optics := by rw [← h.rest]
theorem Rec.boot (h : Rec s t) : t.boot = s.boot := by rw [← h.rest]
theorem Rec.mirror (h : Rec s t) : t.mirror = s.mirror := by rw [← h.rest]
theorem Rec.turns (h : Rec s t) : t.turns = s.turns := by rw [← h.rest]
theorem Rec.cpl (h : Rec s t) : t.cpl = s.cpl := by rw [← h.rest]
theorem Rec.freeCtr (h : Rec s t) : t.freeCtr = s.freeCtr := by rw [← h.rest]
theorem Rec.pending (h : Rec s t) : t.pending = s.pending := by rw [← h.rest]
theorem Rec.fab (h : Rec s t) : t.fab = { s.fab with tx := t.fab.tx, inject := t.fab.inject } := by rw [← h.rest]
theorem Rec.getCtx (h : Rec s t) (c : CtxId) : Machine.getCtx t c = Machine.getCtx s c := by simp [Machine.getCtx, h.ctxs]
theorem Rec.getTile (h : Rec s t) (k : Nat) : Machine.getTile t k = Machine.getTile s k := by simp [Machine.getTile, h.tiles]
theorem Rec.getUnit (h : Rec s t) (k : Nat) : Machine.getUnit t k = Machine.getUnit s k := by simp [Machine.getUnit, h.units]
theorem Rec.getPort (h : Rec s t) (k : Nat) : Machine.getPort t k = Machine.getPort s k := by rw [Machine.getPort, h.fab]; rfl
theorem Rec.busy (h : Rec s t) (n : CtxId) : (Machine.getFn t n).busy = (Machine.getFn s n).busy :=
  (congrArg Func.busy (h.fns n) :)
theorem Rec.req (h : Rec s t) (n : CtxId) : (Machine.getFn t n).req = (Machine.getFn s n).req :=
  (congrArg Func.req (h.fns n) :)
theorem Rec.post (h : Rec s t) (n : CtxId) : (Machine.getFn t n).post = (Machine.getFn s n).post :=
  (congrArg Func.post (h.fns n) :)

end Sys2Proof.Machine
end

