-- ==== Sys2Proof/Laws/Mailbox.lean ====
section
/-! SUPPORT. What a mailbox command does, said once: an accepted request runs its body on the posted state and answers; a request
that fails a check of R454 is answered with its status. -/

namespace Sys2Proof.Machine

theorem leBytes_length (n x : Nat) : (leBytes n x).length = n := by
  induction n generalizing x with
  | zero => rfl
  | succ n ih => simp [leBytes, ih]

theorem leNat_leBytes (n x : Nat) : leNat (leBytes n x) = x % 256 ^ n := by
  induction n generalizing x with
  | zero => simp [leBytes, leNat, Nat.mod_one]
  | succ n ih =>
    simp only [leBytes, leNat, ih, BitVec.toNat_ofNat]
    have : x % 256 ^ (n + 1) = x % 256 + 256 * (x / 256 % 256 ^ n) := by
      rw [Nat.pow_succ', Nat.mod_mul]
    omega

theorem leNat_append (a b : List Byte) : leNat (a ++ b) = leNat a + 256 ^ a.length * leNat b := by
  induction a with
  | nil => simp [leNat]
  | cons x r ih => simp [leNat, ih, Nat.pow_succ]; ring

/-- The header read back from the request buffer is the one that was written. -/
theorem recAt_overlay (buf : List Byte) (h : BitVec 128) (p : List Byte) :
    recAt 128 (overlay buf (leBytes 16 h.toNat ++ p)) 0 = h := by
  have : ((overlay buf (leBytes 16 h.toNat ++ p)).drop 0).take 16 = leBytes 16 h.toNat := by
    simp only [overlay, List.drop_zero, List.append_assoc]
    rw [List.take_append_of_le_length (by simp [leBytes_length]), List.take_of_length_le (by simp [leBytes_length])]
  simp only [recAt]
  rw [this, leNat_leBytes]
  apply BitVec.eq_of_toNat_eq
  have := h.isLt
  simp only [BitVec.toNat_ofNat]
  omega

/-- The payload read back from the request buffer is the one that was written. -/
theorem payload_overlay (buf : List Byte) (h : BitVec 128) (p : List Byte) :
    ((overlay buf (leBytes 16 h.toNat ++ p)).drop 16).take p.length = p := by
  have hl := leBytes_length 16 h.toNat
  simp only [overlay, List.append_assoc]
  rw [List.drop_append_of_le_length (by omega), List.drop_of_length_le (by omega)]
  simp

/-- Setting a function's record twice keeps the later value. -/
theorem setFn_setFn (s : State) (n : CtxId) (f g : Func) : setFn (setFn s n f) n g = setFn s n g := by
  simp [setFn, tput_tput]

theorem setCtx_setCtx (s : State) (c : CtxId) (x y : Ctx) : setCtx (setCtx s c x) c y = setCtx s c y := by
  simp [setCtx, tput_tput]

/-- Writing the request and then MBX_POST leaves the request begun; a known opcode is not answered here. -/
theorem begunReq_eq (s : State) (r : Req) (op : Nat) (ho : hdrOp r.header = op) (hk : knownOps.contains op = true) :
    postSeq (modFn s r.fn fun f => { f with req := overlay f.req (leBytes 16 r.header.toNat ++ r.payload) }) r.fn r.post = posted s r := by
  have e : modFn (modFn s r.fn fun f => { f with req := overlay f.req (leBytes 16 r.header.toNat ++ r.payload) }) r.fn
      (fun f => { f with post := r.post, busy := some .posted }) = posted s r := by
    simp [modFn_eq, posted, begunReq, setFn_setFn]
  have hh : recAt 128 (getFn (posted s r) r.fn).req 0 = r.header := by simp [posted, begunReq, recAt_overlay]
  simp only [postSeq, e, answerUnknown, hh, ho, hk]
  simp

/-- An accepted request runs its body on the state in which it stands posted; the answer follows at once or later. -/
theorem mailbox_run (cmd : Cmd) (body : Body) (r : Req) (s : State) (h : Accepts s r cmd.op cmd.len cmd.own cmd.need)
    (hk : knownOps.contains cmd.op = true) :
    mailbox cmd body r s =
      match body (begunReq s r .posted) r.fn (reqCtx r) r.payload with
      | (u, .now a) => answer u r.fn a
      | (u, .later w) => modFn u r.fn fun f => { f with busy := some w } := by
  obtain ⟨⟨hs, hb, hp, ho⟩, hl, hq, hr, hn, hf, hv, hc⟩ := h
  have hh : recAt 128 (getFn (begunReq s r .posted) r.fn).req 0 = r.header := by simp [begunReq, recAt_overlay]
  have hck : checkReq (begunReq s r .posted) r.fn cmd r.header = none := by
    have h1 : ¬ (r.fn ≠ 0 ∧ ((!cmd.own) = true ∨ bit r.header 27 = true)) := by
      rintro ⟨h0, h1⟩
      rcases hf with hf | ⟨ha, hb⟩
      · exact h0 hf
      · simp [ha, hb] at h1
    have h2 : opServed (begunReq s r .posted) cmd.op = opServed s cmd.op := rfl
    have h3 : getCtx (begunReq s r .posted) (hdrCtx r.fn r.header) = getCtx s (reqCtx r) := rfl
    have h4 : (getFn (begunReq s r .posted) r.fn).post = r.post := by simp [begunReq]
    simp only [checkReq, h4, hq, ne_eq, not_true_eq_false, if_false, hr, hn, h2, hv, h3, hc]
    simp only [h1, if_false, Bool.false_eq_true, Bool.not_true]
  have hpl : ((getFn (begunReq s r .posted) r.fn).req.drop 16).take cmd.len = r.payload := by
    rw [← hl]; simp [begunReq, payload_overlay]
  have hrun : mailbox cmd body r s = execReq cmd body (begunReq s r .posted) r.fn := by
    have hre : mbxReached s r.fn = true := by
      simp only [mbxServed, Bool.and_eq_true] at hs; exact hs.1
    have hsv : mbxServed (posted s r) r.fn = true := hs
    have hbz : (getFn (posted s r) r.fn).busy = some .posted := by simp [posted, begunReq]
    have hh' : recAt 128 (getFn (posted s r) r.fn).req 0 = r.header := hh
    have hd : ¬ r.post
        = (getFn (modFn s r.fn fun f => { f with req := overlay f.req (leBytes 16 r.header.toNat ++ r.payload) }) r.fn).done := by
      rw [getFn_modFn_self]; exact hp
    simp only [mailbox, hre, hb, Bool.not_true, Bool.false_eq_true, if_false, if_neg hd, begunReq_eq s r cmd.op ho hk, beginReq, hbz, hsv,
      hh', ho, and_self, if_true]
    rfl
  rw [hrun]
  simp only [execReq, hh, hck, hpl, hl, Nat.sub_self, List.replicate_zero, List.append_nil]
  rfl

/-- The answer of a body that leaves the function's own record as posted. -/
theorem answer_begunReq (s : State) (r : Req) (a : Ans) : answer (begunReq s r .posted) r.fn a = replied s r a.st a.detail a.pay := by
  have hh : recAt 128 (getFn (begunReq s r .posted) r.fn).req 0 = r.header := by simp [begunReq, recAt_overlay]
  simp only [answer, answerHdr, hh]
  simp only [begunReq, getFn_setFn_self, setFn_setFn]
  rfl

/-- The whole command when its body answers at once. -/
theorem mailbox_now (cmd : Cmd) (body : Body) (r : Req) (s : State) (h : Accepts s r cmd.op cmd.len cmd.own cmd.need)
    (hk : knownOps.contains cmd.op = true) (u : State) (a : Ans) (hb : body (posted s r) r.fn (reqCtx r) r.payload = (u, .now a)) : mailbox cmd body r s = answer u r.fn a := by
  rw [mailbox_run cmd body r s h hk]
  change (match body (posted s r) r.fn (reqCtx r) r.payload with | (u, .now a) => _ | (u, .later w) => _) = _
  rw [hb]

/-- The whole command when its body leaves the answer for later. -/
theorem mailbox_later (cmd : Cmd) (body : Body) (r : Req) (s : State) (h : Accepts s r cmd.op cmd.len cmd.own cmd.need)
    (hk : knownOps.contains cmd.op = true) (u : State) (w : Wait) (hb : body (posted s r) r.fn (reqCtx r) r.payload = (u, .later w)) : mailbox cmd body r s = waits r w u := by
  rw [mailbox_run cmd body r s h hk]
  change (match body (posted s r) r.fn (reqCtx r) r.payload with | (u, .now a) => _ | (u, .later w) => _) = _
  rw [hb]
  rfl

theorem firstBad_none {cs : List Chk} (h : ∀ c ∈ cs, c.2.1 = false) : firstBad cs = none := by
  simp only [firstBad, Option.map_eq_none_iff, List.find?_eq_none]
  intro x hx
  simp [h x hx]

/-- A body whose checks all pass goes on. -/
theorem checked_ok {s : State} {cs : List Chk} {k : State × Reply} (h : ∀ c ∈ cs, c.2.1 = false) : checked s cs k = k := by
  simp [checked, firstBad_none h]

/-- With a command begun and not answered, another post of the function is lost (R452). -/
theorem mailbox_busy (cmd : Cmd) (body : Body) (r : Req) (s : State) (w : Wait) (h : (getFn s r.fn).busy = some w)
    (hw : w ≠ .posted) : mailbox cmd body r s = s := by
  simp [mailbox, h, beginReq, hw]

/-- A whole post of the value that MBX_DONE holds writes the request buffer and posts nothing (R452). -/
theorem mailbox_done (cmd : Cmd) (body : Body) (r : Req) (s : State) (hr : mbxReached s r.fn = true) (h : (getFn s r.fn).busy = none)
    (hd : r.post = (getFn s r.fn).done) :
    mailbox cmd body r s = modFn s r.fn fun f => { f with req := overlay f.req (leBytes 16 r.header.toNat ++ r.payload) } := by
  simp [mailbox, hr, h, hd]

end Sys2Proof.Machine
end

