-- ==== Sys2Proof/Laws/Memory.lean ====
section
/-! SUPPORT. Memory: every operation that writes it keeps its canonical form and says which bytes it changes; reading and translating
change no byte. -/

namespace Sys2Proof.Machine

/-! ### The canonical form -/

theorem memWrite_wf (s : State) (a : Nat) (bs : List Byte) (h : s.mem.wf = true) : (memWrite s a bs).mem.wf = true :=
  cwrite_wf _ a bs h

theorem memZero_wf (s : State) (a n : Nat) (h : s.mem.wf = true) : (memZero s a n).mem.wf = true :=
  cclear_wf _ a n h

theorem reset_mem_wf : State.reset.mem.wf = true := rfl

/-! ### Which bytes change -/

theorem byteAt_memWrite_out (s : State) (a : Nat) (bs : List Byte) (x : Nat) (h : x < a ∨ a + bs.length ≤ x) :
    byteAt (memWrite s a bs) x = byteAt s x :=
  cget_cwrite_out _ a bs x h

theorem byteAt_memWrite_in (s : State) (a : Nat) (bs : List Byte) (k : Nat) (h : k < bs.length) :
    byteAt (memWrite s a bs) (a + k) = bs.getD k 0 :=
  cget_cwrite_in _ a bs k h

theorem byteAt_memZero_out (s : State) (a n x : Nat) (h : x < a ∨ a + n ≤ x) : byteAt (memZero s a n) x = byteAt s x :=
  cget_cclear_out _ a n x h

theorem byteAt_memZero_in (s : State) (a n x : Nat) (h : a ≤ x ∧ x < a + n) : byteAt (memZero s a n) x = 0 :=
  cget_cclear_in _ a n x h

/-! ### Translation looks at the pins and nothing else of the state -/

theorem xlate_pins {s t : State} (h : t.pins = s.pins) (x : Ctx) (ret : BitVec 512) (va : Nat) : xlate t x ret va = xlate s x ret va := by
  simp [xlate, ownWindow, h]

theorem isLocal_pins {s t : State} (h : t.pins = s.pins) (b : Nat) : isLocal t b = isLocal s b := by simp [isLocal, h]

theorem rangeOk_pins {s t : State} (h : t.pins = s.pins) (x : Ctx) (ret : BitVec 512) (wr peers : Bool) (va n : Nat) :
    rangeOk t x ret wr peers va n = rangeOk s x ret wr peers va n := by
  unfold rangeOk
  generalize n / 4096 + 2 = fuel
  induction fuel generalizing va n with
  | zero => rfl
  | succ k ih => simp only [rangeOkGo, xlate_pins h, isLocal_pins h, ih]

end Sys2Proof.Machine
end

