-- ==== Sys2Proof/Laws/PerInstr.lean ====
section
/-! SUPPORT. Per constructor of Instr: a well-formed command that is a mailbox row carries a request of that row's opcode, whose
payload fits the request buffer (R451, Table 12.8); a command of any other kind carries none. -/

namespace Sys2Proof.Laws

open Sys2Proof.Machine

/-- What a command carries to a mailbox fits the row it stands for. -/
def Carries.Statement (i : Instr) : Prop :=
  i.wf = true → ∀ cmd r, mailRow i = some (cmd, r) → hdrOp r.header = cmd.op ∧ r.payload.length ≤ 4080

theorem req_carries {r : Req} {op : Nat} (h : r.wf op = true) : hdrOp r.header = op ∧ r.payload.length ≤ 4080 := by
  simp only [Req.wf, Bool.and_eq_true, decide_eq_true_eq, beq_iff_eq] at h
  exact ⟨h.2, h.1⟩

theorem carries_none {i : Instr} (h : mailRow i = none) : Carries.Statement i := fun _ cmd r e => by rw [h] at e; cases e

theorem carries_mail {i : Instr} {cmd : Cmd} {r : Req} (h : mailRow i = some (cmd, r)) (w : i.wf = true → r.wf cmd.op = true) :
    Carries.Statement i := fun hw cmd' r' e => by
  rw [h] at e
  cases e
  exact req_carries (w hw)

theorem Carries.ctxCreate (r : Req) : Carries.Statement (.ctxCreate r) := carries_mail rfl id
theorem Carries.ctxDestroy (r : Req) : Carries.Statement (.ctxDestroy r) := carries_mail rfl id
theorem Carries.ctxReset (r : Req) : Carries.Statement (.ctxReset r) := carries_mail rfl id
theorem Carries.ctxAllot (r : Req) : Carries.Statement (.ctxAllot r) := carries_mail rfl id
theorem Carries.ctxQuery (r : Req) : Carries.Statement (.ctxQuery r) := carries_mail rfl id
theorem Carries.setSrSeed (r : Req) : Carries.Statement (.setSrSeed r) := carries_mail rfl id
theorem Carries.setSparse (r : Req) : Carries.Statement (.setSparse r) := carries_mail rfl id
theorem Carries.map (r : Req) : Carries.Statement (.map r) := carries_mail rfl id
theorem Carries.unmap (r : Req) : Carries.Statement (.unmap r) := carries_mail rfl id
theorem Carries.unmapDrainComplete (c : CtxId) : Carries.Statement (.unmapDrainComplete c) := carries_none rfl
theorem Carries.unmapRangeBusy (c : CtxId) : Carries.Statement (.unmapRangeBusy c) := carries_none rfl
theorem Carries.grant (r : Req) : Carries.Statement (.grant r) := carries_mail rfl id
theorem Carries.revoke (r : Req) : Carries.Statement (.revoke r) := carries_mail rfl id
theorem Carries.bar2Cfg (r : Req) : Carries.Statement (.bar2Cfg r) := carries_mail rfl id
theorem Carries.remapApply (r : Req) : Carries.Statement (.remapApply r) := carries_mail rfl id
theorem Carries.loadProgram (r : Req) : Carries.Statement (.loadProgram r) := carries_mail rfl id
theorem Carries.loadSlotlib (r : Req) : Carries.Statement (.loadSlotlib r) := carries_mail rfl id
theorem Carries.loadRecipes (r : Req) : Carries.Statement (.loadRecipes r) := carries_mail rfl id
theorem Carries.loadRetention (r : Req) : Carries.Statement (.loadRetention r) := carries_mail rfl id
theorem Carries.loadDispatch (r : Req) : Carries.Statement (.loadDispatch r) := carries_mail rfl id
theorem Carries.loadUpdate (r : Req) : Carries.Statement (.loadUpdate r) := carries_mail rfl id
theorem Carries.run (r : Req) : Carries.Statement (.run r) := carries_mail rfl id
theorem Carries.stop (r : Req) : Carries.Statement (.stop r) := carries_mail rfl id
theorem Carries.swap (r : Req) : Carries.Statement (.swap r) := carries_mail rfl id
theorem Carries.withdraw (r : Req) : Carries.Statement (.withdraw r) := carries_mail rfl id
theorem Carries.slipClear (r : Req) : Carries.Statement (.slipClear r) := carries_mail rfl id
theorem Carries.phaseExport (r : Req) : Carries.Statement (.phaseExport r) := carries_mail rfl id
theorem Carries.planWrite (r : Req) : Carries.Statement (.planWrite r) := carries_mail rfl id
theorem Carries.setpointWrite (r : Req) : Carries.Statement (.setpointWrite r) := carries_mail rfl id
theorem Carries.planSwap (r : Req) (staged : Bool) : Carries.Statement (.planSwap r staged) := carries_mail rfl id
theorem Carries.planWithdraw (r : Req) : Carries.Statement (.planWithdraw r) := carries_mail rfl id
theorem Carries.reefWrite (r : Req) : Carries.Statement (.reefWrite r) := carries_mail rfl id
theorem Carries.reefSwap (r : Req) : Carries.Statement (.reefSwap r) := carries_mail rfl id
theorem Carries.escWrite (r : Req) : Carries.Statement (.escWrite r) := carries_mail rfl id
theorem Carries.reefFloor (r : Req) : Carries.Statement (.reefFloor r) := carries_mail rfl id
theorem Carries.fence (r : Req) : Carries.Statement (.fence r) := carries_mail rfl id
theorem Carries.unfence (r : Req) : Carries.Statement (.unfence r) := carries_mail rfl id
theorem Carries.lease (r : Req) : Carries.Statement (.lease r) := carries_mail rfl id
theorem Carries.eventRing (r : Req) : Carries.Statement (.eventRing r) := carries_mail rfl id
theorem Carries.dump (r : Req) : Carries.Statement (.dump r) := carries_mail rfl id
theorem Carries.dumpRelease (r : Req) : Carries.Statement (.dumpRelease r) := carries_mail rfl id
theorem Carries.trace (r : Req) : Carries.Statement (.trace r) := carries_mail rfl id
theorem Carries.loopReset (r : Req) : Carries.Statement (.loopReset r) := carries_mail rfl id
theorem Carries.computeReset (r : Req) : Carries.Statement (.computeReset r) := carries_mail rfl id
theorem Carries.returnToService (r : Req) : Carries.Statement (.returnToService r) := carries_mail rfl id
theorem Carries.fwWrite (r : Req) : Carries.Statement (.fwWrite r) := carries_mail rfl id
theorem Carries.fwCommit (r : Req) : Carries.Statement (.fwCommit r) := carries_mail rfl id
theorem Carries.fwCommitted : Carries.Statement .fwCommitted := carries_none rfl
theorem Carries.fwStatus (r : Req) : Carries.Statement (.fwStatus r) := carries_mail rfl id
theorem Carries.attest (r : Req) : Carries.Statement (.attest r) := carries_mail rfl id
theorem Carries.certRead (r : Req) : Carries.Statement (.certRead r) := carries_mail rfl id
theorem Carries.lcLifeRead (r : Req) : Carries.Statement (.lcLifeRead r) := carries_mail rfl id
theorem Carries.lcSwap (r : Req) : Carries.Statement (.lcSwap r) := carries_mail rfl id
theorem Carries.lcRecommission (r : Req) (taps : List (Nat × BitVec 16)) : Carries.Statement (.lcRecommission r taps) := carries_mail rfl (fun h => (Bool.and_eq_true_iff.1 h).1)
theorem Carries.lcPowerRetry (r : Req) (e : PowerEnv) : Carries.Statement (.lcPowerRetry r e) := carries_mail rfl (fun h => (Bool.and_eq_true_iff.1 h).1)
theorem Carries.fbCopy (r : Req) : Carries.Statement (.fbCopy r) := carries_mail rfl id
theorem Carries.dumpCopy (r : Req) : Carries.Statement (.dumpCopy r) := carries_mail rfl id
theorem Carries.evtHeadWrite (fn : CtxId) (v : BitVec 32) : Carries.Statement (.evtHeadWrite fn v) := carries_none rfl
theorem Carries.registerWrite (fn : CtxId) (off : Nat) (data : List Byte) : Carries.Statement (.registerWrite fn off data) := carries_none rfl
theorem Carries.bar2Read (fn : CtxId) (off : Nat) (len : Nat) : Carries.Statement (.bar2Read fn off len) := carries_none rfl
theorem Carries.bar2Write (fn : CtxId) (off : Nat) (data : List Byte) : Carries.Statement (.bar2Write fn off data) := carries_none rfl
theorem Carries.smbBmcCapWrite (data : List Byte) (pecOk : Bool) : Carries.Statement (.smbBmcCapWrite data pecOk) := carries_none rfl
theorem Carries.smbReefPolWrite (data : List Byte) (pecOk : Bool) : Carries.Statement (.smbReefPolWrite data pecOk) := carries_none rfl
theorem Carries.smbReefSwap (data : List Byte) (pecOk : Bool) : Carries.Statement (.smbReefSwap data pecOk) := carries_none rfl
theorem Carries.smbAlertSrcWrite (data : List Byte) (pecOk : Bool) : Carries.Statement (.smbAlertSrcWrite data pecOk) := carries_none rfl
theorem Carries.smbAlertResponse : Carries.Statement .smbAlertResponse := carries_none rfl
theorem Carries.idcode : Carries.Statement .idcode := carries_none rfl
theorem Carries.bypass (tdi : List Bool) : Carries.Statement (.bypass tdi) := carries_none rfl
theorem Carries.samplePreload (lands : List Bool) : Carries.Statement (.samplePreload lands) := carries_none rfl
theorem Carries.extest (lands : List Bool) : Carries.Statement (.extest lands) := carries_none rfl
theorem Carries.doeDiscovery (index : Byte) : Carries.Statement (.doeDiscovery index) := carries_none rfl
theorem Carries.getVersion : Carries.Statement .getVersion := carries_none rfl
theorem Carries.getCapabilities : Carries.Statement .getCapabilities := carries_none rfl
theorem Carries.negotiateAlgorithms (ecdsaP256 sha256 : Bool) : Carries.Statement (.negotiateAlgorithms ecdsaP256 sha256) := carries_none rfl
theorem Carries.getDigests : Carries.Statement .getDigests := carries_none rfl
theorem Carries.getCertificate (slot : Nat) (off len : Nat) : Carries.Statement (.getCertificate slot off len) := carries_none rfl
theorem Carries.challenge (slot : Nat) (nonce : BitVec 256) : Carries.Statement (.challenge slot nonce) := carries_none rfl
theorem Carries.getMeasurements (index : Nat) (nonce : BitVec 256) : Carries.Statement (.getMeasurements index nonce) := carries_none rfl
theorem Carries.vfFlr (fn : CtxId) : Carries.Statement (.vfFlr fn) := carries_none rfl
theorem Carries.pfFlr : Carries.Statement .pfFlr := carries_none rfl
theorem Carries.pcieLinkLoss : Carries.Statement .pcieLinkLoss := carries_none rfl
theorem Carries.pcieLinkReturn : Carries.Statement .pcieLinkReturn := carries_none rfl
theorem Carries.numvfsChange (n : CtxId) : Carries.Statement (.numvfsChange n) := carries_none rfl
theorem Carries.barResize (fn : CtxId) (log2Size : Nat) : Carries.Statement (.barResize fn log2Size) := carries_none rfl
theorem Carries.perstNAssert : Carries.Statement .perstNAssert := carries_none rfl
theorem Carries.perstNDeassert (e : BootEnv) : Carries.Statement (.perstNDeassert e) := carries_none rfl
theorem Carries.pwrgdMastDeassert (sramKept : Bool) : Carries.Statement (.pwrgdMastDeassert sramKept) := carries_none rfl
theorem Carries.pwrgdAuxDeassert : Carries.Statement .pwrgdAuxDeassert := carries_none rfl
theorem Carries.pwrgdCoreDeassert : Carries.Statement .pwrgdCoreDeassert := carries_none rfl
theorem Carries.pwrBrakeNAssert : Carries.Statement .pwrBrakeNAssert := carries_none rfl
theorem Carries.pwrBrakeNDeassert : Carries.Statement .pwrBrakeNDeassert := carries_none rfl
theorem Carries.testNLow : Carries.Statement .testNLow := carries_none rfl
theorem Carries.cartridgeRemoved : Carries.Statement .cartridgeRemoved := carries_none rfl
theorem Carries.cartridgeInserted (e : CartEnv) : Carries.Statement (.cartridgeInserted e) := carries_none rfl
theorem Carries.lcFault : Carries.Statement .lcFault := carries_none rfl
theorem Carries.lineFailed (line : Fin 32) : Carries.Statement (.lineFailed line) := carries_none rfl
theorem Carries.beatBoundary (c : CtxId) (fetched : Bool) : Carries.Statement (.beatBoundary c fetched) := carries_none rfl
theorem Carries.hang (c : CtxId) : Carries.Statement (.hang c) := carries_none rfl
theorem Carries.gate (c : CtxId) (w : BitVec 128) : Carries.Statement (.gate c w) := carries_none rfl
theorem Carries.tokenAdd (c : CtxId) (w : BitVec 128) : Carries.Statement (.tokenAdd c w) := carries_none rfl
theorem Carries.tokenSet (c : CtxId) (w : BitVec 128) : Carries.Statement (.tokenSet c w) := carries_none rfl
theorem Carries.creditReturn (c : CtxId) (w : BitVec 128) : Carries.Statement (.creditReturn c w) := carries_none rfl
theorem Carries.creditSet (c : CtxId) (w : BitVec 128) : Carries.Statement (.creditSet c w) := carries_none rfl
theorem Carries.countSet (c : CtxId) (w : BitVec 128) : Carries.Statement (.countSet c w) := carries_none rfl
theorem Carries.mac (o : TileOp) : Carries.Statement (.mac o) := carries_none rfl
theorem Carries.macTransposed (o : TileOp) : Carries.Statement (.macTransposed o) := carries_none rfl
theorem Carries.drain (o : TileOp) : Carries.Statement (.drain o) := carries_none rfl
theorem Carries.clear (o : TileOp) : Carries.Statement (.clear o) := carries_none rfl
theorem Carries.txopLoad (o : TileOp) : Carries.Statement (.txopLoad o) := carries_none rfl
theorem Carries.meshSend (o : TileOp) : Carries.Statement (.meshSend o) := carries_none rfl
theorem Carries.meshRowSend (o : TileOp) : Carries.Statement (.meshRowSend o) := carries_none rfl
theorem Carries.meshColumnSend (o : TileOp) : Carries.Statement (.meshColumnSend o) := carries_none rfl
theorem Carries.meshArrival (c : CtxId) : Carries.Statement (.meshArrival c) := carries_none rfl
theorem Carries.vxAdd (o : TileOp) : Carries.Statement (.vxAdd o) := carries_none rfl
theorem Carries.vxMul (o : TileOp) : Carries.Statement (.vxMul o) := carries_none rfl
theorem Carries.vxFma (o : TileOp) : Carries.Statement (.vxFma o) := carries_none rfl
theorem Carries.vxMax (o : TileOp) : Carries.Statement (.vxMax o) := carries_none rfl
theorem Carries.vxMin (o : TileOp) : Carries.Statement (.vxMin o) := carries_none rfl
theorem Carries.vxExp2 (o : TileOp) : Carries.Statement (.vxExp2 o) := carries_none rfl
theorem Carries.vxRsqrt (o : TileOp) : Carries.Statement (.vxRsqrt o) := carries_none rfl
theorem Carries.vxRecip (o : TileOp) : Carries.Statement (.vxRecip o) := carries_none rfl
theorem Carries.vxCvt (o : TileOp) : Carries.Statement (.vxCvt o) := carries_none rfl
theorem Carries.vxLaneSum (o : TileOp) : Carries.Statement (.vxLaneSum o) := carries_none rfl
theorem Carries.vxLaneMax (o : TileOp) : Carries.Statement (.vxLaneMax o) := carries_none rfl
theorem Carries.vxMaskedSelect (o : TileOp) : Carries.Statement (.vxMaskedSelect o) := carries_none rfl
theorem Carries.moveCopy (c : CtxId) (m : Fin 48) : Carries.Statement (.moveCopy c m) := carries_none rfl
theorem Carries.moveStrided (c : CtxId) (m : Fin 48) : Carries.Statement (.moveStrided c m) := carries_none rfl
theorem Carries.moveGather (c : CtxId) (m : Fin 48) : Carries.Statement (.moveGather c m) := carries_none rfl
theorem Carries.moveScatter (c : CtxId) (m : Fin 48) : Carries.Statement (.moveScatter c m) := carries_none rfl
theorem Carries.moveTransposingCopy (c : CtxId) (m : Fin 48) : Carries.Statement (.moveTransposingCopy c m) := carries_none rfl
theorem Carries.moveDone (c : CtxId) (m : Fin 48) : Carries.Statement (.moveDone c m) := carries_none rfl
theorem Carries.put (c : CtxId) (e : Fin 2) : Carries.Statement (.put c e) := carries_none rfl
theorem Carries.csend (c : CtxId) (e : Fin 2) : Carries.Statement (.csend c e) := carries_none rfl
theorem Carries.putArrival (x : InXfer) : Carries.Statement (.putArrival x) := carries_none rfl
theorem Carries.acknowledgement (c : CtxId) (e : Fin 2) (a : Acked) : Carries.Statement (.acknowledgement c e a) := carries_none rfl
theorem Carries.nak (c : CtxId) (e : Fin 2) (xfer : Nat) (kind : Nat) (coll : Option (BitVec 64 × Nat)) : Carries.Statement (.nak c e xfer kind coll) := carries_none rfl
theorem Carries.linkTimeout (c : CtxId) (e : Fin 2) (xfer : Nat) : Carries.Statement (.linkTimeout c e xfer) := carries_none rfl
theorem Carries.close (c : CtxId) (srcSta : BitVec 24) (srcCtx : CtxId) (xfer : Nat) : Carries.Statement (.close c srcSta srcCtx xfer) := carries_none rfl
theorem Carries.updateRequest (c : CtxId) (u : Fin 24) : Carries.Statement (.updateRequest c u) := carries_none rfl
theorem Carries.updateRaiseOnly (c : CtxId) (u : Fin 24) : Carries.Statement (.updateRaiseOnly c u) := carries_none rfl
theorem Carries.updateDone (c : CtxId) (u : Fin 24) : Carries.Statement (.updateDone c u) := carries_none rfl
theorem Carries.updAdd (u : Fin 24) (w : BitVec 32) : Carries.Statement (.updAdd u w) := carries_none rfl
theorem Carries.updSub (u : Fin 24) (w : BitVec 32) : Carries.Statement (.updSub u w) := carries_none rfl
theorem Carries.updMul (u : Fin 24) (w : BitVec 32) : Carries.Statement (.updMul u w) := carries_none rfl
theorem Carries.updFma (u : Fin 24) (w : BitVec 32) : Carries.Statement (.updFma u w) := carries_none rfl
theorem Carries.updMax (u : Fin 24) (w : BitVec 32) : Carries.Statement (.updMax u w) := carries_none rfl
theorem Carries.updMin (u : Fin 24) (w : BitVec 32) : Carries.Statement (.updMin u w) := carries_none rfl
theorem Carries.updAbs (u : Fin 24) (w : BitVec 32) : Carries.Statement (.updAbs u w) := carries_none rfl
theorem Carries.updSqrt (u : Fin 24) (w : BitVec 32) : Carries.Statement (.updSqrt u w) := carries_none rfl
theorem Carries.updRsqrt (u : Fin 24) (w : BitVec 32) : Carries.Statement (.updRsqrt u w) := carries_none rfl
theorem Carries.updRecip (u : Fin 24) (w : BitVec 32) : Carries.Statement (.updRecip u w) := carries_none rfl
theorem Carries.updExp2 (u : Fin 24) (w : BitVec 32) : Carries.Statement (.updExp2 u w) := carries_none rfl
theorem Carries.updSel (u : Fin 24) (w : BitVec 32) : Carries.Statement (.updSel u w) := carries_none rfl
theorem Carries.updNfcls (u : Fin 24) (w : BitVec 32) : Carries.Statement (.updNfcls u w) := carries_none rfl
theorem Carries.updMov (u : Fin 24) (w : BitVec 32) : Carries.Statement (.updMov u w) := carries_none rfl
theorem Carries.updSqacc (u : Fin 24) (w : BitVec 32) : Carries.Statement (.updSqacc u w) := carries_none rfl
theorem Carries.updSumacc (u : Fin 24) (w : BitVec 32) : Carries.Statement (.updSumacc u w) := carries_none rfl
theorem Carries.updAccrd (u : Fin 24) (w : BitVec 32) : Carries.Statement (.updAccrd u w) := carries_none rfl
theorem Carries.updLd (u : Fin 24) (w : BitVec 32) : Carries.Statement (.updLd u w) := carries_none rfl
theorem Carries.updSt (u : Fin 24) (w : BitVec 32) : Carries.Statement (.updSt u w) := carries_none rfl
theorem Carries.updEnd (u : Fin 24) (w : BitVec 32) : Carries.Statement (.updEnd u w) := carries_none rfl
theorem Carries.topkRoute (c : CtxId) (e : Fin 2) : Carries.Statement (.topkRoute c e) := carries_none rfl
theorem Carries.bitmapList (c : CtxId) (e : Fin 2) : Carries.Statement (.bitmapList c e) := carries_none rfl
theorem Carries.countSum (c : CtxId) (e : Fin 2) : Carries.Statement (.countSum c e) := carries_none rfl
theorem Carries.flagCount (c : CtxId) (e : Fin 2) : Carries.Statement (.flagCount c e) := carries_none rfl
theorem Carries.dispatchDone (c : CtxId) (e : Fin 2) : Carries.Statement (.dispatchDone c e) := carries_none rfl
theorem Carries.allReduce (c : CtxId) (e : Fin 2) : Carries.Statement (.allReduce c e) := carries_none rfl
theorem Carries.reduceScatter (c : CtxId) (e : Fin 2) : Carries.Statement (.reduceScatter c e) := carries_none rfl
theorem Carries.allGather (c : CtxId) (e : Fin 2) : Carries.Statement (.allGather c e) := carries_none rfl
theorem Carries.broadcast (c : CtxId) (e : Fin 2) : Carries.Statement (.broadcast c e) := carries_none rfl
theorem Carries.allToAllRagged (c : CtxId) (e : Fin 2) : Carries.Statement (.allToAllRagged c e) := carries_none rfl
theorem Carries.countsExchanged (c : CtxId) (e : Fin 2) (hash : BitVec 64) (seq : Nat) (counts : List SendCount) : Carries.Statement (.countsExchanged c e hash seq counts) := carries_none rfl
theorem Carries.permute (c : CtxId) (e : Fin 2) : Carries.Statement (.permute c e) := carries_none rfl
theorem Carries.collSegmentGrant (g : CollGrant) : Carries.Statement (.collSegmentGrant g) := carries_none rfl
theorem Carries.collPieceArrival (p : Piece) : Carries.Statement (.collPieceArrival p) := carries_none rfl
theorem Carries.collDone (c : CtxId) (e : Fin 2) (hash : BitVec 64) (seq : Nat) : Carries.Statement (.collDone c e hash seq) := carries_none rfl
theorem Carries.contextClosed (c : CtxId) (e : Fin 2) (hash : BitVec 64) (seq : Nat) (srcSta : BitVec 24) (srcCtx : CtxId) : Carries.Statement (.contextClosed c e hash seq srcSta srcCtx) := carries_none rfl
theorem Carries.peerReq (q : PeerQ) : Carries.Statement (.peerReq q) := carries_none rfl
theorem Carries.peerRsp (c : CtxId) (m : Fin 48) (h : RspHead) (data : List Byte) : Carries.Statement (.peerRsp c m h data) := carries_none rfl
theorem Carries.packetForward (port : Fin 15) (p : Packet) : Carries.Statement (.packetForward port p) := carries_none rfl
theorem Carries.colChunkArrival (port : Fin 15) (k : Chunk) : Carries.Statement (.colChunkArrival port k) := carries_none rfl
theorem Carries.headerCodeword (port : Fin 15) (h : Header) : Carries.Statement (.headerCodeword port h) := carries_none rfl
theorem Carries.headerOnlyPacket (peer : Fin 7) : Carries.Statement (.headerOnlyPacket peer) := carries_none rfl
theorem Carries.discoveryTraverse (port : Fin 15) : Carries.Statement (.discoveryTraverse port) := carries_none rfl
theorem Carries.discRec (port : Fin 15) (rec : BitVec 256) (delayNs : Nat) : Carries.Statement (.discRec port rec delayNs) := carries_none rfl
theorem Carries.swapNotice (port : Fin 15) (n : Notice) : Carries.Statement (.swapNotice port n) := carries_none rfl
theorem Carries.mgtLease (rec : BitVec 256) : Carries.Statement (.mgtLease rec) := carries_none rfl
theorem Carries.mgtFence : Carries.Statement .mgtFence := carries_none rfl
theorem Carries.mgtReefFloor (level : Nat) (ms : Nat) : Carries.Statement (.mgtReefFloor level ms) := carries_none rfl
theorem Carries.leaseExpired : Carries.Statement .leaseExpired := carries_none rfl
theorem Carries.planEpoch : Carries.Statement .planEpoch := carries_none rfl
theorem Carries.shroudPeerTimeout (peer : Fin 7) : Carries.Statement (.shroudPeerTimeout peer) := carries_none rfl
theorem Carries.neighbourNotFound (port : Fin 15) : Carries.Statement (.neighbourNotFound port) := carries_none rfl
theorem Carries.transect (m : List PortMeas) : Carries.Statement (.transect m) := carries_none rfl
theorem Carries.stayLightDetected (port : Fin 8) : Carries.Statement (.stayLightDetected port) := carries_none rfl
theorem Carries.stayAcquired (port : Fin 8) : Carries.Statement (.stayAcquired port) := carries_none rfl
theorem Carries.noLock (port : Fin 8) : Carries.Statement (.noLock port) := carries_none rfl
theorem Carries.stayLightLost (port : Fin 8) : Carries.Statement (.stayLightLost port) := carries_none rfl
theorem Carries.laserSwapTimeout (port : Fin 8) : Carries.Statement (.laserSwapTimeout port) := carries_none rfl
theorem Carries.lightRotationRound : Carries.Statement .lightRotationRound := carries_none rfl
theorem Carries.loopPeakFound (die : Fin 2) (loop : Nat) (peak : Nat) : Carries.Statement (.loopPeakFound die loop peak) := carries_none rfl
theorem Carries.loopSweepExhausted (die : Fin 2) (loop : Nat) : Carries.Statement (.loopSweepExhausted die loop) := carries_none rfl
theorem Carries.loopLockBandMet (die : Fin 2) (loop : Nat) : Carries.Statement (.loopLockBandMet die loop) := carries_none rfl
theorem Carries.loopAcquireTimeout (die : Fin 2) (loop : Nat) : Carries.Statement (.loopAcquireTimeout die loop) := carries_none rfl
theorem Carries.loopVerifyDone (die : Fin 2) (loop : Nat) (amps : List Int) (metric : Bool) : Carries.Statement (.loopVerifyDone die loop amps metric) := carries_none rfl
theorem Carries.loopPilotCheck (die : Fin 2) (loop : Nat) (amps : List Int) : Carries.Statement (.loopPilotCheck die loop amps) := carries_none rfl
theorem Carries.loopLockLost (die : Fin 2) (loop : Nat) : Carries.Statement (.loopLockLost die loop) := carries_none rfl
theorem Carries.loopLightLost (die : Fin 2) (loop : Nat) (temp : Nat) : Carries.Statement (.loopLightLost die loop temp) := carries_none rfl
theorem Carries.loopLightReturn (die : Fin 2) (loop : Nat) (inBand : Bool) (temp : Nat) : Carries.Statement (.loopLightReturn die loop inBand temp) := carries_none rfl
theorem Carries.lcLinePoll (readings : List (BitVec 128)) : Carries.Statement (.lcLinePoll readings) := carries_none rfl
theorem Carries.fadeTest : Carries.Statement .fadeTest := carries_none rfl
theorem Carries.spareTuned (role : Fin 24) (e : LockerEnv) : Carries.Statement (.spareTuned role e) := carries_none rfl
theorem Carries.swapSlot (role : Fin 24) : Carries.Statement (.swapSlot role) := carries_none rfl
theorem Carries.commissioning (line : Fin 32) (tap : BitVec 16) : Carries.Statement (.commissioning line tap) := carries_none rfl
theorem Carries.caseTemperatureCheck (temp : Nat) : Carries.Statement (.caseTemperatureCheck temp) := carries_none rfl
theorem Carries.intervalBoundary (e : IntervalEnv) : Carries.Statement (.intervalBoundary e) := carries_none rfl
theorem Carries.calibration (ratioMilli : Nat) : Carries.Statement (.calibration ratioMilli) := carries_none rfl
theorem Carries.calStale : Carries.Statement .calStale := carries_none rfl
theorem Carries.dvfsStepChange (target : Fin 5) : Carries.Statement (.dvfsStepChange target) := carries_none rfl
theorem Carries.droop (die : Fin 2) (threshold : Fin 5) : Carries.Statement (.droop die threshold) := carries_none rfl
theorem Carries.droopSustained : Carries.Statement .droopSustained := carries_none rfl
theorem Carries.marginTrim (e : List TrimEnv) : Carries.Statement (.marginTrim e) := carries_none rfl
theorem Carries.partitionFloorExpiry : Carries.Statement .partitionFloorExpiry := carries_none rfl
theorem Carries.patrolScrubRead (addr : BitVec 40) (upset : List (Nat × Byte)) (pass : Nat) : Carries.Statement (.patrolScrubRead addr upset pass) := carries_none rfl
theorem Carries.contextResetDone (c : CtxId) : Carries.Statement (.contextResetDone c) := carries_none rfl
theorem Carries.teardownStuck (c : CtxId) : Carries.Statement (.teardownStuck c) := carries_none rfl
theorem Carries.computeResetDone : Carries.Statement .computeResetDone := carries_none rfl
theorem Carries.halyardRestart (memErr : Bool) : Carries.Statement (.halyardRestart memErr) := carries_none rfl
theorem Carries.trimRestart (die : Fin 2) : Carries.Statement (.trimRestart die) := carries_none rfl
theorem Carries.fieldBookFlush : Carries.Statement .fieldBookFlush := carries_none rfl
theorem Carries.healthReasonClear (n : Fin 15) : Carries.Statement (.healthReasonClear n) := carries_none rfl
theorem Carries.msixModeration (fn : CtxId) : Carries.Statement (.msixModeration fn) := carries_none rfl
theorem Carries.planSlotAdvance : Carries.Statement .planSlotAdvance := carries_none rfl
theorem Carries.equaliserStateStale (peer : Fin 7) (lane : Fin 16) : Carries.Statement (.equaliserStateStale peer lane) := carries_none rfl
theorem Carries.powerUp : Carries.Statement .powerUp := carries_none rfl
theorem Carries.lcFaultNHigh (e : PowerEnv) : Carries.Statement (.lcFaultNHigh e) := carries_none rfl
theorem Carries.droopStretchFall : Carries.Statement .droopStretchFall := carries_none rfl

end Sys2Proof.Laws
end

