-- ==== Sys2Proof/Machine/Regs.lean ====
section
/-! DEFINITION. What reads of the package's registers answer: configuration identity, BAR0, telemetry mirror, SMBus (R3, R7, R15,
R16, R275, R289, R442, R443, R446, R447, R472, R473, R520). No command of the table reads BAR0, configuration space or an SMBus
register, so these are views of State that no step calls. -/

namespace Sys2Proof.Machine

/-! ### Configuration identity (R442, R443) -/

def cfgVendor : BitVec 16 := 0x1F6D
def cfgDevice (n : CtxId) : BitVec 16 := if n = 0 then 0x0880 else 0x0881
def cfgRevision : BitVec 8 := Config.stepping
def cfgClass : BitVec 24 := 0x120000
/-- Subsystem Vendor ID and Subsystem ID, from the board configuration block. -/
def cfgSubsystem (s : State) : BitVec 16 × BitVec 16 := (BitVec.ofNat 16 (fld s.pkg.ssIds 15 0), BitVec.ofNat 16 (fld s.pkg.ssIds 31 16))
/-- Device Serial Number capability (R7). -/
def cfgSerial : BitVec 64 := Config.serial
/-- SR-IOV: TotalVFs, First VF Offset, VF Stride, NumVFs, VF Enable (R442, R444). -/
def cfgSriov (s : State) : Nat × Nat × Nat × CtxId × Bool := (7, 1, 1, s.pkg.numVfs, s.pkg.numVfs != 0)

/-! ### Status registers -/

/-- Identification block read through function n (Table 12.4). While no image runs FW_ACTIVE reads 0 (log 36). -/
def identBlock (s : State) (n : CtxId) : BitVec 256 :=
  let active := s.fab.planA.isSome
  BitVec.ofNat 256 (Config.serial.toNat * 2 ^ 192
    + (if s.boot.hasImage then imVersion (recAt 2048 s.boot.image 0) else 0) % 2 ^ 32 * 2 ^ 160
    + slotVersion s (1 - s.boot.slot) % 2 ^ 32 * 2 ^ 128
    + (if active then ownStation s else 0) * 2 ^ 104 + (if active then partKey s else 0) * 2 ^ 92 + b2n active * 2 ^ 91
    + n.val * 2 ^ 88 + Config.stepping.toNat * 2 ^ 80 + 1 * 2 ^ 76 + rollback s * 2 ^ 64
    + (cfgDevice n).toNat * 2 ^ 16 + cfgVendor.toNat)

/-- GSTAT read through function n (Table 12.5): a VF sees the bits of its own context alone (Table 12.3). -/
def gstat (s : State) (n : CtxId) : BitVec 64 :=
  let bits (p : RunState → Bool) : Nat := ((List.range 8).map fun i =>
    b2n (p (getCtx s (Fin.ofNat 8 i)).run && (n == 0 || n.val == i)) * 2 ^ i).sum
  BitVec.ofNat 64 (fld s.hal.health 31 30 * 2 ^ 62 + (if s.pkg.state = 1 ∧ restarting s then 4 else s.pkg.state.toNat) * 2 ^ 59 + bits (· != .none) * 2 ^ 51
    + bits (· == .running) * 2 ^ 43 + bits (· == .stopped) * 2 ^ 35 + b2n s.pkg.fenced * 2 ^ 34 + b2n s.pkg.cartOk * 2 ^ 33
    + b2n (getFn s n).hostErr * 2 ^ 32 + s.pkg.bootStep.toNat * 2 ^ 16)

/-- Code of a loop state (Table 7.5). -/
def loopCode : LoopState → Nat
  | .sweep => 0 | .acquire => 1 | .verify => 2 | .locked => 3 | .hold => 4 | .fault => 5

/-- LOOP_STAT (Table 7.5). -/
def loopStat (l : HLoop) : BitVec 32 :=
  BitVec.ofNat 32 (loopCode l.st * 2 ^ 29 + l.tone.toNat * 2 ^ 23 + l.wrong.toNat * 2 ^ 15 + l.heater.toNat)

/-! ### Rails -/

/-- Set-point in µV of a C-die's rail: the voltage of its margin-table entry for the step in force; without a usable entry the rail
stays at its start voltage (R400, R403, R508). -/
def railSetPoint (s : State) (d : Nat) : Nat :=
  let c := fld (tget vtabReset s.reef.vtab d) (8 * s.reef.dvfsStep + 7) (8 * s.reef.dvfsStep)
  if c ≤ 100 then 600000 + 2500 * c else 800000

/-! ### The telemetry mirror (Table 12.15) -/

/-- The package block. -/
def pkgBlock (m : Mirror) : List Byte :=
  leBytes 8 m.gen.toNat ++ leBytes 8 m.pwr.toNat ++ leBytes 4 m.health.toNat ++ leBytes 4 m.escPol.toNat ++ leBytes 4 m.bmcCap.toNat
    ++ leBytes 4 m.k.toNat ++ leBytes 8 m.slot.toNat ++ leBytes 8 m.drops

/-- Counting fields and PORT_STATE of a port (R350). -/
def portBlock (s : State) (p : Nat) : List Byte :=
  let x := tget .init s.mirror.ports p
  leBytes 8 s.mirror.gen.toNat ++ ((List.range 17).flatMap fun i => leBytes 8 (x.ctr.getD i 0))
    ++ leBytes 8 (portStateCode { s with fab := { s.fab with ports := s.mirror.ports } } p)

/-- A port's neighbour. -/
def nbrBlock (m : Mirror) (p : Nat) : List Byte :=
  let x := tget .init m.ports p
  leBytes 8 m.gen.toNat ++ leBytes 32 x.disc.toNat ++ leBytes 4 x.delay ++ leBytes 4 x.d

/-- Error counts of a unit. -/
def unitBlock (m : Mirror) (u : Nat) : List Byte :=
  let n := tget (0, 0, 0) m.cnt u
  leBytes 8 m.gen.toNat ++ leBytes 8 n.1 ++ leBytes 8 n.2.1 ++ leBytes 8 n.2.2

/-- Droop events, stretched cycles and VTAB_Dd of a C-die. -/
def dieBlock (m : Mirror) (d : Nat) : List Byte :=
  leBytes 8 m.gen.toNat ++ leBytes 8 (tget 0 m.droops d) ++ leBytes 8 (tget 0 m.stretched d) ++ leBytes 8 (tget vtabReset m.vtab d).toNat

/-- A byte of a context's section; 0 while the context does not exist. Of the pools all CAPs come before all VALUEs (DEDUCED, log 36). -/
def ctxByte (s : State) (c : CtxId) (o : Nat) : Byte :=
  let m := getSample s c
  let at_ (w n : Nat) (f : Nat → Nat) (base : Nat) : Byte := if (o - base) / w < n then (leBytes w (f ((o - base) / w))).getD ((o - base) % w) 0 else 0
  if (getCtx s c).run = .none then 0
  else if o < 0x40 then
    (leBytes 8 m.gen.toNat ++ leBytes 8 m.frame.toNat ++ leBytes 4 m.beats ++ leBytes 1 (runCode m.run) ++ leBytes 1 0 ++ leBytes 2 m.stop.toNat
      ++ leBytes 4 m.overruns.toNat ++ leBytes 4 m.replayOver.toNat ++ leBytes 4 m.redrain.toNat ++ leBytes 2 m.epoch.toNat
      ++ leBytes 1 (b2n m.full)).getD o 0
  else if o < 0x280 then m.rec_.getD (o - 0x40) 0
  else if o < 0x400 then 0
  else if o < 0x600 then at_ 16 32 (fun i => (m.slips.getD i 0).toNat) 0x400
  else if o < 0x1000 then at_ 4 1 (fun _ => m.slipOther.toNat) 0x600
  else if o < 0x1800 then at_ 2 1024 (fun i => (tget 0 m.tokens i).toNat) 0x1000
  else if o < 0x1A00 then at_ 2 256 (fun i => (tget 0 m.cap i).toNat) 0x1800
  else if o < 0x1C00 then at_ 2 256 (fun i => (tget 0 m.value i).toNat) 0x1A00
  else at_ 4 64 (fun i => (tget 0 m.cnt i).toNat) 0x1C00

/-- A byte of the mirror as function n reads it: a VF has the package block and its own context's section. -/
def mirrorByte (s : State) (n : CtxId) (o : Nat) : Byte :=
  let sec (base size cnt : Nat) (f : Nat → List Byte) : Byte :=
    if (o - base) / size < cnt then (f ((o - base) / size)).getD ((o - base) % size) 0 else 0
  if o < 0x40 then (pkgBlock s.mirror).getD o 0
  else if 0x10000 ≤ o ∧ o < 0x90000 then
    let c : CtxId := Fin.ofNat 8 ((o - 0x10000) / 0x10000)
    if n = 0 ∨ n = c then ctxByte s c (o % 0x10000) else 0
  else if n ≠ 0 then 0
  else if o < 0x1000 then 0
  else if o < 0x2000 then sec 0x1000 256 15 (portBlock s)
  else if o < 0x3000 then sec 0x2000 64 15 (nbrBlock s.mirror)
  else if o < 0x4000 then sec 0x3000 4 512 fun i => leBytes 4 (loopStat (getLoop s (i / 256 * 1024 + i % 256))).toNat
  else if o < 0x5000 then sec 0x4000 16 32 fun i => leBytes 16 (getLine s i).lc.toNat
  else if o < 0x6000 then sec 0x5000 32 17 (unitBlock s.mirror)
  else if o < 0x8000 then sec 0x6000 64 2 (dieBlock s.mirror)
  else if o < 0x10000 then
    let k := (o - 0x8000) / 2048
    let i := (o - 0x8000) % 2048
    if k < 12 ∧ i < 1536 then BitVec.ofNat 8 (sparesLeft s (k * 1536 + i)) else 0
  else 0

/-! ### BAR0 (Tables 12.3 and 12.6) -/

/-- A byte of BAR0 as function n reads it. Until Halyard serves, only identification and GSTAT are there, and the mailbox that the boot ROM
serves (R479, R488). -/
def bar0Byte (s : State) (n : CtxId) (o : Nat) : Byte :=
  let f := getFn s n
  if o < 0x20 then (leBytes 32 (identBlock s n).toNat).getD o 0
  else if 0x1000 ≤ o ∧ o < 0x1008 then (leBytes 8 (gstat s n).toNat).getD (o - 0x1000) 0
  else if !s.pkg.halyardUp && !(s.pkg.romService && decide (0x100000 ≤ o) && decide (o < 0x104000)) then 0
  else if 0x2000 ≤ o ∧ o < 0x2400 then msixByte f (o - 0x2000)
  else if 0x3000 ≤ o ∧ o < 0x3008 then (leBytes 8 f.pba.toNat).getD (o - 0x3000) 0
  else if 0x100000 ≤ o ∧ o < 0x101000 then f.req.getD (o - 0x100000) 0
  else if 0x101000 ≤ o ∧ o < 0x102000 then f.resp.getD (o - 0x101000) 0
  else if 0x102000 ≤ o ∧ o < 0x102010 then
    (leBytes 4 f.post.toNat ++ leBytes 4 f.done.toNat ++ leBytes 4 f.evtHead.toNat ++ leBytes 4 f.evtTail.toNat).getD (o - 0x102000) 0
  else if 0x1000000 ≤ o ∧ o < 0x2000000 then mirrorByte s n (o - 0x1000000)
  else if 0x2000000 ≤ o ∧ o < 0x2200000 ∧ n = 0 then (cread (fbSeen s.hal) (o - 0x2000000) 1).getD 0 0
  else 0

/-- A BAR0 read of `len` bytes through function n: none is Unsupported Request (R447). -/
def bar0Read (s : State) (n : CtxId) (off len : Nat) : Option (List Byte) :=
  if hostReaches s n && bar0Ok off len && decide (off + len ≤ 2 ^ 26) then some ((List.range len).map fun i => bar0Byte s n (off + i)) else none

/-! ### SMBus (Table 14.8) -/

/-- A block read of a command code: none is not acknowledged. What is write-only reads 0 (Table 0.7). -/
def smbRead (s : State) (code : Nat) : Option (List Byte) :=
  if !s.pins.pwrgdMast then none
  else match code with
    | 0x01 => some (leBytes 8 Config.serial.toNat)
    | 0x02 => some (leBytes 8 (setFld (gstat s 0) 32 32 0).toNat)
    | 0x03 => some (leBytes 8 s.reef.stat.toNat)
    | 0x04 => some (leBytes 4 s.hal.health.toNat)
    | 0x08 => some (leBytes 4 s.reef.bmcCap.toNat)
    | 0x09 => some (leBytes 16 0)
    | 0x0A => some (leBytes 1 0)
    | 0x0B => some (leBytes 2 s.hal.smb.toNat)
    | 0x10 => some (leBytes 4 s.hal.alert.toNat)
    | _ => none

end Sys2Proof.Machine
end

