-- ==== Sys2Proof/Tests/Slice0.lean ====
section
/-! SUPPORT. The model's own tests: an ill-formed command for each check of `Instr.wf`, one-step examples from the manual's tables and
worked values, and for each statement a state and operands that meet its hypotheses, clause by clause. -/

namespace Sys2Proof.Tests

set_option Elab.async false

open Sys2Proof Sys2Proof.Machine

/-! ### Small states -/

/-- A package in READY, link up, cartridge authenticated, every function enabled. -/
def up : State :=
  { State.reset with
    pins := { Pins.init with perstN := true, pwrgdAux := true, pwrgdCore := true, lcPresN := false, lcPwrEn := true, plane := 0 }
    pkg := { Pkg.init with state := 1, cartOk := true, numVfs := 7, linkUp := true, computeReset := false, halyardUp := true,
                           hbmUp := true } }

/-- A request of function fn with SEQ and MBX_POST 1. -/
def rq (fn : CtxId) (op len : Nat) (p : List Byte) : Req := ⟨fn, 1, BitVec.ofNat 128 (len * 2 ^ 64 + 2 ^ 32 + op), p⟩

/-- A PF request for context 1. -/
def rq1 (op len : Nat) (p : List Byte) : Req :=
  ⟨0, 1, BitVec.ofNat 128 (len * 2 ^ 64 + 2 ^ 32 + 2 ^ 27 + 2 ^ 24 + op), p⟩

/-- Bytes of numbers laid at their widths. -/
def bytes (l : List (Nat × Nat)) : List Byte := l.flatMap fun p => leBytes p.1 p.2

/-- Context 0 in a state, with one column. -/
def withCtx (r : RunState) (f : Ctx → Ctx := id) : State :=
  setCtx up 0 (f { Ctx.init with run := r, res := ⟨1, 1, 1, 1, 1⟩ })

/-- Context 0 with its first 2 MiB mapped to the first 2 MiB of HBM, writable. -/
def mapped (r : RunState) (f : Ctx → Ctx := id) : State := withCtx r fun x => f { x with maps := [⟨0, 0, false, true⟩] }

/-- Is a result a success? -/
def isOk {ε α : Type} : Except ε α → Bool
  | .ok _ => true
  | .error _ => false

theorem of_isOk {σ ε α : Type} {r : σ × Except ε α} (h : isOk r.2 = true) : ∃ u bs, r = (u, .ok bs) := by
  obtain ⟨u, _ | bs⟩ := r
  · cases h
  · exact ⟨u, bs, rfl⟩

theorem of_isErr {σ ε α : Type} {r : σ × Except ε α} (h : isOk r.2 = false) : ∃ u e, r = (u, .error e) := by
  obtain ⟨u, e | _⟩ := r
  · exact ⟨u, e, rfl⟩
  · cases h

/-! ### Well-formedness: a term that each check refuses -/

theorem test_wf_payload : (Instr.ctxReset ⟨0, 1, 0x103, List.replicate 4081 0⟩).wf = false := by decide +kernel
theorem test_wf_opcode : (Instr.ctxReset (rq 0 0x104 0 [])).wf = false := by decide
theorem test_wf_recommission : (Instr.lcRecommission (rq 0 0xB03 8 []) [(32, 0)]).wf = false := by decide
theorem test_wf_retry : (Instr.lcPowerRetry (rq 0 0xB04 0 []) ⟨4, []⟩).wf = false := by decide
theorem test_wf_register : (Instr.registerWrite 0 0 []).wf = false := by decide
theorem test_wf_bar2_read : (Instr.bar2Read 0 0 0).wf = false := by decide
theorem test_wf_bar2_write : (Instr.bar2Write 0 0 []).wf = false := by decide
theorem test_wf_smbus : (Instr.smbBmcCapWrite [] true).wf = false := by decide
theorem test_wf_certificate : (Instr.getCertificate 8 0 1).wf = false := by decide
theorem test_wf_challenge : (Instr.challenge 8 0).wf = false := by decide
theorem test_wf_measurements : (Instr.getMeasurements 256 0).wf = false := by decide
theorem test_wf_flr : (Instr.vfFlr 0).wf = false := by decide
theorem test_wf_bar : (Instr.barResize 0 29).wf = false := by decide
theorem test_wf_boot : (Instr.perstNDeassert ⟨true, true, true, 0, [], [], [], true, true, [], 0, []⟩).wf = false := by decide
theorem test_wf_cartridge : (Instr.cartridgeInserted ⟨0, [], [], [], 0⟩).wf = false := by decide
theorem test_wf_ctrl : (Instr.gate 0 0).wf = false := by decide
theorem test_wf_tile : (Instr.mac ⟨0, 256, 0, 0, 0⟩).wf = false := by decide
theorem test_wf_update : (Instr.updAdd 0 0).wf = false := by decide
theorem test_wf_transfer : (Instr.putArrival ⟨0, 0, 0, 0, none, 0, 0, 0, [1], true, 0, 0, 0, false, 0⟩).wf = false := by decide
theorem test_wf_piece : (Instr.collPieceArrival ⟨0, 0, 0, 7, 0, 0, 0, 0, 0, 0, 0, 0, 0, [], 0, 0, false, 0⟩).wf = false := by decide
theorem test_wf_peer : (Instr.peerReq ⟨0, 0, 0, 0, 0, true, 0, []⟩).wf = false := by decide
theorem test_wf_packet : (Instr.packetForward 0 ⟨.msg, 0, 0, 0, 0, 0, 2, 0, true, 0, false, 0, 0, []⟩).wf = false := by decide
theorem test_wf_header : (Instr.headerCodeword 0 ⟨0, 0, 0, 0, none, List.replicate 9 0, false, 0, [], 0, 0⟩).wf = false := by decide
theorem test_wf_floor : (Instr.mgtReefFloor 16 1).wf = false := by decide
theorem test_wf_transect : (Instr.transect []).wf = false := by decide
theorem test_wf_loop : (Instr.loopPeakFound 1 64 0).wf = false := by decide
theorem test_wf_poll : (Instr.lcLinePoll []).wf = false := by decide
theorem test_wf_interval : (Instr.intervalBoundary ⟨0, [], [], []⟩).wf = false := by decide
theorem test_wf_trim : (Instr.marginTrim []).wf = false := by decide
theorem test_wf_scrub : (Instr.patrolScrubRead 1 [] 0).wf = false := by decide
theorem test_wf_high : (Instr.lcFaultNHigh ⟨4, []⟩).wf = false := by decide

/-! ### Examples of the manual -/

/-- 3.2, choosing a block scale: MXFP8 E4M3 under BLOCKMAX. -/
theorem test_block_scale : blockMaxX 3 [fpv 0x43EB0000, fpv 0x40533333, fpv 0x3C54FDF4] = 128 := by decide +kernel
theorem test_block_elements :
    [0x43EB0000, 0x40533333, 0x3C54FDF4].map (fun v => encElem 3 .rne 128 (fpv v)) = [0x77, 0x3D, 0x03] := by decide +kernel

/-- 3.4, a sum that plain FP32 loses. -/
theorem test_compensated_sum :
    ([0x4B800000, 0x3F800000, 0x3F800000, 0x3F800000, 0x3F800000, 0x3F800000].foldl accumulate (0, 0)) = (0x4B800000, 0x40A00000)
      ∧ pairRound (0x4B800000, 0x40A00000) = 0x4B800002 := by decide +kernel

/-- 3.6, a fixed-scale re-drain. -/
theorem test_redrain : overflows 3 120 [fpv 0x40A68000] = true ∧ overflows 3 124 [fpv 0x40A68000] = false
    ∧ encElem 3 .rne 124 (fpv 0x40A68000) = 0x62 ∧ encElem 3 .rne 124 (fpv 0x3C42F838) = 0x1C := by decide +kernel

/-- 4.8, routing four tokens: ties go to the lower index. -/
theorem test_topk : (topk 2 [0x3FC00000, 0x3E800000, 0x3FC00000, 0xC0000000, 0x3F400000, 0]).map (·.1) = [0, 2] := by decide +kernel
/-- 4.8: the experts of four destinations. -/
theorem test_dest_experts : (List.range 4).map (destExperts 6 4) = [(0, 2), (2, 2), (4, 1), (5, 1)] := by decide +kernel

/-- 6.6, one die-store byte: check bits, a flipped bit, and two decoder faults. -/
theorem test_die_store_check : hsiaoCheck 0xA5 0x0105 = 0b10111 := by decide +kernel
theorem test_die_store_classes : byteClass [(5, 1)] = .ce 5 ∧ byteClass [(20, 1)] = .addr ∧ byteClass [(13, 1), (14, 1)] = .addr := by
  decide +kernel

/-- 0.6, a rejected copy descriptor: the length's window comes before the count. -/
theorem test_rejected_copy :
    firstSt (moveChecks (BitVec.ofNat 512 (65536 * 2 ^ 384 + 65536 * 2 ^ 416 + 0xFFFFF * 2 ^ 32))) = some stWindow := by decide +kernel

/-- 10.6: at level 4 the boundaries with k = 3 modulo 4 hold. -/
theorem test_reef_pattern : (List.range 16).filter (reefHolds 4) = [3, 7, 11, 15] := by decide +kernel

/-- R80: a raise past 65,535 leaves the counter. -/
theorem test_token_overflow :
    let x := { Ctx.init with tokens := [(7, 65535)] }
    ctrlApply x (BitVec.ofNat 128 (7 * 2 ^ 124 + 2 ^ 104 + 7 * 2 ^ 86 + 2 ^ 70)) = (x, some stTokenOver) := by decide +kernel

/-! ### Witnesses: mailbox commands -/

theorem witness_StepRunsFrontCommand : ({ up with pending := [Instr.pfFlr] } : State).pending = .pfFlr :: [] ∧ up.pending = [] := by
  repeat' apply And.intro
  all_goals decide +kernel

/-- The allotment of the tests: column 1, update unit 1. -/
def allot : Req := rq 0 0x0101 112 (bytes [(4, 2), (4, 2), (104, 0)])
def reallot : Req := rq 0 0x0104 112 (bytes [(4, 1), (4, 2), (104, 0)])
theorem witness_ContextCreationAndAllotment :
    (AllotFree up (reqCtx allot) allot.payload ∧ Accepts up allot 0x0101 112 false .absent ∧ pf allot.payload 0 4 ≠ 0)
    ∧ AllotFree (withCtx .idle) (reqCtx reallot) reallot.payload ∧ Accepts (withCtx .idle) reallot 0x0104 112 false .idle
        ∧ pf reallot.payload 0 4 = (getCtx (withCtx .idle) (reqCtx reallot)).res.cols.toNat
        ∧ (∀ u ∈ dsInUse (withCtx .idle) (getCtx (withCtx .idle) (reqCtx reallot)), pf reallot.payload 16 12 >>> u % 2 = 1)
        ∧ (∀ u ∈ mappedUnits (withCtx .idle) (getCtx (withCtx .idle) (reqCtx reallot)), pf reallot.payload 40 72 >>> u % 2 = 1) := by
  repeat' apply And.intro
  all_goals decide +kernel

def sparseReq : Req := rq 0 0x0107 32 (bytes [(32, 0)])
theorem witness_ContextSettings :
    Accepts (withCtx .idle) (rq 0 0x0106 8 (bytes [(8, 5)])) 0x0106 8 true .idle
    ∧ Accepts (withCtx .idle) sparseReq 0x0107 32 true .idle
    ∧ (∀ n < 4, ∀ k ∈ spwChecks ((List.range 4).map fun m => recAt 64 sparseReq.payload (8 * m)) n, k.2.1 = false)
    ∧ Accepts (withCtx .stopped) (rq 0 0x0405 0 []) 0x0405 0 true .exists_
    ∧ Accepts (withCtx .running) (rq 0 0x0402 0 []) 0x0402 0 true .running
    ∧ Accepts up (rq 7 0x0105 0 []) 0x0105 0 true .any := by
  repeat' apply And.intro
  all_goals decide +kernel

def resetInfo : ResetInfo := ⟨0, none, false, 0, 0⟩
theorem witness_ContextResetsBegin :
    Accepts (withCtx .running) (rq 0 0x0103 0 []) 0x0103 0 true .exists_
    ∧ Accepts (withCtx .idle) (rq 0 0x0102 0 []) 0x0102 0 false .exists_
    ∧ ((getCtx (withCtx .running) 0).run = .running ∧ (getCtx (withCtx .running) 0).is.reset = none)
    ∧ (getCtx (withCtx .idle) 0).run = .idle ∧ (getCtx (withCtx .stopped) 0).run = .stopped
    ∧ (getCtx (withCtx .resetting fun x => { x with reset := some resetInfo }) 0).run = .resetting := by
  repeat' apply And.intro
  all_goals decide +kernel

/-- MAP of the first page of HBM, and UNMAP of it. -/
def mapReq : Req := rq 0 0x0201 24 (bytes [(8, 0), (8, 0), (4, 1), (1, 0), (1, 1), (2, 0)])
def unmapReq : Req := rq 0 0x0202 16 (bytes [(8, 0), (4, 1), (1, 0), (3, 0)])
/-- What UNMAP removes. -/
def goneLeaves : List Leaf :=
  (getCtx (mapped .idle) 0).maps.filter fun l => l.big == (0 == 1) && decide (0 ≤ l.va) && decide (l.va < 0 + 1 * pageSize 0)
theorem witness_MapAndUnmap :
    (Accepts (withCtx .idle) mapReq 0x0201 24 true .exists_ ∧ pf mapReq.payload 22 2 = 0 ∧ pf mapReq.payload 16 4 = 1
      ∧ 0 + 1 * pageSize 0 ≤ 2 ^ 48
      ∧ (∀ l ∈ (getCtx (withCtx .idle) 0).maps, overlap l.va l.size 0 (1 * pageSize 0) = false)
      ∧ retLen (getCtx (withCtx .idle) 0).ret.act = 0 ∧ retLen (getCtx (withCtx .idle) 0).ret.sha = 0
      ∧ targetOk (withCtx .idle) (reqCtx mapReq) 0 (1 * pageSize 0) (pageSize 0) 1 = true
      ∧ l2Tables (withCtx .idle) + l2New (getCtx (withCtx .idle) 0) 0 (1 * pageSize 0) ≤ 16384)
    ∧ Accepts (mapped .idle) unmapReq 0x0202 16 true .exists_ ∧ pf unmapReq.payload 8 4 = 1 ∧ pf unmapReq.payload 12 1 = 0
    ∧ pf unmapReq.payload 13 3 = 0 ∧ goneLeaves.length = 1 ∧ (∀ l ∈ goneLeaves, granted (mapped .idle) (reqCtx unmapReq) l = false) := by
  repeat' apply And.intro
  all_goals decide +kernel

/-- A drain of context 0 that function 0 waits for, with or without a request in service that holds it. -/
def drain1 : Drain := ⟨0, [⟨0, 0, false, true⟩], false, 0⟩
def held1 : SrvReq :=
  { id := 0, cls := 2, unit := 0, sw := 0, epoch := 0, va := 0, phase := .serving, recipes := [], updp := [], disp := [], ret := 0,
    frame := 0, issueIdx := 0, slot := 0, tag := 0, desc := 0, xfer := 0, sentAll := false, sentNs := 0, written := [], tab := [],
    pending := [], wc := [], holds := [(0, 4096)], counts := [], nonfin := 0, vdone := 0, ipos := 0, skip := 0, accs := [],
    origins := [], resv := [], todo := [], coll := none }
def draining (q : List SrvReq) : State :=
  setFn (withCtx .idle fun x => { x with drains := [drain1], queue := q }) 0 { Func.init with busy := some (.unmap 0) }
theorem witness_UnmapDrainsEnd :
    ((getCtx (draining []) 0).drains = [drain1] ∧ (getFn (draining []) drain1.fn).busy = some (.unmap 0) ∧ drain1.late = false
      ∧ drainHeld (getCtx (draining []) 0) drain1 = false)
    ∧ drainHeld (getCtx (draining [held1]) 0) drain1 = true := by
  repeat' apply And.intro
  all_goals decide +kernel

def grantReq : Req := rq 0 0x0203 16 (bytes [(4, 0), (4, 1), (1, 2), (1, 1), (1, 1), (5, 0)])
def grantReqDie : Req := rq 0 0x0203 16 (bytes [(4, dieBase 0 / 0x200000), (4, 1), (1, 2), (1, 1), (1, 0), (5, 0)])
def bar2Req (mode base : Nat) : Req := rq 0 0x0205 16 (bytes [(1, mode), (7, 0), (8, base)])
def inDie : State := withCtx .idle fun x => { x with maps := [⟨0, dieBase 0, false, true⟩] }
def granted63 : State := modMem (mapped .idle) fun m => { m with bwin := [(63, 1)] }
def revokeReq : Req := rq 0 0x0204 8 (bytes [(1, 63), (7, 0)])
theorem witness_GrantsWindowsRemap :
    (Accepts (mapped .idle) grantReq 0x0203 16 true .exists_ ∧ pf grantReq.payload 11 5 = 0
      ∧ pf grantReq.payload 8 1 >>> (mapped .idle).pins.plane.val % 2 = 0
      ∧ isHbm 0 = true ∧ 1 * 0x200000 ≤ hbmEnd ∧ grantMapped (mapped .idle) (getCtx (mapped .idle) 0) 0 1 1 = true
      ∧ (List.range 64).find? (fun i => !bit (tget 0 (mapped .idle).mem.bwin i) 0) = some 0)
    ∧ (Accepts inDie grantReqDie 0x0203 16 true .exists_ ∧ place (dieBase 0 / 0x200000 * 0x200000) = some (.die 0 0)
      ∧ dieBase 0 + 0x200000 ≤ dieBase 0 + dieSize ∧ grantMapped inDie (getCtx inDie 0) (dieBase 0 / 0x200000) 1 0 = true)
    ∧ (Accepts granted63 revokeReq 0x0204 8 true .exists_ ∧ bit (tget 0 granted63.mem.bwin (pf revokeReq.payload 0 1)) 0 = true
      ∧ fld (tget 0 granted63.mem.bwin (pf revokeReq.payload 0 1)) 9 7 = (reqCtx revokeReq).val)
    ∧ (Accepts up (bar2Req 0 0) 0x0205 16 true .any ∧ (getCtx (mapped .idle) 0).run ≠ .none
      ∧ Accepts (mapped .idle) (bar2Req 1 0) 0x0205 16 true .any ∧ Accepts up (bar2Req 2 (2 ^ 39)) 0x0205 16 true .any
      ∧ 2 ^ 39 % 2 ^ (getFn up 0).bar2Log = 0 ∧ 2 ^ 39 + 2 ^ (getFn up 0).bar2Log ≤ 2 ^ 40)
    ∧ (Accepts up (rq 0 0x0206 0 []) 0x0206 0 false .any ∧ existing up = []) := by
  repeat' apply And.intro
  all_goals decide +kernel

/-! ### Witnesses: banks, run control, plan, policy, fence -/

def progReq : Req := rq 0 0x0301 72 (bytes [(8, 64), (64, 0)])
def libReq : Req := rq 0 0x0302 48 (bytes [(1, 0), (7, 0), (8, 0), (32, 1)])
def updReq : Req := rq 0 0x0306 24 (bytes [(1, 0), (1, 0), (2, 68), (4, 0), (8, 0), (8, 0)])
def updLibReq : Req := rq 0 0x0306 24 (bytes [(1, 1), (23, 0)])
/-- Context 0 with swaps of a mask pending. -/
def pending (mask : BitVec 8) : State := mapped .running fun x => { x with pend := mask }
theorem witness_LoadsFillShadows :
    (Accepts (mapped .idle) progReq 0x0301 72 true .live ∧ swapPending (mapped .idle) 0 0 = false ∧ pf progReq.payload 0 8 = 64)
    ∧ (Accepts (mapped .idle) libReq 0x0302 48 true .live ∧ swapPending (mapped .idle) 0 1 = false ∧ pf libReq.payload 0 1 ≤ 1
      ∧ pf libReq.payload 1 7 = 0 ∧ pf libReq.payload 8 8 = 0 ∧ pf libReq.payload 16 32 = 1 ∧ 1 < 2 ^ nTiles (getCtx (mapped .idle) 0))
    ∧ (Accepts (mapped .idle) (rq 0 0x0303 256 (bytes [(256, 0)])) 0x0303 256 true .live ∧ swapPending (mapped .idle) 0 2 = false)
    ∧ (Accepts (mapped .idle) (rq 0 0x0304 64 (bytes [(64, 0)])) 0x0304 64 true .live ∧ swapPending (mapped .idle) 0 3 = false)
    ∧ (Accepts (mapped .idle) (rq 0 0x0305 2048 (bytes [(2048, 0)])) 0x0305 2048 true .live ∧ swapPending (mapped .idle) 0 4 = false)
    ∧ (Accepts (mapped .idle) updReq 0x0306 24 true .live ∧ swapPending (mapped .idle) 0 5 = false ∧ pf updReq.payload 0 1 = 0
      ∧ pf updReq.payload 1 1 = 0 ∧ pf updReq.payload 2 2 = 68 ∧ pf updReq.payload 4 4 = 0 ∧ pf updReq.payload 8 8 = 0
      ∧ pf updReq.payload 20 4 = 0)
    ∧ (Accepts (mapped .idle) updLibReq 0x0306 24 true .live ∧ pf updLibReq.payload 0 1 = 1 ∧ pf updLibReq.payload 1 1 = 0
      ∧ pf updLibReq.payload 2 2 = 0 ∧ pf updLibReq.payload 4 4 = 0 ∧ pf updLibReq.payload 8 8 = 0 ∧ pf updLibReq.payload 20 4 = 0)
    ∧ (Accepts (pending 1) progReq 0x0301 72 true .live ∧ swapPending (pending 1) 0 0 = true)
    ∧ (Accepts (pending 2) libReq 0x0302 48 true .live ∧ swapPending (pending 2) 0 1 = true ∧ 1 < 2 ^ nTiles (getCtx (pending 2) 0))
    ∧ (Accepts (pending 4) (rq 0 0x0303 256 (bytes [(256, 0)])) 0x0303 256 true .live ∧ swapPending (pending 4) 0 2 = true)
    ∧ (Accepts (pending 8) (rq 0 0x0304 64 (bytes [(64, 0)])) 0x0304 64 true .live ∧ swapPending (pending 8) 0 3 = true)
    ∧ (Accepts (pending 16) (rq 0 0x0305 2048 (bytes [(2048, 0)])) 0x0305 2048 true .live ∧ swapPending (pending 16) 0 4 = true)
    ∧ (Accepts (pending 32) updReq 0x0306 24 true .live ∧ swapPending (pending 32) 0 5 = true) := by
  repeat' apply And.intro
  all_goals decide +kernel

theorem witness_LoadsFillShadows_reads :
    (∃ u bs, fetchBuf (posted (mapped .idle) libReq) 0 0 0 32768 8 = (u, .ok bs))
    ∧ (∃ u bs, fetchBuf (posted (mapped .idle) updReq) 0 0 0 68 8 = (u, .ok bs))
    ∧ (∃ u a, fetchBuf (posted (withCtx .idle) libReq) 0 0 0 32768 8 = (u, .error a))
    ∧ (∃ u a, fetchBuf (posted (withCtx .idle) updReq) 0 0 0 68 8 = (u, .error a)) :=
  ⟨of_isOk (by decide +kernel), of_isOk (by decide +kernel), of_isErr (by decide +kernel), of_isErr (by decide +kernel)⟩

def swapReq (op : Nat) : Req := rq 0 op 8 (bytes [(1, 4), (7, 0)])
theorem witness_SwapAndWithdraw :
    (pf (swapReq 0x0403).payload 0 1 = 4 ∧ pf (swapReq 0x0403).payload 1 7 = 0
      ∧ Accepts (withCtx .running) (swapReq 0x0403) 0x0403 8 true .idleOrRunning ∧ 4 &&& (getCtx (withCtx .running) 0).pend.toNat = 0)
    ∧ ((bitsOf 6 4).foldl (checkBank 0) (posted (withCtx .running) (swapReq 0x0403), none)).2 = none
    ∧ (pf (swapReq 0x0404).payload 0 1 = 4 ∧ pf (swapReq 0x0404).payload 1 7 = 0
      ∧ Accepts (withCtx .stopped) (swapReq 0x0404) 0x0404 8 true .exists_) := by
  repeat' apply And.intro
  all_goals decide +kernel

def runReq : Req := rq 0 0x0401 8 (bytes [(1, 1), (7, 0)])
def runnable : State := withCtx .idle fun x => { x with prog := { x.prog with act := { x.prog.act with valid := true } } }
def expReq : Req := rq 0 0x0406 16 (bytes [(8, 64), (4, 1), (4, 0)])
theorem witness_RunAndPhaseExport :
    (Accepts (withCtx .idle) runReq 0x0401 8 true .idle ∧ (getCtx (withCtx .idle) 0).prog.act.valid = false) ∧
    (Accepts runnable runReq 0x0401 8 true .idle ∧ pf runReq.payload 0 1 ≤ 1 ∧ pf runReq.payload 1 7 = 0
      ∧ (getCtx runnable 0).prog.act.valid = true)
    ∧ (Accepts (mapped .idle) expReq 0x0406 16 true .idle ∧ pf expReq.payload 12 4 = 0
      ∧ rangeOk (mapped .idle) (getCtx (mapped .idle) 0) (getCtx (mapped .idle) 0).ret.act false false 64 576 = true
      ∧ hbmWritable (mapped .idle) (getCtx (mapped .idle) 0) 64 576 = true) := by
  repeat' apply And.intro
  all_goals decide +kernel

def planReq : Req := rq 0 0x0501 16 (bytes [(4, 297980), (4, 4), (8, 4096)])
def planSwapReq : Req := rq 0 0x0503 8 (bytes [(8, 2 ^ 48 - 1)])
def planPending : State := modFab up fun f => { f with pendT := some 2 }
def planLast (t : Nat) : State := modFab up fun f => { f with pendT := some t }
theorem witness_PlanCommands :
    (Accepts up planReq 0x0501 16 false .any ∧ pf planReq.payload 0 4 + pf planReq.payload 4 4 = planSize ∧ up.fab.pendT = none)
    ∧ Accepts up (rq 0 0x0502 192 (bytes [(192, 0)])) 0x0502 192 false .any
    ∧ (Accepts up planSwapReq 0x0503 8 false .any ∧ pf planSwapReq.payload 0 8 = 2 ^ 48 - 1 ∧ up.clk.planSlot.toNat + 1953125 ≤ 2 ^ 48 - 1)
    ∧ (Accepts planPending (rq 0 0x0504 0 []) 0x0504 0 false .any ∧ planPending.fab.pendT = some 2
      ∧ planPending.clk.planSlot.toNat + 1 < 2 ∧ planPending.fab.applied = false)
    ∧ (Accepts (planLast 1) (rq 0 0x0504 0 []) 0x0504 0 false .any ∧ (planLast 1).fab.pendT = some 1
      ∧ 1 ≤ (planLast 1).clk.planSlot.toNat + 1)
    ∧ (Accepts planPending planReq 0x0501 16 false .any ∧ Accepts planPending (rq 0 0x0502 192 (bytes [(192, 0)])) 0x0502 192 false .any
      ∧ Accepts planPending planSwapReq 0x0503 8 false .any ∧ planPending.fab.pendT ≠ none)
    ∧ Accepts up (rq 0 0x0504 0 []) 0x0504 0 false .any := by
  repeat' apply And.intro
  all_goals decide +kernel

def floorReq : Req := rq 0 0x0508 8 (bytes [(1, 15), (1, 0), (2, 60000), (4, 0)])
def escReq : Req := rq 0 0x0507 4 (bytes [(4, 0x1E100000)])
def polPending : State := modReef up fun r => { r with polPend := true }
def badPol : State := modReef up fun r => { r with pol := { r.pol with sha := BitVec.allOnes 128 } }
theorem witness_PolicyCommands :
    (Accepts up (rq 0 0x0505 16 (bytes [(16, 0)])) 0x0505 16 false .any ∧ up.reef.polPend = false)
    ∧ (Accepts polPending (rq 0 0x0505 16 (bytes [(16, 0)])) 0x0505 16 false .any ∧ Accepts polPending (rq 0 0x0506 0 []) 0x0506 0 false .any
      ∧ polPending.reef.polPend = true)
    ∧ (Accepts badPol (rq 0 0x0506 0 []) 0x0506 0 false .any ∧ badPol.reef.polPend = false
      ∧ ((reefPolChecks badPol.reef.pol.sha).find? (fun k => k.2.1)).isSome = true)
    ∧ (Accepts up (rq 0 0x0506 0 []) 0x0506 0 false .any ∧ ∀ k ∈ reefPolChecks up.reef.pol.sha, k.2.1 = false)
    ∧ (Accepts up floorReq 0x0508 8 false .any ∧ pf floorReq.payload 0 1 = 15 ∧ pf floorReq.payload 2 2 = 60000
      ∧ pf floorReq.payload 1 1 = 0 ∧ pf floorReq.payload 4 4 = 0)
    ∧ (Accepts up escReq 0x0507 4 false .any ∧ pf escReq.payload 0 4 % 2 ^ 16 = 0 ∧ pf escReq.payload 0 4 / 2 ^ 16 % 2 ^ 12 = 3600
      ∧ 1 ≤ pf escReq.payload 0 4 / 2 ^ 28) := by
  repeat' apply And.intro
  all_goals decide +kernel

/-! ### Witnesses: leases, rings, diagnostics, resets, firmware, retrieval, cartridge -/

/-- A lease record for serial number n: SEQ 0, slot 0. -/
def leaseRec (n : Nat) : BitVec 256 := BitVec.ofNat 256 (n * 2 ^ 192)
def leaseReq (op : Nat) : Req := rq 0 op 32 (leBytes 32 (Config.serial.toNat * 2 ^ 192))

theorem leaseReq_rec (n : Nat) (h : n < 2 ^ 64) : recAt 256 (leBytes 32 (n * 2 ^ 192)) 0 = leaseRec n := by
  have e : n * 2 ^ 192 < 256 ^ 32 := by omega
  rw [recAt, List.drop_zero, List.take_of_length_le (by rw [leBytes_length]), leNat_leBytes, Nat.mod_eq_of_lt e, leaseRec]

theorem leaseRec_toNat (n : Nat) (h : n < 2 ^ 64) : (leaseRec n).toNat = n * 2 ^ 192 := by
  rw [leaseRec, BitVec.toNat_ofNat]; omega

theorem leaseRec_ok (n : Nat) (h : n < 2 ^ 64) (hn : Config.serial.toNat = n) (k : Chk) (hk : k ∈ leaseChecks up (leaseRec n)) :
    k.2.1 = false := by
  have e := leaseRec_toNat n h
  have hp : partKey up = 0 := by decide +kernel
  have hq : up.fab.leaseSeq = none := rfl
  simp only [leaseChecks, List.mem_cons, List.not_mem_nil, or_false, hp, hq, hn, fld, e, Nat.shiftRight_eq_div_pow] at hk
  rcases hk with rfl | rfl | rfl | rfl | rfl
  · simp; omega
  · simp; omega
  · rfl
  · rw [show up.clk.planSlot.toNat = 0 from rfl]; simp
  · simp; omega

theorem serial_lt : Config.serial.toNat < 2 ^ 64 := BitVec.isLt _

def ringReq : Req := rq 0 0x0701 16 (bytes [(8, 4096), (4, 64), (2, 0), (1, 3), (1, 0)])
theorem witness_FenceLeaseRing :
    Accepts up (rq 0 0x0601 0 []) 0x0601 0 false .any
    ∧ (Accepts up (leaseReq 0x0603) 0x0603 32 false .any ∧ fld (recAt 256 (leaseReq 0x0603).payload 0) 99 0 = 0
      ∧ ∀ k ∈ leaseChecks up (recAt 256 (leaseReq 0x0603).payload 0), k.2.1 = false)
    ∧ (Accepts up (leaseReq 0x0602) 0x0602 32 false .any ∧ ∀ k ∈ leaseChecks up (recAt 256 (leaseReq 0x0602).payload 0), k.2.1 = false)
    ∧ (Accepts up ringReq 0x0701 16 true .any ∧ pf ringReq.payload 0 8 % 4096 = 0 ∧ pf ringReq.payload 8 4 = 64
      ∧ pf ringReq.payload 14 1 = 3 ∧ reqCtx ringReq = 0 ∧ pf ringReq.payload 15 1 = 0) := by
  have l : ∀ op, (leaseReq op).payload.length = 32 := fun _ => leBytes_length _ _
  have e : ∀ op, recAt 256 (leaseReq op).payload 0 = leaseRec Config.serial.toNat := fun _ => leaseReq_rec _ serial_lt
  have k : ∀ k ∈ leaseChecks up (leaseRec Config.serial.toNat), k.2.1 = false := leaseRec_ok _ serial_lt rfl
  refine ⟨by decide +kernel, ⟨⟨by decide +kernel, l _, by decide +kernel⟩, ?_, ?_⟩, ⟨⟨by decide +kernel, l _, by decide +kernel⟩, ?_⟩,
    by decide +kernel⟩
  · rw [e, fld, leaseRec_toNat _ serial_lt]
    generalize Config.serial.toNat = n
    omega
  · rw [e]; exact k
  · rw [e]; exact k

/-- A record that is no lease: every bit set. -/
def badLease : Req := rq 0 0x0602 32 (bytes [(32, 2 ^ 256 - 1)])
theorem witness_FenceLeaseRing_refused : Accepts up badLease 0x0602 32 false .any
    ∧ ((leaseChecks up (recAt 256 badLease.payload 0)).find? (fun k => k.2.1)).isSome = true := ⟨by decide +kernel, rfl⟩

def traceReq : Req := rq 0 0x0803 40 (bytes [(8, 64), (8, 64), (8, 0), (8, 2 ^ 48 - 1), (1, 1), (7, 0)])
def fbReq : Req := rq 0 0x0C01 16 (bytes [(4, 32767), (4, 1), (8, 4096)])
def dumpReq : Req := rq 0 0x0C02 24 (bytes [(1, 3), (3, 0), (4, 60), (4, 4), (4, 0), (8, 4096)])
def dumped : State := modHal up fun h => { h with dumps := [(3, 0, 64)] }
def loopReq : Req := rq 0 0x0804 8 (bytes [(1, 1), (1, 0), (2, 63), (4, 0)])
def faulted : State := setLoop up (1024 + 63) { HLoop.init with st := .fault }
def releaseReq : Req := rq 0 0x0802 8 (bytes [(1, 3), (7, 0)])
theorem witness_DiagnosticCommands :
    Accepts up (rq 0 0x0801 0 []) 0x0801 0 false .any
    ∧ (Accepts up releaseReq 0x0802 8 false .any ∧ pf releaseReq.payload 0 1 = 3 ∧ pf releaseReq.payload 1 7 = 0)
    ∧ (Accepts (mapped .idle) traceReq 0x0803 40 true .exists_ ∧ pf traceReq.payload 0 8 = 64 ∧ pf traceReq.payload 8 8 = 64
      ∧ hbmWritable (mapped .idle) (getCtx (mapped .idle) 0) 64 64 = true ∧ pf traceReq.payload 16 8 ≤ pf traceReq.payload 24 8
      ∧ pf traceReq.payload 24 8 < 2 ^ 48 ∧ pf traceReq.payload 32 1 ≤ 1 ∧ pf traceReq.payload 33 7 = 0)
    ∧ (Accepts up fbReq 0x0C01 16 false .any ∧ pf fbReq.payload 4 4 = 1 ∧ pf fbReq.payload 0 4 + pf fbReq.payload 4 4 = 32768)
    ∧ (Accepts dumped dumpReq 0x0C02 24 false .any ∧ pf dumpReq.payload 0 1 = 3 ∧ dumped.hal.dumps.find? (fun d => d.1 == 3) = some (3, 0, 64)
      ∧ pf dumpReq.payload 4 4 + pf dumpReq.payload 8 4 = 64 ∧ pf dumpReq.payload 1 3 = 0 ∧ pf dumpReq.payload 12 4 = 0)
    ∧ (Accepts faulted loopReq 0x0804 8 false .any ∧ pf loopReq.payload 0 1 = 1 ∧ pf loopReq.payload 2 2 = 63 ∧ pf loopReq.payload 1 1 = 0
      ∧ pf loopReq.payload 4 4 = 0 ∧ (getLoop faulted (1024 + 63)).st = .fault) := by
  repeat' apply And.intro
  all_goals decide +kernel

/-- The dump's line with two symbols in error. -/
def dumpedBad : State := modMem dumped fun m => { m with upset := [(dumpBase 3, [(0, 1), (1, 2)])] }
theorem witness_DiagnosticCommands_reads :
    (∃ u bs, memRead (posted dumped dumpReq) ⟨0, none⟩ (dumpBase 3 + 60) 4 = (u, .ok bs))
    ∧ (∃ u e, memRead (posted dumpedBad dumpReq) ⟨0, none⟩ (dumpBase 3 + 60) 4 = (u, .error e)) :=
  ⟨of_isOk (by decide +kernel), of_isErr (by decide +kernel)⟩

def outOfService : State := modPkg up fun p => { p with state := 3 }
def hasImage : State := modBoot up fun b => { b with hasImage := true }
def fwReq : Req := rq 0 0x0901 16 (bytes [(4, 16777212), (4, 4), (8, 4096)])
def commitReq : Req := rq 0 0x0902 8 (bytes [(4, 16777216), (4, 0)])
def writing : State := modBoot up fun b => { b with writing := some (1, 64) }
/-- The ROM serves the PF's mailbox. -/
def recovering : State := modPkg up fun p => { p with romService := true, state := 4, halyardUp := false }
theorem witness_ComputeResetCommands_FirmwareCommands :
    Accepts up (rq 0 0x0805 0 []) 0x0805 0 false .any
    ∧ (Accepts outOfService (rq 0 0x0806 0 []) 0x0806 0 false .any ∧ outOfService.pkg.state = 3)
    ∧ (Accepts up fwReq 0x0901 16 false .any ∧ pf fwReq.payload 0 4 + pf fwReq.payload 4 4 = 16777216 ∧ up.boot.writing = none)
    ∧ (Accepts up commitReq 0x0902 8 false .any ∧ pf commitReq.payload 0 4 = 16777216 ∧ pf commitReq.payload 4 4 = 0
      ∧ up.pkg.romService = false)
    ∧ writing.boot.writing = some (1, 64)
    ∧ (Accepts hasImage (rq 0 0x0903 0 []) 0x0903 0 true .any ∧ hasImage.boot.hasImage = true)
    ∧ (Accepts up (rq 0 0x0903 0 []) 0x0903 0 true .any ∧ up.boot.hasImage = false)
    ∧ (Accepts up (rq 0 0x0806 0 []) 0x0806 0 false .any ∧ up.pkg.state ≠ 3)
    ∧ (Accepts recovering commitReq 0x0902 8 false .any ∧ recovering.pkg.romService = true ∧ recovering.boot.writing = none) := by
  repeat' apply And.intro
  all_goals decide +kernel

def attestReq : Req := rq 0 0x0A01 48 (bytes [(32, 0), (8, 4096), (4, 512), (4, 0)])
def certReq : Req := rq 0 0x0A02 16 (bytes [(8, 4096), (4, 0), (4, 0)])
def lifeReq : Req := rq 0 0x0B01 16 (bytes [(8, 4096), (4, 608), (4, 0)])
def noCart : State := modPkg up fun p => { p with cartOk := false }
theorem witness_RetrievalCommands :
    (Accepts up attestReq 0x0A01 48 true .any ∧ pf attestReq.payload 44 4 = 0)
    ∧ (Accepts up certReq 0x0A02 16 true .any ∧ pf certReq.payload 12 4 = 0)
    ∧ (Accepts up lifeReq 0x0B01 16 false .any ∧ up.pkg.cartOk = true ∧ pf lifeReq.payload 8 4 = 608 ∧ pf lifeReq.payload 12 4 = 0)
    ∧ (Accepts noCart lifeReq 0x0B01 16 false .any ∧ noCart.pkg.cartOk = false) := by
  repeat' apply And.intro
  all_goals decide +kernel

/-- Line 24 a good spare; line 0 serves role 0, commissioned. -/
def lit : State :=
  setLine (setLine up 24 (lcSet Line.init 95 92 0)) 0
    (lcSet (lcSet (lcSet Line.init 95 92 3) 103 96 0) 63 48 0x100)
def roleReq : Req := rq 0 0x0B02 8 (bytes [(1, 23), (7, 0)])
def fibreReq : Req := rq 0 0x0B03 8 (bytes [(1, 5), (7, 0)])
def unpowered : State := modOpt (modPins up fun p => { p with lcPwrEn := false }) fun o => { o with lcHold := true }
theorem witness_CartridgeCommands :
    (Accepts lit roleReq 0x0B02 8 false .any ∧ pf roleReq.payload 0 1 = 23 ∧ pf roleReq.payload 1 7 = 0 ∧ lit.optics.swaps = []
      ∧ (freeSpare lit).isSome = true ∧ lit.pins.lcPwrEn = true)
    ∧ (Accepts lit fibreReq 0x0B03 8 false .any ∧ pf fibreReq.payload 0 1 = 5 ∧ pf fibreReq.payload 1 7 = 0 ∧ lit.pkg.cartOk = true)
    ∧ (Accepts unpowered (rq 0 0x0B04 0 []) 0x0B04 0 false .any ∧ unpowered.pins.lcPresN = false ∧ unpowered.pins.lcFaultN = true
      ∧ unpowered.optics.lcHold = true)
    ∧ (Accepts up (rq 0 0x0B04 0 []) 0x0B04 0 false .any ∧ up.optics.lcHold = false) := by
  repeat' apply And.intro
  all_goals decide +kernel

/-! ### Witnesses: the mailbox protocol, host accesses, pins, start-up -/

/-- A request whose fields of the header are named one by one. -/
def rqH (fn : CtxId) (seq len op hi : Nat) (p : List Byte) : Req := ⟨fn, 1, BitVec.ofNat 128 (len * 2 ^ 64 + seq * 2 ^ 32 + hi + op), p⟩
def cmdOf (i : Instr) : Cmd := match mailRow i with
  | some (c, _) => c
  | none => ⟨0, 0, false, .any⟩
/-- A SWAP that was posted earlier and waits to begin, while no context exists. -/
def standing : State := setFn up 0 { Func.init with busy := some .posted, post := 1, req := leBytes 16 (swapReq 0x0403).header.toNat ++ bytes [(8, 1)] }
theorem witness_MailboxRefuses :
    (∀ p ∈ [(rqH 0 2 8 0x0403 0 (bytes [(8, 1)]), stSequence), (rqH 0 1 8 0x0403 (2 ^ 16) (bytes [(8, 1)]), stReserved),
        (rqH 0 1 7 0x0403 0 (bytes [(7, 1)]), stLength), (rqH 1 1 8 0x0403 (2 ^ 27 + 2 ^ 24) (bytes [(8, 1)]), stNotPermitted)],
      mailRow (.swap p.1) = some (cmdOf (.swap p.1), p.1) ∧ Posts up p.1 (cmdOf (.swap p.1)).op
        ∧ refusal up (cmdOf (.swap p.1)) p.1 = some p.2)
    ∧ refusal outOfService (cmdOf (.swap (swapReq 0x0403))) (swapReq 0x0403) = some stOutOfService
    ∧ refusal up (cmdOf (.swap (swapReq 0x0403))) (swapReq 0x0403) = some stNoContext
    ∧ refusal (withCtx .stopped) (cmdOf (.swap (swapReq 0x0403))) (swapReq 0x0403) = some stCtxState
    ∧ (mbxServed standing 0 = true ∧ (getFn standing 0).busy = some .posted ∧ hdrOp (recAt 128 (getFn standing 0).req 0) = 0x0403
      ∧ (checkReq standing 0 (cmdOf (.swap (swapReq 0x0403))) (recAt 128 (getFn standing 0).req 0)).isSome = true)
    ∧ Posts outOfService (swapReq 0x0403) 0x0403 ∧ Posts (withCtx .stopped) (swapReq 0x0403) 0x0403 := by
  repeat' apply And.intro
  all_goals decide +kernel

/-- Function 0 with a command outstanding. -/
def busyFn : State := setFn up 0 { Func.init with busy := some (.reset 0), done := 1 }
theorem witness_MailboxIgnoresPosts :
    mailRow (.swap (swapReq 0x0403)) = some (cmdOf (.swap (swapReq 0x0403)), swapReq 0x0403)
    ∧ ((getFn busyFn 0).busy = some (.reset 0) ∧ Wait.reset 0 ≠ .posted)
    ∧ ((getFn (setFn up 0 { Func.init with done := 1 }) 0).busy = none ∧ mbxReached (setFn up 0 { Func.init with done := 1 }) 0 = true ∧ (swapReq 0x0403).post = 1)
    ∧ (hostReaches busyFn 0 = true ∧ (getFn busyFn 0).busy ≠ none ∧ bar0Ok 0x100FC0 64 = true ∧ (getFn up 0).done = 0 ∧ hostReaches up 7 = true) := by
  repeat' apply And.intro
  all_goals decide +kernel

def queryFn : State := setFn up 0 { Func.init with req := leBytes 16 0x105, nent := 64 }
def unknownFn : State := setFn up 0 { Func.init with req := leBytes 16 (2 ^ 32 + 0xFFF) }
theorem witness_RegisterWrites :
    hostReaches queryFn 0 = true ∧ bar0Ok 0x102002 4 = false ∧ bar0Ok 0x1000 2 = false
    ∧ (mbxServed unknownFn 0 = true ∧ (getFn unknownFn 0).busy = none ∧ (1 : BitVec 32) ≠ (getFn unknownFn 0).done
      ∧ knownOps.contains (hdrOp (recAt 128 (getFn unknownFn 0).req 0)) = false ∧ hdrSeq (recAt 128 (getFn unknownFn 0).req 0) = 1
      ∧ hdrReserved (recAt 128 (getFn unknownFn 0).req 0) = false)
    ∧ (mbxReached queryFn 0 = true ∧ (getFn queryFn 0).busy = none ∧ (1 : BitVec 32) ≠ (getFn queryFn 0).done
      ∧ knownOps.contains (hdrOp (recAt 128 (getFn queryFn 0).req 0)) = true)
    ∧ (63 : BitVec 32).toNat < (getFn queryFn 0).nent.toNat ∧ bit (1 : BitVec 32) 0 = true ∧ (getFn queryFn 0).req.length ≤ 4096 := by
  repeat' apply And.intro
  all_goals decide +kernel

/-- PF windows: physical at 0, and virtual over context 0. -/
def phys : State := setFn up 0 { Func.init with bar2Mode := 2 }
def virt : State := setFn (mapped .idle) 0 { Func.init with bar2Mode := 1 }
/-- Line 0 of HBM with two symbols in error. -/
def spoilt : State := modMem phys fun m => { m with upset := [(0, [(0, 1), (1, 2)])] }
theorem witness_Bar2Reads :
    hostReaches phys 0 = true ∧ (∃ ps, bar2Parts phys 0 false 0 64 = .ok ps)
    ∧ (∃ k, bar2Parts up 0 false 0 64 = .error k) ∧ (readParts [(0, 64)] phys).2 = .ok (List.replicate 64 0)
    ∧ isOk (readParts [(0, 64)] spoilt).2 = false := by
  refine ⟨by decide +kernel, ⟨_, rfl⟩, ⟨_, rfl⟩, ?_, ?_⟩
  all_goals decide +kernel

theorem witness_Bar2Writes :
    (hostReaches phys 0 = true ∧ (getFn phys 0).bar2Base.toNat + 0x40 = 0x40 ∧ (getFn phys 0).bar2Mode = 2 ∧ phys.pkg.computeReset = false
      ∧ phys.pkg.state = 1 ∧ isHbm 0x40 = true ∧ 0x40 < halyardBase ∧ physOk 0x40 64 = true ∧ physOk 1 62 = true)
    ∧ isOk (memRead phys ⟨2, none⟩ 0 64).2 = true ∧ isOk (memRead spoilt ⟨2, none⟩ 0 64).2 = false
    ∧ (hostReaches virt 0 = true ∧ (getFn virt 0).bar2Mode = 1 ∧ (getCtx virt 0).run ≠ .none
      ∧ xlate virt (getCtx virt 0) (getCtx virt 0).ret.act 0x40 = some ⟨0x40, true⟩ ∧ isLocal virt 0x40 = true ∧ localPart 0x40 = 0x40)
    ∧ bar2Parts up 0 true 0 64 = .error 1 := by
  repeat' apply And.intro
  all_goals decide +kernel

def cap (w : Nat) : List Byte := leBytes 4 (w * 2 ^ 20)
theorem witness_SmbusWrites :
    up.pins.pwrgdMast = true ∧ ((cap 500).length = 4 ∧ fld (recAt 32 (cap 500) 0) 31 20 = 500 ∧ fld (recAt 32 (cap 1400) 0) 31 20 = 1400)
    ∧ (fld (recAt 32 (cap 499) 0) 31 20 < 500 ∧ 1400 < fld (recAt 32 (cap 1401) 0) 31 20)
    ∧ (up.pkg.halyardUp = true ∧ up.pkg.state ≠ 3 ∧ up.reef.polPend = false ∧ ∀ k ∈ reefPolChecks up.reef.pol.sha, k.2.1 = false)
    ∧ (modHal up fun h => { h with alert := 1 }).hal.alert ≠ 0 ∧ (bytes [(16, 0)]).length = 16
    ∧ (outOfService.pkg.state = 3 ∧ State.reset.pkg.halyardUp = false ∧ State.reset.pins.pwrgdMast = true)
    ∧ (polPending.reef.polPend = true ∧ polPending.pkg.halyardUp = true ∧ polPending.pkg.state ≠ 3)
    ∧ (badPol.reef.polPend = false ∧ ((reefPolChecks badPol.reef.pol.sha).find? (fun k => k.2.1)).isSome = true)
    ∧ (modPins up fun p => { p with pwrgdMast := false }).pins.pwrgdMast = false := by
  repeat' apply And.intro
  all_goals decide +kernel

theorem witness_JtagInstructions : State.reset.pins.pwrgdMast = true ∧ State.reset.pins.perstN = false ∧ up.pins.pwrgdMast = true
    ∧ up.pins.perstN = true := by
  repeat' apply And.intro
  all_goals decide +kernel

theorem witness_SpdmResponder : restarting up = false ∧ up.pkg.linkUp = true ∧ up.pins.perstN = true ∧ up.pkg.halyardUp = true ∧ up.boot.spdm = 0
    ∧ (modBoot up fun b => { b with spdm := 3 }).boot.spdm = 3 := ⟨rfl, rfl, rfl, rfl, rfl, rfl⟩

def linkless : State := modPkg up fun p => { p with state := 3 }
theorem witness_FunctionsAndLink :
    ((1 : CtxId) ≠ 0 ∧ (1 : CtxId).val ≤ up.pkg.numVfs.val ∧ (getCtx up 1).run = .none)
    ∧ (let s := setCtx up 7 { Ctx.init with run := .running }
       (7 : CtxId).val ≤ s.pkg.numVfs.val ∧ (getCtx s 7).run = .running ∧ (getCtx s 7).is.reset = none)
    ∧ (up.pkg.numVfs.val ≤ (7 : CtxId).val ∧ (6 : CtxId).val + 1 = up.pkg.numVfs.val)
    ∧ (∀ c ∈ existing (withCtx .idle), ∀ q ∈ (getCtx (withCtx .idle) c).queue, q.phase = .queued ∨ usesHost q = false)
    ∧ (linkless.pins.perstN = true ∧ linkless.pkg.state = 3)
    ∧ (up.pkg.state = 1 ∧ existing up = [] ∧ up.pkg.crBusy = false) := by
  repeat' apply And.intro
  all_goals decide +kernel

theorem witness_PowerAndResetPins : up.pins.perstN = true ∧ up.pins.thermtripN = true
    ∧ (modPins up fun p => { p with thermtripN := false }).pins.thermtripN = false
    ∧ (modPins up fun p => { p with pwrgdMast := false }).pins.pwrgdMast = false := by
  repeat' apply And.intro
  all_goals decide +kernel

/-- A board record: regulator n of 12 at address n, its CRC last. -/
def boardCfg : BitVec 512 := BitVec.ofNat 512
  0x94bc802e00000000010000000000000000000000000000000000000000000000000000000000000000b100a10091008100710061005100410031002100110001

/-- A start-up in which every step passes. -/
def goodBoot : BootEnv :=
  ⟨true, true, true, boardCfg, [], [], [], true, true, [], 0, []⟩
theorem witness_StartUp : State.reset.pins.perstN = false ∧ State.reset.pins.pwrgdMast = true ∧ State.reset.pins.testN = true
    ∧ boardOk goodBoot.boardCfg = true ∧ goodBoot.romOk = true ∧ goodBoot.linkOk = true ∧ goodBoot.halyardOk = true ∧ goodBoot.hbmOk = true
    ∧ goodBoot.fillOk = true := by
  repeat' apply And.intro
  all_goals decide +kernel

/-! ### Witnesses: light, cartridge, power, time, resets, fabric -/

/-- Loop i of die 0 in a state. -/
def looped (i : Nat) (st : LoopState) : State := setLoop lit i { HLoop.init with st := st }
/-- Amplitudes in tenths of a dB: tone 20 alone, and none. -/
def tone20 : List Int := 100 :: List.replicate 31 0
def quiet : List Int := List.replicate 32 0
theorem witness_HeaterLoops :
    loopIx 0 231 = some 231 ∧ loopIx 1 63 = some (1024 + 63)
    ∧ ((getLoop (looped 0 .sweep) 0).st = .sweep ∧ 63 ∉ (getLoop (looped 0 .sweep) 0).peaks)
    ∧ (getLoop (looped 0 .acquire) 0).st = .acquire
    ∧ (loopPilot 0 = true ∧ toneIn (expected (looped 0 .verify) 0) (lockIn tone20) = true ∧ (getLoop (looped 0 .verify) 0).fails < 2
      ∧ toneIn (expected (looped 0 .verify) 0) (lockIn quiet) = false
      ∧ (getLoop (setLoop lit 0 { HLoop.init with st := .verify, fails := 2 }) 0).fails = 2)
    ∧ ((getLoop (looped 100 .verify) 100).st = .verify ∧ loopPilot 100 = false)
    ∧ (getLoop (looped 0 .locked) 0).st = .locked ∧ (getLoop (looped 0 .hold) 0).st = .hold ∧ (getLoop (looped 0 .fault) 0).st = .fault := by
  repeat' apply And.intro
  all_goals decide +kernel

/-- Stay port 7 in a state, every loop of its lane locked. -/
def stay (st : StayState) : State :=
  setPort (modOpt up fun o => { o with loops := (laneLoops 16).map fun i => (i, { HLoop.init with st := .locked }) }) 7
    { Port.init with stay := st, st := .down }
theorem witness_StayPortStates :
    (heard (stay .dark) 7 = true ∧ (getPort (stay .dark) 7).stay = .dark ∧ spEn (laneSp (stay .dark) 16) = true
      ∧ ∀ j ∈ laneLoops 16, (getLoop (stay .dark) j).st = .locked)
    ∧ (heard (stay .acquiring) 7 = true ∧ (getPort (stay .acquiring) 7).stay = .acquiring)
    ∧ (getPort (stay .trained) 7).stay = .trained ∧ (getPort (stay .up) 7).stay = .up ∧ (getPort (stay .laserSwap) 7).stay = .laserSwap
    ∧ (getPort (stay .dark) 7).st = .down := by
  repeat' apply And.intro
  all_goals decide +kernel

/-- The package with light allowed. -/
def bright : State := modOpt lit fun o => { o with dark := false }
theorem witness_LightRotation : bright.optics.dark = false ∧ bright.pkg.fenced = false ∧ bright.pins.perstN = true
    ∧ (spEn (laneSp bright 0) && laneUsable bright 0) = true ∧ (spEn (laneSp bright 15) && laneUsable bright 15) = true := by
  repeat' apply And.intro
  all_goals decide +kernel

theorem witness_CartridgePresence :
    up.pins.lcPresN = false ∧ State.reset.pins.lcPresN = true ∧ State.reset.pins.lcPwrEn = false ∧ up.pins.lcPwrEn = true
    ∧ ((modOpt up fun o => { o with lcWait := true }).optics.lcWait = true ∧ up.pins.perstN = true) ∧ up.optics.lcWait = false := by
  repeat' apply And.intro
  all_goals decide +kernel

/-- A swap of role 0 to spare 24 at a step. -/
def swapping (step : Nat) : State := modOpt lit fun o => { o with swaps := [⟨0, 24, step, false⟩] }
theorem witness_LaserLines :
    lit.pkg.cartOk = true
    ∧ (lcState (getLine lit 0) = 3 ∧ lcComm (getLine lit 0) = 0x8000)
    ∧ lcComm (getLine (setLine lit 0 (lcSet (getLine lit 0) 47 32 0x100)) 0) = 0x100
    ∧ (swapping 2).optics.swaps.find? (fun v => v.role == 0 && v.step == 2) = some ⟨0, 24, 2, false⟩
    ∧ (swapping 4).optics.swaps.find? (fun v => v.role == 0 && v.step == 4) = some ⟨0, 24, 4, false⟩
    ∧ (lockerOk 24 1000 (List.replicate 24 0 ++ [100] ++ List.replicate 7 0) = true ∧ lockerOk 24 1001 quiet = false)
    ∧ lcState (getLine lit 31) ≠ 3 ∧ lcRole (getLine lit 0) < 24 ∧ lit.optics.swaps = [] := by
  repeat' apply And.intro
  all_goals decide +kernel

theorem witness_IntervalBoundary_PowerCommands :
    up.pins.perstN = true ∧ (modPkg up fun p => { p with brakeLatch := true }).pkg.brakeLatch = true
    ∧ (up.reef.calOut = false ∧ up.reef.calStale = false ∧ up.pkg.computeReset = false ∧ up.pkg.halyardUp = true)
    ∧ usableStep (modReef up fun r => { r with vtab := [(0, 0), (1, 0)] }) 2 = (2, false)
    ∧ (modReef up fun r => { r with dvfsWant := 2, vtab := [(0, 0), (1, 0)] }).reef.dvfsWant = 2
    ∧ (modReef up fun r => { r with stretch := 3 }).reef.stretch = 3
    ∧ (⟨5, 0, 5⟩ : TrimEnv).ring = (⟨5, 0, 5⟩ : TrimEnv).slack := by
  repeat' apply And.intro
  all_goals decide +kernel

/-- Health reason 4 noted, no fade left; line 0 of HBM with a correctable error. -/
def healing : State := modHal up fun h => { h with health := 0x80000 }
theorem witness_PlanSlotAdvances_HealthFlushScrub :
    (up.pins.perstN = true ∧ up.fab.planA = none ∧ up.fab.pendT = none ∧ up.fab.inject = [] ∧ up.fab.outq = [] ∧ up.pkg.restart = none
      ∧ (∀ n < 24, (getLane up n).own = [] ∧ (getLane up n).redo = [])
      ∧ (∀ n < 16, (getLane up n).point = none ∧ (getLane up n).seen = [] ∧ (getLane up n).prev = [])
      ∧ ∀ p < 15, (getPort up p).swapAt = none ∧ (getPort up p).retrain = none ∧ owesHeader up p = false)
    ∧ (cleanHolds healing 4 = true ∧ fld healing.hal.health 29 15 >>> 4 % 2 = 1)
    ∧ (getFn (setFn up 0 { Func.init with annDue := true }) 0).annDue = true ∧ (getFn up 0).annDue = false
    ∧ (place 64 = some (.hbm 0) ∧ isHbm 64 = true ∧ up.pkg.hbmUp = true ∧ [(3, 5)].foldl (flipSym 64) [] = [(3, 5)] ∧ lineClass [(3, 5)] = .ce 3) := by
  repeat' apply And.intro
  all_goals decide +kernel

def resetting (d : Bool) : State := withCtx .resetting fun x => { x with reset := some { resetInfo with destroy := d } }
def crRunning : State := modPkg up fun p => { p with crBusy := true, crCause := 10 }
theorem witness_ResetsEnd :
    (∀ d : Bool, (getCtx (resetting d) 0).run = .resetting ∧ (getCtx (resetting d) 0).reset = some { resetInfo with destroy := d }
      ∧ (resetting d).pkg.crBusy = false)
    ∧ (getFn (setFn (resetting false) 0 { Func.init with busy := some (.reset 0) }) 0).busy = some (.reset 0)
    ∧ (crRunning.pkg.crBusy = true ∧ escalates crRunning.pkg.crCause = false)
    ∧ (existing (mapped .idle) = [0] ∧ (getCtx (mapped .idle) 0).maps ≠ []) := by
  repeat' apply And.intro
  all_goals decide +kernel

def hung : State := withCtx .running fun x => { x with fr := { x.fr with beats := 2 ^ 40 } }
/-- A Halyard restart that the next slot ends. -/
def restartingUp : State := modPkg up fun p => { p with restart := some ⟨0, 11, 128⟩ }
theorem witness_HangAndRestart :
    ((getCtx hung 0).run = .running ∧ 4 * frameLimit (getCtx hung 0) < (getCtx hung 0).fr.beats)
    ∧ (getCtx up 0).run ≠ .running
    ∧ (crRunning.pkg.restart = none ∧ (restartingUp.pkg.restart = some ⟨0, 11, 128⟩ ∧ restartingUp.clk.mastNs + 128 = 128))
    ∧ (crRunning.pkg.halyardUp = true ∧ (getFn (setFn crRunning 3 { Func.init with busy := some .compute }) 3).busy = some .compute) := by
  repeat' apply And.intro
  all_goals decide +kernel

/-- A plan of station 8, key 1, circuit 5 in transit from port 1, transects by Halyard. -/
def planHead : Nat := 8 * 2 ^ 424 + 2 ^ 412 + 2 ^ 317 + 2 * 2 ^ 282 + 2 ^ 363
def plan : List Byte := leBytes 64 planHead ++ List.replicate 3008 0 ++ leBytes 8 (5 * 2 ^ 48 + 2 * 2 ^ 45 + 2 ^ 41 + 1)
def planned : State :=
  setPort (setPort (modFab up fun f => { f with planA := some plan }) 1 { Port.init with st := .up }) 0 { Port.init with st := .up }
def hdr0 : Header := ⟨1, 0, 0, 0, none, [], false, 0, [(5, true)], 0, 0⟩
/-- Lane ST0's loops locked and its line serving. -/
def litUp : State := modOpt bright fun o => { o with loops := (laneLoops 0).map fun i => (i, { HLoop.init with st := .locked }) }
theorem witness_Headers :
    (heard planned 1 = true ∧ recvUsable planned 1 (hdr0.from_ / 4) = true ∧ planned.fab.pendT = none ∧ (getPort planned 1).st = .up
      ∧ hdr0.key.toNat = partKey planned ∧ findCirc (planA planned) 5 = some (circRec plan 0) ∧ crOut (circRec plan 0) = 0)
    ∧ (litUp.pins.perstN = true ∧ litUp.pkg.fenced = false ∧ litUp.optics.dark = false ∧ (headerLane litUp 0).isSome = true)
    ∧ headerLane bright 0 = none
    ∧ (modPkg up fun p => { p with fenced := true }).pkg.fenced = true := by
  repeat' apply And.intro
  all_goals decide +kernel

/-- A message packet to a station, on port 1, with a training burst, from sequence number n on. -/
def pktAt (dst n : Nat) (ok : Bool) : Packet := ⟨.msg, 0, 0, BitVec.ofNat 24 dst, 0, 1, 0, 1, ok, 0, true, n, 0, [1]⟩
def pkt (dst : Nat) : Packet := pktAt dst 0 true
def pktIn (dst : Nat) : State × Bool := received planned 1 (pkt dst).lane true true 0 1
def pktKey (dst key : Nat) : State × Bool := keyCheck (countRx (pktIn dst).1 1 1) 1 .msg key
/-- The same on Stay port 7, and a receiver in FAULT. -/
def planned7 : State := setPort planned 7 { Port.init with st := .up, stay := .up, rx := [(0, ⟨5, 0, false⟩)] }
def deaf : State := modOpt planned fun o => { o with loops := (recvLoops 2 0).map fun i => (i, { HLoop.init with st := .fault }) }
theorem witness_PacketForwarding :
    (heard planned 1 = true ∧ (getPort planned 1).st = .up ∧ planned.pkg.fenced = false)
    ∧ (pktIn 8).2 = true ∧ (pktKey 8 1).2 = true ∧ (pktKey 8 2).2 = false ∧ (pktKey 9 1).2 = true ∧ (pktKey 0x40008 1).2 = true
    ∧ nextPort (pktKey 8 1).1 8 1 = .local_
    ∧ nextPort (pktKey 0x40008 1).1 0x40008 1 = .unreachable
    ∧ (nextPort (pktKey 9 1).1 9 1 = .port 0 ∧ (getPort (pktKey 9 1).1 0).st = .up ∧ mayClass (pktKey 9 1).1 0 .msg = true)
    ∧ (recvUsable planned 1 0 = true ∧ (pktAt 8 0 false).fecOk = false)
    ∧ (heard planned7 7 = true ∧ (getPort planned7 7).st = .up ∧ (tget Rx.init (getPort planned7 7).rx 0).next = 5
      ∧ (pktAt 8 6 true).seq = 6 ∧ (pktAt 8 4 true).seq = 4)
    ∧ recvUsable deaf 1 0 = false := by
  repeat' apply And.intro
  all_goals decide +kernel

def chunkIn (circuit : Nat) : Chunk := ⟨BitVec.ofNat 16 circuit, 16, 9, 0, 1, 0, [1], 1, true, 0, true⟩
def chunkKey : State × Bool := keyCheck (owe (countRx (received planned 1 0 true true 0 1).1 1 1) 1 7 (codewords 1)) 1 .col 1
/-- The same plan with its circuit ending here. -/
def terminal : List Byte := leBytes 64 planHead ++ List.replicate 3008 0 ++ leBytes 8 (5 * 2 ^ 48 + 3 * 2 ^ 45 + 2 ^ 41 + 1)
theorem witness_CircuitChunks :
    (heard planned 1 = true ∧ (getPort planned 1).st = .up ∧ (chunkIn 5).late = 16 ∧ (received planned 1 0 true true 0 1).2 = true)
    ∧ chunkKey.2 = true ∧ findCirc (planA chunkKey.1) 6 = none
    ∧ findCirc (planA chunkKey.1) 5 = some (circRec plan 0) ∧ crRole (circRec plan 0) = 2 ∧ crIn (circRec plan 0) = 1
    ∧ (getCirc chunkKey.1 5).broken = false ∧ crRole (circRec terminal 0) = 3 ∧ crIn (circRec terminal 0) = 1 := by
  repeat' apply And.intro
  all_goals decide +kernel

theorem witness_Discovery :
    (bright.pins.perstN = true ∧ bright.optics.dark = false ∧ bright.pkg.fenced = false)
    ∧ (discHeard planned 1 = true ∧ planned.fab.outq = [] ∧ planned.fab.pendT = none ∧ heard planned 1 = true ∧ partKey planned ≠ 0)
    ∧ (partKey up = 0 ∧ phPresent (hdrA planned) 9 = false) ∧ discHeard (stay .trained) 7 = true
    ∧ (heard (stay .up) 7 = true ∧ (getPort (stay .up) 7).stay ≠ .dark)
    ∧ (phPresent (hdrA planned) 2 = true ∧ (getPort (setPort planned 2 { Port.init with st := .held }) 2).st ≠ .down) := by
  repeat' apply And.intro
  all_goals decide +kernel

def epoch : State := modFab up fun f => { f with pendT := some 0, nextPlan := some plan }
theorem witness_FabricManagement :
    (up.pins.perstN = true ∧ up.pkg.halyardUp = true ∧ (modFab up fun f => { f with leaseNs := some 0 }).fab.leaseNs.isSome = true
      ∧ up.fab.leaseNs = none)
    ∧ (phTrMode (hdrA planned) = 2 ∧ planned.pins.perstN = true)
    ∧ ((leaseChecks up (BitVec.allOnes 256)).find? (fun k => k.2.1)).isSome = true ∧ (modPkg up fun p => { p with halyardUp := false }).pkg.halyardUp = false
    ∧ (epoch.fab.pendT = some 0 ∧ epoch.fab.nextPlan = some plan ∧ 0 ≤ epoch.clk.planSlot.toNat)
    ∧ (planPending.fab.pendT = some 2 ∧ planPending.clk.planSlot.toNat < 2)
    ∧ ∀ k ∈ leaseChecks up (leaseRec Config.serial.toNat), k.2.1 = false := by
  refine ⟨?_, ?_, rfl, ?_, ?_, ?_, leaseRec_ok _ serial_lt rfl⟩
  all_goals repeat' apply And.intro
  all_goals decide +kernel

/-! ### Witnesses: servers -/

/-- A queued request of class cls, its descriptor at address 0. -/
def req0 (cls : Nat) : SrvReq := { held1 with cls := cls, phase := .queued, desc := 0, recipes := recipeDefaults }
/-- Context 0 running over the first 2 MiB of HBM, with bytes placed and a queue. -/
def serving (l : List (Nat × List Byte)) (q : List SrvReq) : State :=
  l.foldl (fun s p => memWrite s p.1 p.2) (mapped .running fun x => { x with queue := q })
/-- A descriptor waits at the head of a unit's queue. -/
def waitsIn (cls : Nat) (d : Nat) (l : List (Nat × List Byte) := []) (f : SrvReq → SrvReq := id) : State :=
  serving ((0, leBytes 64 d) :: l) [f (req0 cls)]
def taken (cls d : Nat) (f : SrvReq → SrvReq := id) : SrvReq := { f (req0 cls) with desc := BitVec.ofNat 512 d }

/-- Windows of 4,096 bytes, source 4,096, destination 8,192, rows of 64 bytes at stride 64. -/
def moveDesc (op count idx : Nat) : Nat :=
  4096 * 2 ^ 416 + 4096 * 2 ^ 384 + idx * 2 ^ 288 + 8192 * 2 ^ 224 + 4096 * 2 ^ 160 + 64 * 2 ^ 128 + 64 * 2 ^ 96 + count * 2 ^ 64 + 64 * 2 ^ 32
    + op * 2 ^ 28
def moving (op count idx : Nat) : State := waitsIn 2 (moveDesc op count idx)
/-- The state after the turn of a shared engine is noted. -/
def noted (s : State) (cls : Nat) (f : SrvReq → SrvReq := id) : State := noteTurn s 0 (f (req0 cls))
def goes (s : State) (cls d : Nat) (f : SrvReq → SrvReq := id) : Prop :=
  startHead (if cls = 3 then updPre else noPre) s 0 cls 0 = .go (noted s cls f) (taken cls d f)

theorem witness_Movers_starts :
    (goes (moving 0 1 0) 2 (moveDesc 0 1 0) ∧ (moveCheck (moving 0 1 0) 0 (taken 2 (moveDesc 0 1 0))).2 = none)
    ∧ (goes (moving 1 2 0) 2 (moveDesc 1 2 0) ∧ (moveCheck (moving 1 2 0) 0 (taken 2 (moveDesc 1 2 0))).2 = none)
    ∧ (goes (moving 2 1 12288) 2 (moveDesc 2 1 12288) ∧ (moveCheck (moving 2 1 12288) 0 (taken 2 (moveDesc 2 1 12288))).2 = none)
    ∧ (goes (moving 3 1 12288) 2 (moveDesc 3 1 12288) ∧ (moveCheck (moving 3 1 12288) 0 (taken 2 (moveDesc 3 1 12288))).2 = none)
    ∧ (goes (moving 4 64 0) 2 (moveDesc 4 64 0) ∧ (moveCheck (moving 4 64 0) 0 (taken 2 (moveDesc 4 64 0))).2 = none)
    ∧ (goes (moving 0 2 0) 2 (moveDesc 0 2 0) ∧ (moveCheck (moving 0 2 0) 0 (taken 2 (moveDesc 0 2 0))).2 = some stField) := by
  unfold goes
  repeat' apply And.intro
  all_goals decide +kernel

/-- CTAKE 1 of pool 0, whose CAP is 0. -/
def takes1 (q : SrvReq) : SrvReq := { q with sw := BitVec.ofNat 128 (2 ^ 80) }
def ready1 (cls : Nat) : State := serving [] [{ req0 cls with phase := .ready }]
theorem witness_Movers :
    startHead noPre (waitsIn 2 0 [] takes1) 0 2 0 = .bad (waitsIn 2 0 [] takes1) (takes1 (req0 2)) stWindow
    ∧ startHead noPre (serving [] []) 0 2 0 = .idle
    ∧ ((cutSrc (taken 2 (moveDesc 0 1 0)).desc (0, 0, 64)).foldl (movePart 0) (moving 0 1 0, taken 2 (moveDesc 0 1 0), none)).2.2 = none
    ∧ (srvRuns (ready1 2) 0 = true ∧ headIn (ready1 2) 0 2 0 .ready = some { req0 2 with phase := .ready })
    ∧ srvRuns up 0 = false := by
  repeat' apply And.intro
  all_goals decide +kernel

/-! Peers: plane 1 is on port 0. -/

def peerQ (key : Nat) (write : Bool) (mask : Nat) : PeerQ := ⟨1, 0, 0, BitVec.ofNat 12 key, 0x40, write, BitVec.ofNat 64 mask, List.replicate 64 7⟩
/-- A grant of the first 2 MiB to every plane, for reads and writes. -/
def granting : State := modMem planned fun m => { m with bwin := [(0, BitVec.ofNat 64 (2 ^ 26 + (2 ^ 26 - 2 ^ 10) + 3))] }
def fullMask : Nat := 2 ^ 64 - 1
/-- The same with the owner's context there. -/
def granting0 : State := setCtx granting 0 { Ctx.init with run := .idle }
def peerOp1 (write : Bool) : PeerOp := ⟨0x10000000040, write, List.replicate 64 (some 7), if write then [] else [(0, 64, 0, 4096)]⟩
def peerHead (write : Bool) : SrvReq := { req0 2 with phase := .serving, resv := [peerOp1 write] }
def peerSent (write : Bool) : State := modFab (serving [] [peerHead write]) fun f => { f with planA := some plan }
def landed (s : State) : Option Status :=
  ((peerOp1 false).parts.foldl (landPart 0 (spreadBytes (peerOp1 false) (List.replicate 64 7))) (s, { peerHead false with resv := [] }, none)).2.2
theorem witness_PeerRequests :
    (planePort planned 1 = 0 ∧ heard planned 0 = true ∧ (getPort planned 0).st = .up ∧ planned.pkg.fenced = false
      ∧ (keyCheck planned 0 .req 1).2 = true ∧ (keyCheck planned 0 .req 2).2 = false)
    ∧ (planned.pkg.computeReset = false ∧ grantOwner planned (peerQ 1 true fullMask) = none ∧ physOk 0x40 64 = true)
    ∧ ((keyCheck granting0 0 .req 1).2 = true ∧ grantOwner granting0 (peerQ 1 true fullMask) = some 0 ∧ isHbm 0x40 = true
      ∧ (peerQ 1 true 1).mask ≠ BitVec.allOnes 64 ∧ (peerQ 1 true fullMask).mask = BitVec.allOnes 64
      ∧ (serveRead granting0 0 (peerQ 1 false 3)).2 = some [0, 0]
      ∧ (serveRead (modMem granting0 fun m => { m with upset := [(0x40, [(0, 1), (1, 2)])] }) 0 (peerQ 1 false 3)).2 = none)
    ∧ (modPkg up fun p => { p with fenced := true }).pkg.fenced = true
    ∧ (srvRuns (peerSent true) 0 = true ∧ partKey (peerSent true) = 1 ∧ (getCtx (peerSent true) 0).epoch = 0
      ∧ headIn (peerSent true) 0 2 0 .serving = some (peerHead true) ∧ (peerHead true).resv = [peerOp1 true]
      ∧ (peerOp1 true).write = true)
    ∧ (srvRuns (peerSent false) 0 = true ∧ headIn (peerSent false) 0 2 0 .serving = some (peerHead false)
      ∧ (peerOp1 false).write = false ∧ (List.replicate 64 (7 : Byte)).length = (opPlaces (peerOp1 false)).length
      ∧ landed (peerSent false) = none) := by
  repeat' apply And.intro
  all_goals decide +kernel

/-! ### Witnesses: link engines, update units, dispatch engines -/

/-- PUT (op 0) of 64 bytes from 4,096 to a station, CSEND (op 1) on circuit 5. -/
def linkDesc (op sta : Nat) : Nat := 8192 * 2 ^ 192 + 4096 * 2 ^ 128 + 64 * 2 ^ 96 + (op * 6) * 2 ^ 80 + op * 2 ^ 28 + sta
/-- A plan of station 8, key 1, with an ORIGIN record of circuit 6 for context 0. -/
def planO : List Byte := leBytes 64 planHead ++ List.replicate 3008 0 ++ leBytes 8 (6 * 2 ^ 48 + 1 * 2 ^ 45 + 2 ^ 41 + 1)
def onFabric (s : State) : State := setPort (modFab s fun f => { f with planA := some planO }) 0 { Port.init with st := .up }
/-- The request's capture of the plan's ORIGIN records. -/
def withOrigin (q : SrvReq) : SrvReq := { q with origins := [BitVec.ofNat 64 (6 * 2 ^ 48 + 1 * 2 ^ 45 + 2 ^ 41 + 1)] }
def linking (op sta : Nat) : State := onFabric (waitsIn 6 (linkDesc op sta) [] withOrigin)
def linkReq (op sta : Nat) : SrvReq := taken 6 (linkDesc op sta) withOrigin
/-- Two symbols of line 4,096 in error. -/
def spoiltAt (s : State) : State := modMem s fun m => { m with upset := [(4096, [(0, 1), (1, 2)])] }
theorem witness_LinkEngines_starts :
    goes (linking 0 1) 6 (linkDesc 0 1) withOrigin ∧ goes (linking 1 0) 6 (linkDesc 1 0) withOrigin
    ∧ (linkCheck (linking 0 1) 0 (linkReq 0 1)).2 = none ∧ (linkCheck (linking 1 0) 0 (linkReq 1 0)).2 = none
    ∧ (linkCheck (linking 0 1) 0 (taken 6 (linkDesc 0 1 + 2 ^ 24) withOrigin)).2 = some stReserved
    ∧ (linkCheck (linking 1 1) 0 (taken 6 (linkDesc 1 1 + 2 ^ 80) withOrigin)).2 = some stCircuit
    ∧ isOk (virtRead (linking 0 1) ⟨0, some 0⟩ (getCtx (linking 0 1) 0) 0 4096 64).2 = true
    ∧ isOk (virtRead (spoiltAt (linking 0 1)) ⟨0, some 0⟩ (getCtx (linking 0 1) 0) 0 4096 64).2 = false := by
  unfold goes
  repeat' apply And.intro
  all_goals decide +kernel

def inbound (ctx : CtxId) (va : Nat) : InXfer :=
  ⟨ctx, 9, 0, 3, none, BitVec.ofNat 64 va, 64, 0, List.replicate 64 7, true, 5, 0, 0, false, 0⟩
def sent6 : SrvReq := { req0 6 with phase := .serving, xfer := 3, sentAll := true }
def theColl : CollSt :=
  { hash := 1, seq := 0, n := 2, rank := 0, mbrs := [0, 0], levels := [BitVec.ofNat 32 (1 * 2 ^ 18 + 2 ^ 16)], crc := 0, table := [],
    src := List.replicate 64 0, held := [], granted := [], sent := [], asked := [], wrote := false, stamps := [], sends := [], recvs := [],
    filled := [], led := [], staged := [], agreed := [], acked := [], spent := [], arrivals := 0 }
/-- An all-gather in service: LEN 64. -/
def coll5 (op : Nat) (k : CollSt) : SrvReq :=
  { req0 5 with phase := .serving, coll := some k
                desc := BitVec.ofNat 512 (12288 * 2 ^ 320 + 8192 * 2 ^ 256 + 4096 * 2 ^ 192 + 4096 * 2 ^ 160 + 4096 * 2 ^ 128
                  + 4096 * 2 ^ 96 + (if op = 5 then 0 else 64) * 2 ^ 64 + op * 2 ^ 60) }
/-- A transfer of which a part has come. -/
def partIn : Inbound := ⟨9, 0, 3, 0, 0, [], false⟩
def later (s : State) : State := { s with clk := { s.clk with mastNs := 100000000 } }
def collSent : SrvReq := { coll5 3 theColl with xfer := 7, sentAll := true }
theorem witness_LinkEngines :
    (let s := onFabric (serving [] [])
     s.pins.perstN = true ∧ s.pkg.fenced = false ∧ partKey s = 1 ∧ ctxOpen s 1 = false ∧ ctxOpen s 0 = true ∧ findIn s (inbound 0 0) = none
       ∧ xferOk s (inbound 0 4096) = true ∧ xferOk s (inbound 0 0x200000) = false)
    ∧ (let s := modFab (onFabric (serving [] [])) fun f => { f with inbound := [partIn] }
       findIn s (inbound 0 4096) = some partIn ∧ partIn.closed = false ∧ partIn.epoch = (getCtx s 0).epoch)
    ∧ (findXfer (serving [] [sent6]) 0 0 3 = some sent6 ∧ sentLong (serving [] [sent6]) sent6 = false
      ∧ sentLong (later (serving [] [sent6])) sent6 = true ∧ findXfer (serving [] [sent6]) 0 0 4 = none)
    ∧ findColl (serving [] [coll5 3 theColl]) 0 0 1 0 = some (coll5 3 theColl)
    ∧ ((getCtx (later (serving [] [collSent])) 0).queue.find?
        (fun q => q.cls == 5 && q.unit == 0 && q.phase != .queued && q.xfer == 7) = some collSent
      ∧ sentLong (later (serving [] [collSent])) collSent = true ∧ pieceWaits (later (serving [] [collSent])) 0 collSent = false)
    ∧ ((modFab up fun f => { f with inbound := [partIn] }).fab.inbound.any fun i =>
        (i.srcSta == 9 && i.srcCtx == 0 && i.xfer == 3 && i.dstCtx == 0) && !i.closed) = true := by
  repeat' apply And.intro
  all_goals decide +kernel

/-! An update request over one FP32 stream; its program is ABS then END. -/

/-- An update program image: entry 0 valid, LEN 2, ABS V0 to V1, END. -/
def updImg : List Byte := leBytes 4 (1 * 2 ^ 14 + 1) ++ List.replicate 60 0 ++ leBytes 4 (7 * 2 ^ 26 + 1 * 2 ^ 21) ++ leBytes 4 (0x3F * 2 ^ 26)
def updDesc (nvec : Nat) (raise_ : Bool) : Nat :=
  (if nvec = 0 then 0 else 4096 * 2 ^ 448 + 8192 * 2 ^ 384) + (if raise_ then 12288 * 2 ^ 256 + 2 ^ 75 else 0) + nvec * 2 ^ 128
def withProg (q : SrvReq) : SrvReq := { q with updp := updImg }
def updating (nvec : Nat) (raise_ : Bool) : State := waitsIn 3 (updDesc nvec raise_) [(12288, [1])] withProg
def updTaken (nvec : Nat) (raise_ : Bool) : SrvReq := taken 3 (updDesc nvec raise_) withProg
def updReady (res : Bool) : SrvReq :=
  { req0 3 with phase := .ready, desc := BitVec.ofNat 512 (if res then 16384 * 2 ^ 320 + 2 ^ 74 else 0) }
theorem witness_UpdateUnits_starts :
    (goes (updating 1 false) 3 (updDesc 1 false) withProg ∧ udNvec (updTaken 1 false).desc = 1
      ∧ isOk (updCheck (updating 1 false) 0 (updTaken 1 false)).2 = true)
    ∧ (goes (updating 0 true) 3 (updDesc 0 true) withProg ∧ udNvec (updTaken 0 true).desc = 0
      ∧ isOk (updCheck (updating 0 true) 0 (updTaken 0 true)).2 = true)
    ∧ (goes (updating 0 false) 3 (updDesc 0 false) withProg
      ∧ isOk (updCheck (updating 0 false) 0 (updTaken 0 false)).2 = false)
    ∧ (∀ res : Bool, headIn (serving [] [updReady res]) 0 3 0 .ready = some (updReady res)
      ∧ isOk (raiseVersion (serving [] [updReady res]) 0 (updReady res)).2 = true ∧ udResEn (updReady res).desc = res) := by
  unfold goes
  repeat' apply And.intro
  all_goals decide +kernel

/-- Instructions of each opcode with no field set. -/
def opc (o : Nat) : BitVec 32 := BitVec.ofNat 32 (o * 2 ^ 26)
/-- A stream table: stream 0 FP32 (recipe 4), in and out, at 4,096. -/
def streamTab : List Byte := leBytes 32 (4096 * 2 ^ 192 + 4096 * 2 ^ 64 + 4 * 2 ^ 27 + 3 * 2 ^ 25) ++ List.replicate 224 0
def inPass : SrvReq :=
  { req0 3 with phase := .serving, desc := BitVec.ofNat 512 (updDesc 1 false), tab := streamTab, updp := updImg }
def passing : State := setUnit (serving [] [inPass]) 0 UpdUnit.init
theorem witness_UpdateUnits :
    passing.pkg.computeReset = false
    ∧ (∀ o ∈ [1, 2, 3, 4, 5, 6, 7, 8, 9, 10, 11, 12, 13, 14, 16, 17, 18, 32, 33, 63], firstSt (instrChecks (opc o)) = none ∧ uiOpc (opc o) = o)
    ∧ (runningOn passing 0 = some (0, inPass) ∧ udNvec inPass.desc = 1 ∧ inPass.vdone = 0)
    ∧ (srvRuns passing 0 = true ∧ headIn passing 0 3 0 .serving = some inPass
      ∧ headIn (updRun passing 0 inPass 1) 0 3 0 .serving = none)
    ∧ usIn (streamRec streamTab 0) = true ∧ usOut (streamRec streamTab 0) = true
    ∧ isOk (loadVec passing 0 (stepBody inPass (opc 32)) (streamRec streamTab 0) 0).2 = true := by
  repeat' apply And.intro
  all_goals decide +kernel

/-- Eight tokens of twelve experts routed by one to eight destinations; a bitmap; counts of sixteen experts; flags of eight instances. -/
def dispEntry (kind : Nat) : BitVec 256 :=
  BitVec.ofNat 256 (kind * 2 ^ 252 + (if kind = 1 then 11 * 2 ^ 241 + 7 * 2 ^ 214 + 4 * 2 ^ 194 else 0) + (if kind = 3 then 15 * 2 ^ 241 + 16 * 2 ^ 179 else 0))
def withEntry (kind : Nat) (q : SrvReq) : SrvReq := { q with disp := [dispEntry kind] }
def dispDesc (kind : Nat) : Nat :=
  ([0, 1, 2, 3].map fun k => if kind = 1 ∨ k = 0 ∨ (k = 1 ∧ kind ≠ 4) then (4096 * (k + 1)) * 2 ^ (256 + 64 * k) + 4096 * 2 ^ (128 + 32 * k) else 0).sum
    + (if kind = 1 ∨ kind = 3 then 64 * 2 ^ 96 else 0) + 8 * 2 ^ 72
def dispatching (kind : Nat) : State := waitsIn 4 (dispDesc kind) [] (withEntry kind)
def dispBytes (kind : Nat) : List Byte :=
  if kind = 4 then (List.replicate 8 (1 :: List.replicate 31 0)).flatten else List.replicate (dispNeed (BitVec.ofNat 512 (dispDesc kind)) (dispEntry kind) 0) 0
def dispGood (kind : Nat) : Bool :=
  match dispOut (BitVec.ofNat 512 (dispDesc kind)) (dispEntry kind) (dispBytes kind) with
  | .ok o => linesWhole (dispatching kind) (getCtx (dispatching kind) 0) 0 o.writes
  | .error _ => false
def dispReq (kind : Nat) : SrvReq := taken 4 (dispDesc kind) (withEntry kind)
theorem witness_DispatchEngines :
    (∀ kind ∈ [1, 2, 3, 4], startHead noPre (dispatching kind) 0 4 0 = .go (noted (dispatching kind) 4 (withEntry kind)) (dispReq kind)
      ∧ doKind (dispOp (dispReq kind) (dispReq kind).desc) = kind ∧ (dispCheck (dispatching kind) 0 (dispReq kind)).2 = none
      ∧ isOk (virtRead (dispatching kind) ⟨0, some 0⟩ (getCtx (dispatching kind) 0) 0 4096
          (dispNeed (dispReq kind).desc (dispEntry kind) 0)).2 = true)
    ∧ (dispCheck (dispatching 4) 0 { dispReq 4 with desc := 0 }).2 = some stField
    ∧ (∀ kind ∈ [1, 2, 3, 4], dispGood kind = true)
    ∧ isOk (dispOut (dispReq 4).desc (dispEntry 4) (List.replicate 256 0)) = false
    ∧ headIn (serving [] [{ req0 4 with phase := .ready }]) 0 4 0 .ready = some { req0 4 with phase := .ready }
    ∧ srvRuns up 0 = false := by
  repeat' apply And.intro
  all_goals decide +kernel

/-! ### Witnesses: collectives -/

/-- A group of two members, stations 8 and 9, on one BOARD level. -/
def groupRec : List Byte :=
  leBytes 64 (1 * 2 ^ 448 + 1 * 2 ^ 434 + (1 * 2 ^ 18 + 1 * 2 ^ 16) * 2 ^ 288) ++ leBytes 8 (8 * 2 ^ 40) ++ leBytes 8 (9 * 2 ^ 40)
def collDesc (op : Nat) : Nat :=
  16384 * 2 ^ 448 + (if op = 3 ∨ op = 4 then 0 else 0x20000 * 2 ^ 320 + 0x40000 * 2 ^ 160)
    + (if op = 6 then 0x200000 else 0x80000) * 2 ^ 256 + 4096 * 2 ^ 192 + 4096 * 2 ^ 128 + 4096 * 2 ^ 96
    + (if op = 5 then 0 else if op ≤ 2 then 256 else 64) * 2 ^ 64 + op * 2 ^ 60
def collecting (op : Nat) : State :=
  modCtx (onFabric (waitsIn 5 (collDesc op) ((16384, groupRec) :: if op = 6 then [(0x20000, [1])] else []))) 0 fun x => { x with
    maps := x.maps ++ [⟨0x200000, dieBase 0, false, true⟩] }
def collTaken (op : Nat) : SrvReq := taken 5 (collDesc op)
theorem witness_Collectives_starts :
    (∀ op ∈ [1, 2, 3, 4, 5, 6], goes (collecting op) 5 (collDesc op) ∧ cdOp (collTaken op).desc = op
      ∧ isOk (collCheck (collecting op) 0 (collTaken op)).2 = true)
    ∧ isOk (collCheck (collecting 3) 0 { collTaken 3 with desc := BitVec.ofNat 512 (3 * 2 ^ 60) }).2 = false := by
  unfold goes
  repeat' apply And.intro
  all_goals decide +kernel

def grantOf (ctx : CtxId) (seq len : Nat) : CollGrant := ⟨ctx, 1, seq, 3, len, 0, 0, 0, 0, 1, 0, 0, 9, 0⟩
def pieceOf (ctx : CtxId) (seq len : Nat) : Piece := ⟨ctx, 1, seq, 3, len, 0, 0, 0, 0, 0, 1, 1, 0, List.replicate 64 7, 9, 0, false, 0⟩
def inColl (op : Nat) (k : CollSt) : State := onFabric (serving [] [coll5 op k])
def past : State := modCtx (inColl 3 theColl) 0 fun x => { x with groups := [⟨1, 0, 5, [4]⟩] }
def ragged : CollSt := { theColl with sends := [0, 0] }
/-- The send count of member 1. -/
def count1 (len n : Nat) : SendCount := ⟨⟨0, 1, 0, 5, len, 0, 0, 0, 0, 1, 0, 0, 9, 0⟩, n⟩
def ackOf (k : CollSt) : PieceAck := ⟨k.hash, k.seq, 1, 0, 0⟩
def sentColl : CollSt := { theColl with sent := [(1, 0, 0, 1)] }
theorem witness_Collectives :
    (collHeard (inColl 3 theColl) = true ∧ ctxOpen (inColl 3 theColl) 1 = false ∧ ctxOpen (inColl 3 theColl) 0 = true)
    ∧ (findCollAny (inColl 3 theColl) 0 1 9 = none ∧ pastSeq (inColl 3 theColl) 0 1 9 = false ∧ collHeard past = true
      ∧ findCollAny past 0 1 4 = none ∧ pastSeq past 0 1 4 = true)
    ∧ findCollAny (inColl 3 theColl) 0 1 0 = some (coll5 3 theColl, theColl)
    ∧ (grantDiffers (coll5 3 theColl).desc theColl (grantOf 0 0 64) = false ∧ grantDiffers (coll5 3 theColl).desc theColl (grantOf 0 0 128) = true)
    ∧ (pieceDiffers (coll5 3 theColl).desc theColl (pieceOf 0 0 64) = false ∧ pieceDiffers (coll5 3 theColl).desc theColl (pieceOf 0 0 128) = true
      ∧ (1, 0, 1) ∈ inKeys (coll5 3 theColl).desc theColl ∧ whole (coll5 3 theColl).desc theColl (1, 0, 1) = false
      ∧ (held theColl 0 1 1).length + 64 ≤ pieceBytes (coll5 3 theColl).desc theColl (1, 0, 1) true)
    ∧ (findColl (inColl 5 ragged) 0 0 1 0 = some (coll5 5 ragged) ∧ (coll5 5 ragged).coll = some ragged ∧ cdOp (coll5 5 ragged).desc = 5
      ∧ ragged.recvs = [] ∧ (∀ i < ragged.n, i = ragged.rank ∨ ∃ n ∈ [count1 0 64], n.req.rank = i)
      ∧ (∀ n ∈ [count1 0 64], grantDiffers (coll5 5 ragged).desc ragged n.req = false) ∧ 64 ≤ cdDstWin (coll5 5 ragged).desc
      ∧ cdDstWin (coll5 5 ragged).desc < (count1 0 8192).n)
    ∧ (begun past 0 1 3 = true ∧ pastSeq past 0 1 3 = false ∧ begun (inColl 3 theColl) 0 1 9 = false)
    ∧ ((1, 0, 0) ∈ outKeys (coll5 3 sentColl).desc sentColl ∧ sentKey (coll5 3 sentColl).desc sentColl (1, 0, 0) = true
      ∧ sentColl.acked.contains (1, 0, 0) = false ∧ findColl (inColl 3 sentColl) 0 0 1 0 = some (coll5 3 sentColl))
    ∧ ({ sentColl with acked := [(1, 0, 0)] } : CollSt).acked.contains (1, 0, 0) = true := by
  repeat' apply And.intro
  all_goals decide +kernel

/-! ### Witnesses: beats, CTRL words, tile words -/

theorem witness_BeatBoundary :
    ((getCtx up 0).run ≠ .running ∧ (withCtx .running).pkg.computeReset = false)
    ∧ (getCtx (withCtx .running fun x => { x with is := { x.is with reset := some resetInfo } }) 0).is.reset = some resetInfo
    ∧ (reefHolds 15 1 = true ∧ reefHolds 15 0 = false ∧ reefHolds 0 15 = false)
    ∧ (let x := getCtx (withCtx .running) 0
       x.run = .running ∧ x.is.reset = none ∧ nextPass x.is = none ∧ x.is.tickDue = false ∧ x.is.rep = 0)
    ∧ (let x := getCtx (withCtx .running fun x => { x with is := { x.is with tickDue := true, rep := 1 } }) 0
       nextPass x.is = none ∧ x.is.tickDue = true ∧ x.is.rep ≠ 0 ∧ x.fr.num ≠ BitVec.allOnes 48)
    ∧ nextPass { Issue.init with pass := some ([], 0) } = some ([], 0)
    ∧ (getCtx (dueStop (withCtx .running) 0 stTokenOver) 0).is.stopDue ≠ [] := by
  repeat' apply And.intro
  all_goals decide +kernel

/-- A CTRL word of a kind over its fields. -/
def ctrl (kind fields : Nat) : BitVec 128 := BitVec.ofNat 128 (7 * 2 ^ 124 + kind * 2 ^ 104 + fields)
def counted (t v cp : Nat) : Ctx :=
  getCtx (withCtx .running fun x => { x with
    tokens := [(0, BitVec.ofNat 16 t)], value := [(0, BitVec.ofNat 16 v)], cap := [(0, BitVec.ofNat 16 cp)] }) 0
theorem witness_ControlWords :
    (∀ k ∈ [0, 1, 2, 3, 4, 5], swClass (ctrl k (2 ^ 15)) = 7 ∧ ctrlKind (ctrl k (2 ^ 15)) = k)
    ∧ (∀ p ∈ [(0, 2 ^ 94 + 2 ^ 68), (1, 2 ^ 70), (2, 0), (3, 2 ^ 72), (4, 0), (5, 0)], ctrlOk (ctrl p.1 p.2) = true)
    ∧ (∀ p ∈ [(0, 1), (1, 0), (2, 1), (3, 0), (4, 1), (5, 1)], ctrlOk (ctrl p.1 p.2) = false)
    ∧ (gatesMet (counted 1 0 0) ((wordGates (ctrl 0 (2 ^ 94 + 2 ^ 68))).filter fun g => g.1 != 0) = true
      ∧ gatesMet (counted 0 0 0) ((wordGates (ctrl 0 (2 ^ 94 + 2 ^ 68))).filter fun g => g.1 != 0) = false)
    ∧ (tokenVal (counted 65534 0 0) 0 + 1 = 65535 ∧ tokenVal (counted 65535 0 0) 0 + 1 = 65536)
    ∧ ((tget 0 (counted 0 4 5).value 0).toNat + 1 = (tget 0 (counted 0 4 5).cap 0).toNat
      ∧ (tget 0 (counted 0 5 5).cap 0).toNat < (tget 0 (counted 0 5 5).value 0).toNat + 1) := by
  repeat' apply And.intro
  all_goals decide +kernel

/-- A routine word on tile 0: recipe 4 (FP32), ACC_OP, operation bits. -/
def word (acc op : Nat) : TileOp := ⟨0, 0, BitVec.ofNat 128 (4 * 2 ^ 95 + acc * 2 ^ 92), BitVec.ofNat 64 op, 0⟩
/-- Context 0 running on tile 0, its set 0 in a state, with regions. -/
def onTile (started held : Bool) (rs : List Region) : State :=
  setTile (withCtx .running) 0 { Tile.init with set0 := { ASet.init with started := started, held := held }, regions := rs }
def tw (o : TileOp) : TW := soloTW (getCtx (onTile true false []) 0) o 0
def region1 : Region := ⟨0, 32, 0, 0, []⟩

/-- A word without a block start runs as it stands. -/
theorem word_runs {s : State} {o : TileOp} {w : TW} (h : physTile (getCtx s o.ctx) o.tile = some w.t)
    (hw : w = soloTW (getCtx s o.ctx) o w.t) (hr : (getCtx s o.ctx).run = .running) (hc : s.pkg.computeReset = false)
    (hp : pairingOk o.rw = true) (ha : twAccOp o.sw ≠ 1) : WordRuns s o w s :=
  ⟨⟨w.t, h, hw⟩, hr, hc, hp, by rw [if_neg ha]⟩

/-- A word that starts its block runs in the state after the start. -/
theorem word_starts {s : State} {o : TileOp} {w : TW} (h : physTile (getCtx s o.ctx) o.tile = some w.t)
    (hw : w = soloTW (getCtx s o.ctx) o w.t) (hr : (getCtx s o.ctx).run = .running) (hc : s.pkg.computeReset = false)
    (hp : pairingOk o.rw = true) (ha : twAccOp o.sw = 1) (hq : pairOk (getCtx s o.ctx) o.sw = true) (hh : (twSet s w).held = false) :
    ∃ u, WordRuns s o w u :=
  ⟨_, ⟨w.t, h, hw⟩, hr, hc, hp, by rw [if_pos ha]; exact ⟨hq, hh, rfl⟩⟩

theorem runs (b h : Bool) (rs : List Region) (op : Nat) (hp : pairingOk (BitVec.ofNat 64 op) = true) :
    WordRuns (onTile b h rs) (word 0 op) (tw (word 0 op)) (onTile b h rs) := by
  have t : physTile (getCtx (withCtx .running) 0) 0 = some 0 := by decide +kernel
  have a : twAccOp (BitVec.ofNat 128 (4 * 2 ^ 95 + 0 * 2 ^ 92)) ≠ 1 := by decide +kernel
  exact word_runs t rfl (by decide +kernel : (getCtx (withCtx .running) 0).run = .running) rfl hp a

/-- A word whose first operand address lies past the tile store: it runs too, to its stop. -/
def farWord (op : Nat) : TileOp := ⟨0, 0, BitVec.ofNat 128 (4 * 2 ^ 95 + 0xFFFFF * 2 ^ 60), BitVec.ofNat 64 op, 0⟩
theorem far_runs (op : Nat) (hp : pairingOk (BitVec.ofNat 64 op) = true) :
    WordRuns (onTile true false []) (farWord op) (tw (farWord op)) (onTile true false []) := by
  have t : physTile (getCtx (withCtx .running) 0) 0 = some 0 := by decide +kernel
  have a : twAccOp (BitVec.ofNat 128 (4 * 2 ^ 95 + 0xFFFFF * 2 ^ 60)) ≠ 1 := by decide +kernel
  exact word_runs t rfl (by decide +kernel : (getCtx (withCtx .running) 0).run = .running) rfl hp a

/-- MAC, transposed MAC with its unit, DRAIN, CLEAR, a load. -/
def wMac : TileOp := word 0 (1 * 2 ^ 60)
def wMacT : TileOp := word 0 (2 * 2 ^ 60 + 2 * 2 ^ 54)
def wDrain : TileOp := word 0 (3 * 2 ^ 60)
def wClear : TileOp := word 0 (4 * 2 ^ 60)
def wLoad : TileOp := word 0 (1 * 2 ^ 54)
/-- A MAC of recipe 0 that starts its block. -/
def wStart : TileOp := ⟨0, 0, BitVec.ofNat 128 (2 ^ 92), BitVec.ofNat 64 (2 ^ 60), 0⟩
def started : State := onTile true false []
theorem witness_MatrixWords_runs :
    WordRuns started wMac (tw wMac) started ∧ WordRuns (onTile true false [region1]) wMacT (tw wMacT) (onTile true false [region1])
    ∧ WordRuns started wDrain (tw wDrain) started ∧ WordRuns started wClear (tw wClear) started ∧ WordRuns started wLoad (tw wLoad) started
    ∧ WordRuns (onTile true true []) wMac (tw wMac) (onTile true true []) ∧ WordRuns (onTile false false []) wMac (tw wMac) (onTile false false [])
    ∧ (∃ u, WordRuns started wStart (tw wStart) u) := by
  refine ⟨runs _ _ _ _ ?_, runs _ _ _ _ ?_, runs _ _ _ _ ?_, runs _ _ _ _ ?_, runs _ _ _ _ ?_, runs _ _ _ _ ?_, runs _ _ _ _ ?_,
    word_starts ?_ rfl ?_ rfl ?_ ?_ ?_ ?_⟩
  all_goals decide +kernel

theorem witness_MatrixWords :
    macShape (pairClass (rcFormat (twSet started (tw wMac)).recB)) = (4, 4, 4)
    ∧ (rwMxop wMac.rw = 1 ∧ (twSet started (tw wMac)).started = true ∧ (twSet started (tw wMac)).held = false
      ∧ spFind (getCtx started 0) (twB (tw wMac)) (storeBytes 0 128) = .ok none
      ∧ isOk (readOperand (tw wMac) 0 (twA (tw wMac)) 4 4 none started).2 = true
      ∧ isOk (readOperand (tw wMac) 0 (twB (tw wMac)) 32 4 none started).2 = true)
    ∧ (rwMxop wMacT.rw = 2 ∧ (getTile (onTile true false [region1]) (tw wMacT).t).regions = [region1] ∧ region1.ready ≤ (tw wMacT).cyc
      ∧ regionRow (rcFormat region1.recB) = regionRow (rcFormat (twSet (onTile true false [region1]) (tw wMacT)).recB)
      ∧ isOk (readOperand (tw wMacT) 0 (twA (tw wMacT)) 4 4 none (onTile true false [region1])).2 = true)
    ∧ rwMxop wClear.rw = 4
    ∧ (rwMxop wDrain.rw = 3 ∧ (convWrites (twRec started (tw wDrain)) (twD (tw wDrain))
        (convert (twConv started (tw wDrain) (twRec started (tw wDrain)) (twD (tw wDrain))) 0
          (drainBlocks 0 ((List.replicate 1024 (0 : Fp)).map fun v => XVal.scale (fpv v) 0)))).isSome = true)
    ∧ (rwTxop wLoad.rw = 1 ∧ (getTile started (tw wLoad).t).regions.length < 2 ∧ twA (tw wLoad) % 1024 = 0 ∧ twA (tw wLoad) + 8192 ≤ tileSize
      ∧ has24 0 = false ∧ isOk (readUnits (tw wLoad) 0 0 (regionRows 0) 32 none started).2 = true)
    ∧ (rwTxop wLoad.rw = 1 ∧ loadBreaks (tw wLoad) started = false ∧ loadBreaks (tw wLoad) (onTile true false [region1, region1]) = true)
    ∧ (rwTxop wClear.rw ≠ 1 ∧ rwTxop wDrain.rw ≠ 1 ∧ twA (tw wMac) < tileSize ∧ twB (tw wMac) < tileSize
      ∧ twB (tw wMac) + storeBytes 0 128 ≤ tileSize ∧ has24 1 = true)
    ∧ (twSet (onTile true true []) (tw wMac)).held = true ∧ (twSet (onTile false false []) (tw wMac)).started = false := by
  repeat' apply And.intro
  all_goals decide +kernel

/-- Mesh words to tile 7, and to a tile that the context lacks. -/
def wMesh (op dest : Nat) : TileOp := word 0 (op * 2 ^ 51 + dest * 2 ^ 33)
def landing : MeshSend := ⟨4, 0, 7, 0, List.replicate 256 7⟩
def flying : State := withCtx .running fun x => { x with is := { x.is with mesh := [landing] } }
theorem witness_MeshWords :
    (∀ op dest, pairingOk (BitVec.ofNat 64 (op * 2 ^ 51 + dest * 2 ^ 33)) = true →
      WordRuns started (wMesh op dest) (tw (wMesh op dest)) started)
    ∧ (∀ op ∈ [1, 2, 3], pairingOk (wMesh op 7).rw = true ∧ pairingOk (wMesh op 8).rw = true ∧ rwMsop (wMesh op 7).rw = op
      ∧ rwMdest (wMesh op 7).rw < nTiles (getCtx started 0) ∧ nTiles (getCtx started 0) ≤ rwMdest (wMesh op 8).rw)
    ∧ isOk (tileRead (tw (wMesh 1 7)) (twD (tw (wMesh 1 7))) 256 started).2 = true
    ∧ (getCtx started 0).is.mesh = []
    ∧ firstMesh (getCtx flying 0).is.mesh = some landing ∧ physTile (getCtx flying 0) landing.dst = some 112 := by
  refine ⟨fun _ _ h => runs _ _ _ _ h, ?_⟩
  repeat' apply And.intro
  all_goals decide +kernel

theorem witness_MeshWords_far :
    ∀ op ∈ [1, 2, 3], pairingOk (farWord (op * 2 ^ 51)).rw = true ∧ tileSize < twD (tw (farWord (op * 2 ^ 51))) + 256 := by
  decide +kernel

/-- A vector word; one whose A lies past the store. -/
def wVec (op a : Nat) : TileOp := word 0 (op * 2 ^ 56 + a * 2 ^ 22)
theorem witness_VectorWords :
    (∀ op a, pairingOk (BitVec.ofNat 64 (op * 2 ^ 56 + a * 2 ^ 22)) = true → WordRuns started (wVec op a) (tw (wVec op a)) started)
    ∧ (∀ op ∈ [1, 2, 3, 4, 5, 6, 7, 8, 9, 10, 11, 12], rwVxop (wVec op 0).rw = op ∧ pairingOk (wVec op 0).rw = true)
    ∧ (twD (tw (wVec 1 0)) + 1024 ≤ tileSize ∧ isOk (readLanes (tw (wVec 1 0)) 0 started).2 = true)
    ∧ (∀ op ∈ [1, 3, 12], twD (tw (wVec op 0)) + 1024 ≤ tileSize ∧ isOk (readLanes (tw (wVec op 0)) (twA (tw (wVec op 0))) started).2 = true
      ∧ isOk (readLanes (tw (wVec op 0)) (twB (tw (wVec op 0))) started).2 = true
      ∧ isOk (readLanes (tw (wVec op 0)) (twD (tw (wVec op 0))) started).2 = true)
    ∧ (isOk (readUnits (tw (wVec 9 0)) 0 0 (256 / blkElems 0) (blkElems 0) none started).2 = true ∧ convOver 0 (twD (tw (wVec 9 0))) 256 = false
      ∧ (convWrites (twRec started (tw (wVec 9 0))) 0 (convert (twConv started (tw (wVec 9 0)) (twRec started (tw (wVec 9 0))) 0) 0
          (laneBlocks 0 (List.replicate 256 (.num false 0 0))))).isSome = true)
    ∧ (∀ op ∈ [1, 2, 3, 4, 5, 6, 7, 8, 10, 11, 12], pairingOk (farWord (op * 2 ^ 56)).rw = true
      ∧ tileSize < twA (tw (farWord (op * 2 ^ 56))) + 1024) := by
  refine ⟨fun _ _ h => runs _ _ _ _ h, ?_⟩
  repeat' apply And.intro
  all_goals decide +kernel

theorem witness_SwapExchangesBanks : (0x3F : Nat) ≤ 63 ∧ 0x3F >>> 5 % 2 = 1 ∧ (0 : Nat) >>> 5 % 2 ≠ 1 := by decide

theorem witness_AnswersComplete : (Ans.pay_ [1, 2]).pay.length < 2 ^ 32 ∧ (Ans.fail stReserved noField).detail < 2 ^ 32 := by decide

theorem witness_StepKeepsMemoryForm :
    (memWrite State.reset 64 [7]).mem.wf = true ∧ (memWrite State.reset 64 [7]).mem.bytes ≠ [] := by decide +kernel

end Sys2Proof.Tests
end

/-! PROOF. Swaps (R39 to R44, R459): what a swap does to a context, field by field, what the bodies of SWAP and WITHDRAW answer,
and the two obligations about them. -/

namespace Sys2Proof.Machine

/-! ### A swap of banks -/

@[simp] theorem Bank.flip_act {α : Type} (b : Bank α) : b.flip.act = b.sha := rfl
@[simp] theorem Bank.flip_sha {α : Type} (b : Bank α) : b.flip.sha = b.act := rfl
@[simp] theorem Bank.flip_flip {α : Type} (b : Bank α) : b.flip.flip = b := rfl

section
variable (x : Ctx) (mask : Nat)

theorem swapCtx_prog : (swapCtx x mask).prog = if mask >>> 0 % 2 = 1 then x.prog.flip else x.prog := by simp [swapCtx]
theorem swapCtx_lib : (swapCtx x mask).lib = if mask >>> 1 % 2 = 1 then x.lib.flip else x.lib := by simp [swapCtx]
theorem swapCtx_recipes : (swapCtx x mask).recipes = if mask >>> 2 % 2 = 1 then x.recipes.flip else x.recipes := by simp [swapCtx]
theorem swapCtx_ret : (swapCtx x mask).ret = if mask >>> 3 % 2 = 1 then x.ret.flip else x.ret := by simp [swapCtx]
theorem swapCtx_disp : (swapCtx x mask).disp = if mask >>> 4 % 2 = 1 then x.disp.flip else x.disp := by simp [swapCtx]
theorem swapCtx_updp : (swapCtx x mask).updp = if mask >>> 5 % 2 = 1 then x.updp.flip else x.updp := by simp [swapCtx]
theorem swapCtx_is : (swapCtx x mask).is = if mask >>> 0 % 2 = 1 then { x.is with fresh := true } else x.is := by simp [swapCtx]
@[simp] theorem swapCtx_fr : (swapCtx x mask).fr = x.fr := rfl

/-- No swap of the mask stays pending: it has taken effect. -/
theorem swapCtx_pend_and_mask : (swapCtx x mask).pend &&& BitVec.ofNat 8 mask = 0 := by
  change x.pend &&& ~~~(BitVec.ofNat 8 mask) &&& BitVec.ofNat 8 mask = 0
  rw [BitVec.and_assoc, BitVec.and_comm (~~~_), BitVec.and_not_self]
  simp

end

section
variable {α : Type} {p : Prop} [Decidable p] (b : Bank α)

/-- A bank flipped where its bit is on has its sides exchanged there and is otherwise the same. -/
theorem Bank.ite_flip_cases {y : Bank α} (h : y = if p then b.flip else b) :
    (p → y.act = b.sha ∧ y.sha = b.act) ∧ (¬p → y = b) := by
  subst h
  exact ⟨fun hp => by simp [hp], fun hp => by simp [hp]⟩

/-- Flipping twice under one condition changes nothing. -/
theorem Bank.ite_flip_twice : (if p then (if p then b.flip else b).flip else if p then b.flip else b) = b := by
  by_cases h : p <;> simp [h]

end

/-- The same swap again puts every bank back. -/
theorem swapCtx_twice (x : Ctx) (mask : Nat) :
    (swapCtx (swapCtx x mask) mask).prog = x.prog ∧ (swapCtx (swapCtx x mask) mask).lib = x.lib
      ∧ (swapCtx (swapCtx x mask) mask).recipes = x.recipes ∧ (swapCtx (swapCtx x mask) mask).ret = x.ret
      ∧ (swapCtx (swapCtx x mask) mask).disp = x.disp ∧ (swapCtx (swapCtx x mask) mask).updp = x.updp := by
  simp only [swapCtx_prog, swapCtx_lib, swapCtx_recipes, swapCtx_ret, swapCtx_disp, swapCtx_updp, Bank.ite_flip_twice,
    and_self]

/-- Settles O10: each bank is flipped where its bit of the mask is on, and flipping twice changes nothing. -/
theorem swapExchangesBanks : Obligations.SwapExchangesBanks := by
  intro x mask _ y on
  obtain ⟨progOn, progOff⟩ := Bank.ite_flip_cases _ (swapCtx_prog x mask)
  obtain ⟨libOn, libOff⟩ := Bank.ite_flip_cases _ (swapCtx_lib x mask)
  obtain ⟨recOn, recOff⟩ := Bank.ite_flip_cases _ (swapCtx_recipes x mask)
  obtain ⟨retOn, retOff⟩ := Bank.ite_flip_cases _ (swapCtx_ret x mask)
  obtain ⟨dispOn, dispOff⟩ := Bank.ite_flip_cases _ (swapCtx_disp x mask)
  obtain ⟨updOn, updOff⟩ := Bank.ite_flip_cases _ (swapCtx_updp x mask)
  have isOn (h : on 0) : y.is.fresh = true := by rw [swapCtx_is, if_pos h]
  have isOff (h : ¬on 0) : y.is = x.is := (swapCtx_is x mask).trans (if_neg h)
  refine ⟨fun h => ⟨(progOn h).1, (progOn h).2, isOn h⟩, fun h => ⟨progOff h, isOff h⟩, libOn, libOff, recOn, recOff,
    retOn, retOff, dispOn, dispOff, updOn, updOff, swapCtx_pend_and_mask x mask, rfl, rfl, rfl, rfl, rfl, swapCtx_twice x mask⟩

/-! ### SWAP and WITHDRAW -/

/-- Swaps of a mask that is not empty take effect with their event, which names the frame the context is in. -/
theorem applySwaps_of_ne_zero (s : State) (c : CtxId) {mask : Nat} (h : mask ≠ 0) :
    applySwaps s c mask
      = raise (modCtx s c fun x => swapCtx x mask) (ctxEvent c evSwapApplied mask (getCtx s c).fr.num.toNat 0 0 0) := by
  simp [applySwaps, h]

section
variable {s : State} {n c : CtxId} {p : List Byte} (h0 : pf p 0 1 ≠ 0) (h63 : pf p 0 1 ≤ 63) (hrsv : pf p 1 7 = 0)
include h0 h63 hrsv

section
variable (hpend : pf p 0 1 &&& (getCtx s c).pend.toNat = 0)
include hpend

theorem swap_checks_pass :
    ∀ k ∈ [bad 0 (pf p 0 1 == 0 || decide (pf p 0 1 > 63)), (0, pf p 0 1 &&& (getCtx s c).pend.toNat != 0, stSwapPending),
      rsv p 1 8], k.2.1 = false := by
  simp [bad, rsv, h0, h63, hrsv, hpend]

/-- SWAP answers the first check that a shadow it names fails. -/
theorem bodySwap_of_bad {u : State} {b : BankBad}
    (hf : (bitsOf 6 (pf p 0 1)).foldl (checkBank c) (s, none) = (u, some b)) : bodySwap s n c p = (u, .now b.ans) := by
  rw [bodySwap, checked_ok (swap_checks_pass h0 h63 hrsv hpend), hf]

/-- With every shadow in order, SWAP acts at once while IDLE and else leaves its swaps to the tick. -/
theorem bodySwap_of_ok {u : State} (hf : (bitsOf 6 (pf p 0 1)).foldl (checkBank c) (s, none) = (u, none)) :
    bodySwap s n c p = (if (getCtx u c).run = .idle then applySwaps u c (pf p 0 1)
      else modCtx u c fun x => { x with pend := x.pend ||| BitVec.ofNat 8 (pf p 0 1) }, .now .ok) := by
  rw [bodySwap, checked_ok (swap_checks_pass h0 h63 hrsv hpend), hf]
  dsimp only
  split <;> rfl

end

/-- WITHDRAW clears its mask in the pending swaps and in the took-effect flags, and answers the flags it cleared (R43). -/
theorem bodyWithdraw_of_valid :
    bodyWithdraw s n c p
      = (setCtx s c { getCtx s c with
          pend := (getCtx s c).pend &&& ~~~(BitVec.ofNat 8 (pf p 0 1))
          applied := (getCtx s c).applied &&& ~~~(BitVec.ofNat 8 (pf p 0 1)) },
        .now ⟨if (getCtx s c).applied.toNat &&& pf p 0 1 = 0 then stOk else stSwapTook, noField,
          leBytes 8 ((getCtx s c).applied.toNat &&& pf p 0 1)⟩) := by
  have hk : ∀ k ∈ [bad 0 (pf p 0 1 == 0 || decide (pf p 0 1 > 63)), rsv p 1 8], k.2.1 = false := by
    simp [bad, rsv, h0, h63, hrsv]
  rw [bodyWithdraw, checked_ok hk]

end

/-- Posting a request leaves every context as it is. -/
theorem getCtx_posted (s : State) (r : Req) (c : CtxId) : getCtx (posted s r) c = getCtx s c := rfl

/-- An accepted SWAP answers as its body does on the posted state. -/
theorem exec_swap_now {s : State} {r : Req} (h : Accepts s r 0x0403 8 true .idleOrRunning) {u : State} {a : Ans}
    (hb : bodySwap (posted s r) r.fn (reqCtx r) r.payload = (u, .now a)) : exec (.swap r) s = .next (answer u r.fn a) :=
  congrArg Host.Outcome.next (mailbox_now ⟨0x0403, 8, true, .idleOrRunning⟩ bodySwap r s h (by decide) u a hb)

/-- An accepted WITHDRAW answers as its body does on the posted state. -/
theorem exec_withdraw_now {s : State} {r : Req} (h : Accepts s r 0x0404 8 true .exists_) {u : State} {a : Ans}
    (hb : bodyWithdraw (posted s r) r.fn (reqCtx r) r.payload = (u, .now a)) :
    exec (.withdraw r) s = .next (answer u r.fn a) :=
  congrArg Host.Outcome.next (mailbox_now ⟨0x0404, 8, true, .exists_⟩ bodyWithdraw r s h (by decide) u a hb)

/-- Settles O9: the checks of the payload pass, so each command does what its body says on the posted state, whose contexts are
those of the state before. -/
theorem swapAndWithdraw : Obligations.SwapAndWithdraw := by
  rintro s r _ _ rfl rfl h0 h63 hrsv
  refine ⟨fun u hacc hpend hfold => ?_, fun u b hacc hpend hfold => ?_, fun hacc => ?_⟩
  · rw [← getCtx_posted s r] at hpend
    rw [exec_swap_now hacc (bodySwap_of_ok h0 h63 hrsv hpend hfold), applySwaps_of_ne_zero _ _ h0]
    rfl
  · rw [← getCtx_posted s r] at hpend
    exact exec_swap_now hacc (bodySwap_of_bad h0 h63 hrsv hpend hfold)
  · exact exec_withdraw_now hacc (bodyWithdraw_of_valid h0 h63 hrsv)

end Sys2Proof.Machine

/-! PROOF. Posts that are lost (R452): each row of Table 12.10 is one use of `mailbox`, and a register write of MBX_POST or of the
request buffer comes down to the state of the function's mailbox. -/

namespace Sys2Proof.Machine

/-- Every mailbox command is the mailbox protocol run with its row, around a body of its own. -/
theorem exec_eq_mailbox {i : Instr} {cmd : Cmd} {r : Req} (h : mailRow i = some (cmd, r)) :
    ∃ body, ∀ s, exec i s = .next (mailbox cmd body r s) := by
  unfold mailRow at h
  split at h <;> cases h <;> exact ⟨_, fun _ => rfl⟩

/-! ### Register writes to the mailbox -/

/-- A record read from the bytes that spell it is the record. -/
theorem recAt_leBytes {k : Nat} (v : BitVec (8 * k)) : recAt (8 * k) (leBytes k v.toNat) 0 = v := by
  have hk : (8 * k + 7) / 8 = k := by omega
  have hv : v.toNat < 256 ^ k := by
    have := v.isLt
    rwa [Nat.pow_mul] at this
  rw [recAt, hk, List.drop_zero, List.take_of_length_le (leBytes_length k _).le, leNat_leBytes, Nat.mod_eq_of_lt hv,
    BitVec.ofNat_toNat, BitVec.setWidth_eq]

/-- A register write that reaches its function with a size and alignment of R447 is written to BAR0. -/
theorem exec_registerWrite {s : State} {n : CtxId} {off : Nat} {bs : List Byte} (hn : hostReaches s n = true)
    (hok : bar0Ok off bs.length = true) : exec (.registerWrite n off bs) s = .next (bar0Write s n off bs) := by
  simp only [hostReaches, Bool.and_eq_true, decide_eq_true_eq] at hn
  obtain ⟨⟨hlink, hperst⟩, hvf⟩ := hn
  have hreach : ¬ (!s.pkg.linkUp || !s.pins.perstN || decide (n.val > s.pkg.numVfs.val)) = true := by
    simpa [hlink, hperst] using hvf
  change Host.Outcome.next (registerWrite s n off bs) = _
  rw [registerWrite, if_neg hreach, if_pos hok]

/-- Four bytes written at the place of MBX_POST are a write of MBX_POST. -/
theorem bar0Write_post (s : State) (n : CtxId) (v : BitVec 32) : bar0Write s n 0x102000 (leBytes 4 v.toNat) = mbxPost s n v := by
  have hv : recAt 32 (leBytes 4 v.toNat) 0 = v := recAt_leBytes (k := 4) v
  have ht : (leBytes 4 v.toNat).take 4 = leBytes 4 v.toNat := List.take_of_length_le (leBytes_length 4 _).le
  simp [bar0Write, leBytes_length, List.range_one, mbxRegWrite, ht, hv]

/-- The two cases of R452 in which a write of MBX_POST is ignored. -/
theorem mbxPost_ignored {s : State} {n : CtxId} {v : BitVec 32} (h : (getFn s n).busy ≠ none ∨ v = (getFn s n).done) :
    mbxPost s n v = s := by
  rcases h with hbusy | rfl
  · simp [mbxPost, Option.isSome_iff_ne_none.2 hbusy]
  · simp [mbxPost]

/-- With a command outstanding the request buffer takes no bytes. -/
theorem bar0Write_req_busy {s : State} {n : CtxId} {off : Nat} {bs : List Byte} (hbusy : (getFn s n).busy ≠ none)
    (hlo : 0x100000 ≤ off) (hhi : off < 0x101000) : bar0Write s n off bs = s := by
  have hgstat : ¬ (0x1000 ≤ off ∧ off < 0x1008) := by omega
  have hmsix : ¬ (0x2000 ≤ off ∧ off < 0x2400) := by omega
  rw [bar0Write, if_neg hgstat, if_neg hmsix, if_pos ⟨hlo, hhi⟩, if_pos (Option.isSome_iff_ne_none.2 hbusy)]

/-- Settles O21: a whole post is lost as the mailbox protocol loses it, whatever the command; a register write leaves the mailbox as it
is in the two cases of R452, and the request buffer while a command is outstanding. -/
theorem mailboxIgnoresPosts : Obligations.MailboxIgnoresPosts := by
  refine ⟨fun i cmd s r hrow => ?_, fun s n hn => ⟨fun v hv => ?_, fun off bs hbusy hlo hhi hok => ?_⟩⟩
  · obtain ⟨body, hexec⟩ := exec_eq_mailbox hrow
    refine ⟨fun w hw hposted => ?_, fun hreached hfree hdone => ?_⟩
    · rw [hexec, mailbox_busy cmd body r s w hw hposted]
    · rw [hexec, mailbox_done cmd body r s hreached hfree hdone]
      rfl
  · rw [exec_registerWrite hn (by rw [leBytes_length]; decide), bar0Write_post, mbxPost_ignored hv]
  · rw [exec_registerWrite hn hok, bar0Write_req_busy hbusy hlo hhi]

end Sys2Proof.Machine

/-! PROOF. Memory's canonical form is kept (O59). `MemOk` says that a state's memory is in the form. Only `modMem` of a function
that keeps the bytes, `memWrite`, `memZero` and the host's cells build a memory, and of these the Laws say what they do to the form;
every other function of the model passes it on from the functions it calls. So there is one lemma for each function of the model,
in the model's order, which takes the form of its argument to that of its result and cites the lemmas of the functions called. -/

namespace Sys2Proof.Machine
section MemoryForm
variable {s : State}

/-- Memory is in its canonical form. -/
def MemOk (s : State) : Prop := s.mem.wf = true

/-- What a start gives keeps the form. -/
def Start.MemOk : Start → Prop
  | .idle => True
  | .bad s _ _ => Machine.MemOk s
  | .go s _ => Machine.MemOk s

/-- The state that the preparation of a bundle leaves. -/
def Prep.state : Prep → State
  | .hold s _ _ => s
  | .stop s _ => s
  | .issue s _ => s

/-! #### Ways to pass the form on -/

theorem memOk_of_bytes {t : State} (h : MemOk s) (e : t.mem.bytes = s.mem.bytes) : MemOk t := by
  unfold MemOk Memory.wf at *
  rw [e]
  exact h

theorem memOk_of_rec {t : State} (h : MemOk s) (r : Rec s t) : MemOk t := by
  unfold MemOk at *
  rw [r.mem]
  exact h

theorem memOk_ite {t u : State} {p : Prop} [Decidable p] (ht : MemOk t) (hu : MemOk u) : MemOk (if p then t else u) := by
  split
  · exact ht
  · exact hu

theorem memOk_foldl_by {α β : Type} (g : β → State) {f : β → α → β} (hf : ∀ r x, MemOk (g r) → MemOk (g (f r x))) (l : List α)
    {r : β} (h : MemOk (g r)) : MemOk (g (l.foldl f r)) := by
  induction l generalizing r with
  | nil => exact h
  | cons x l ih => exact ih (hf r x h)

theorem memOk_foldl {α : Type} {f : State → α → State} (hf : ∀ s x, MemOk s → MemOk (f s x)) (l : List α) (h : MemOk s) :
    MemOk (l.foldl f s) := memOk_foldl_by id hf l h

theorem memOk_foldl_fst {α β : Type} {f : State × β → α → State × β} (hf : ∀ (r : State × β) x, MemOk r.1 → MemOk (f r x).1)
    (l : List α) {r : State × β} (h : MemOk r.1) : MemOk (l.foldl f r).1 := memOk_foldl_by Prod.fst hf l h

theorem memOk_foldl_crun {α : Type} {f : CRun → α → CRun} (hf : ∀ (r : CRun) x, MemOk r.s → MemOk (f r x).s) (l : List α) {r : CRun}
    (h : MemOk r.s) : MemOk (l.foldl f r).s := memOk_foldl_by CRun.s hf l h

/-! #### Ops -/

theorem memOk_setCtx (h : MemOk s) (c x) : MemOk (setCtx s c x) := h

theorem memOk_modCtx (h : MemOk s) (c f) : MemOk (modCtx s c f) := by
  grind [modCtx, memOk_setCtx]

theorem memOk_setFn (h : MemOk s) (n x) : MemOk (setFn s n x) := h

theorem memOk_modFn (h : MemOk s) (n f) : MemOk (modFn s n f) := by
  grind [modFn, memOk_setFn]

theorem memOk_setTile (h : MemOk s) (t x) : MemOk (setTile s t x) := h

theorem memOk_setUnit (h : MemOk s) (u x) : MemOk (setUnit s u x) := h

theorem memOk_setLoop (h : MemOk s) (i x) : MemOk (setLoop s i x) := h

theorem memOk_setLane (h : MemOk s) (i x) : MemOk (setLane s i x) := h

theorem memOk_setLine (h : MemOk s) (i x) : MemOk (setLine s i x) := h

theorem memOk_setPort (h : MemOk s) (p x) : MemOk (setPort s p x) := h

theorem memOk_setCirc (h : MemOk s) (i x) : MemOk (setCirc s i x) := h

theorem memOk_modPins (h : MemOk s) (f) : MemOk (modPins s f) := h

theorem memOk_modPkg (h : MemOk s) (f) : MemOk (modPkg s f) := h

theorem memOk_modReef (h : MemOk s) (f) : MemOk (modReef s f) := h

theorem memOk_modMem (h : MemOk s) (f : Memory → Memory) (e : (f s.mem).bytes = s.mem.bytes) :
    MemOk (modMem s f) := memOk_of_bytes h e

theorem memOk_modOpt (h : MemOk s) (f) : MemOk (modOpt s f) := h

theorem memOk_modFab (h : MemOk s) (f) : MemOk (modFab s f) := h

theorem memOk_modHal (h : MemOk s) (f) : MemOk (modHal s f) := h

theorem memOk_modBoot (h : MemOk s) (f) : MemOk (modBoot s f) := h

theorem memOk_send (h : MemOk s) (t) : MemOk (send s t) := by
  grind [send, memOk_modFab]

theorem memOk_post (h : MemOk s) (cls c dst dstCtx xfer words bytes carries) :
    MemOk (post s cls c dst dstCtx xfer words bytes carries) := by
  grind [post, memOk_modFab]

theorem memOk_postAck (h : MemOk s) (c dst dstCtx xfer carries) : MemOk (postAck s c dst dstCtx xfer carries) := by
  grind [postAck, memOk_post]

theorem memOk_sampleCtx (h : MemOk s) (c) : MemOk (sampleCtx s c) := by
  grind [sampleCtx, MemOk]

theorem memOk_samplePkg (h : MemOk s) : MemOk (samplePkg s) := h

theorem memOk_drawNat (h : MemOk s) : MemOk (drawNat s).2 := h

theorem memOk_noteOnce (h : MemOk s) (code subj lenNs) : MemOk (noteOnce s code subj lenNs) := by
  grind [noteOnce, memOk_modHal]

theorem memOk_msixSignal (h : MemOk s) (n v) : MemOk (msixSignal s n v) := by
  grind [msixSignal, memOk_setFn, MemOk]

theorem memOk_fbAppend (h : MemOk s) (typ rows body0) : MemOk (fbAppend s typ rows body0) := by
  grind [fbAppend, memOk_modHal]

theorem memOk_fbInPlace (h : MemOk s) (row typ rows body0) : MemOk (fbInPlace s row typ rows body0) := by
  grind [fbInPlace, memOk_modHal]

theorem memOk_fbCounters (h : MemOk s) : MemOk (fbCounters s) := by
  grind [fbCounters, memOk_fbInPlace]

theorem memOk_announce (h : MemOk s) (n) : MemOk (announce s n) := by
  grind [announce, memOk_msixSignal, memOk_setFn]

theorem memOk_ringWrite (h : MemOk s) (n e) : MemOk (ringWrite s n e) := by
  grind [ringWrite, memOk_setFn, memOk_announce, memOk_msixSignal, MemOk]

theorem memOk_eventOut (h : MemOk s) (e) : MemOk (eventOut s e) := by
  grind [eventOut, memOk_modHal, memOk_ringWrite, memOk_foldl]

theorem memOk_eventLog (h : MemOk s) (e) : MemOk (eventLog s e) := by
  grind [eventLog, memOk_fbAppend, memOk_fbCounters, memOk_modHal, memOk_noteOnce]

theorem memOk_eventMgt (h : MemOk s) (e) : MemOk (eventMgt s e) := by
  grind [eventMgt, memOk_post]

theorem memOk_takeEvent (h : MemOk s) (e) : MemOk (takeEvent s e) := by
  grind [takeEvent, memOk_eventMgt, memOk_eventOut, memOk_eventLog]

theorem memOk_raise (h : MemOk s) (e) : MemOk (raise s e) := memOk_of_rec h (rec_raise ..)

theorem memOk_resetRecord (h : MemOk s) (domain cause ctxMask startNs escCount oos abandoned) :
    MemOk (resetRecord s domain cause ctxMask startNs escCount oos abandoned) := by
  grind [resetRecord, memOk_modHal, memOk_fbCounters, memOk_fbAppend]

theorem memOk_setReasons (h : MemOk s) (reasons) : MemOk (setReasons s reasons) := by
  grind [setReasons, memOk_modHal, memOk_fbCounters, memOk_raise]

theorem memOk_reasonOn (h : MemOk s) (n) : MemOk (reasonOn s n) := by
  grind [reasonOn, memOk_modHal, memOk_setReasons]

theorem memOk_reasonOff (h : MemOk s) (n) : MemOk (reasonOff s n) := by
  grind [reasonOff, memOk_setReasons]

/-! #### Mem -/

theorem memOk_tallyAdd (h : MemOk s) (n lenNs limit item distinct) : MemOk (tallyAdd s n lenNs limit item distinct) := by
  grind [tallyAdd, memOk_modHal, memOk_reasonOn]

theorem memOk_remapEnq (h : MemOk s) (row) : MemOk (remapEnq s row).1 := by
  grind [remapEnq, memOk_reasonOn, memOk_modMem]

theorem memOk_ceCount (h : MemOk s) (a p) : MemOk (ceCount s a p).1 := h

theorem memOk_logErr (h : MemOk s) (rd a cls pos syn pass) : MemOk (logErr s rd a cls pos syn pass) := by
  grind [logErr, memOk_modMem, memOk_tallyAdd, memOk_ceCount, memOk_remapEnq, memOk_fbInPlace, memOk_fbAppend, memOk_modHal]

theorem memOk_readLoc {r : State × Option MemBad} (h : MemOk r.1) (rd many u) : MemOk (readLoc rd many r u).1 := by
  unfold readLoc
  split
  · exact h
  · exact memOk_logErr h ..

theorem memOk_memRead (h : MemOk s) (rd a n) : MemOk (memRead s rd a n).1 := by
  have hl (us : List (Nat × List (Nat × Byte))) (b : Bool) : MemOk (us.foldl (readLoc rd b) (s, none)).1 :=
    memOk_foldl_fst (fun r u hr => memOk_readLoc hr rd b u) us h
  unfold memRead
  grind [memOk_modMem]

theorem memOk_memWrite (h : MemOk s) (a bs) : MemOk (memWrite s a bs) := memWrite_wf s a bs h

theorem memOk_memZero (h : MemOk s) (a n) : MemOk (memZero s a n) := memZero_wf s a n h

theorem memOk_walkGo (rd ls) (h : MemOk s) : MemOk (walkGo rd ls s).1 := by
  induction ls generalizing s with
  | nil => exact h
  | cons l r ih => grind [walkGo, memOk_memRead, memOk_memWrite]

theorem memOk_walk (h : MemOk s) (rd x ret va) : MemOk (walk s rd x ret va).1 := by
  grind [walk, memOk_walkGo]

theorem memOk_virtReadGo (h : MemOk s) (rd x ret ps) : MemOk (virtReadGo rd x ret ps s).1 := by
  induction ps generalizing s with
  | nil => exact h
  | cons p r ih =>
    have hw := memOk_walk h rd x ret p.1
    unfold virtReadGo
    split
    · exact h
    · next t ht =>
      split
      · exact h
      · split
        · next u hu => rw [hu] at hw; exact hw
        · next u hu =>
          rw [hu] at hw
          have hm := memOk_memRead hw rd (localPart t.addr) p.2
          split
          · next v _ hv => rw [hv] at hm; exact hm
          · next v _ hv =>
            rw [hv] at hm
            have := ih hm
            split <;> simp_all

theorem memOk_virtRead (h : MemOk s) (rd x ret va n) : MemOk (virtRead s rd x ret va n).1 := by
  grind [virtRead, memOk_virtReadGo]

theorem memOk_virtWrite (h : MemOk s) (x ret va bs) : MemOk (virtWrite s x ret va bs) := by
  grind [virtWrite, memOk_memWrite, memOk_foldl]

theorem memOk_stageWrite (h : MemOk s) (x ret t va bs) : MemOk (stageWrite s x ret t va bs).1 :=
  memOk_foldl_fst (fun r p hr => by grind [memOk_virtWrite]) _ h

/-! #### Ctx -/

theorem memOk_stopEvent (h : MemOk s) (c st why) : MemOk (stopEvent s c st why) := by
  grind [stopEvent, memOk_modHal, memOk_raise]

theorem memOk_nonfiniteEvent (h : MemOk s) (c tile aset cause beats tag) :
    MemOk (nonfiniteEvent s c tile aset cause beats tag) := by
  grind [nonfiniteEvent, memOk_raise]

theorem memOk_tileWrite (h : MemOk s) (t addr bs) : MemOk (tileWrite s t addr bs) := by
  grind [tileWrite, memOk_memWrite]

theorem memOk_landDrain (h : MemOk s) (c d) : MemOk (landDrain s c d) := by
  grind [landDrain, memOk_setTile, memOk_tileWrite, memOk_modCtx, memOk_nonfiniteEvent, memOk_foldl]

theorem memOk_landOne {r : State × List TWrite} (h : MemOk r.1) (c l) : MemOk (landOne c r l).1 := by
  unfold landOne
  split
  · split
    · exact h
    · exact memOk_tileWrite h ..
  · exact memOk_landDrain h ..

theorem memOk_landUntil (h : MemOk s) (c cycle) : MemOk (landUntil s c cycle).1 := by
  unfold landUntil
  dsimp only
  split
  · exact h
  · exact memOk_foldl_fst (fun r l hr => memOk_landOne hr c l) _ h

theorem memOk_dropReport (h : MemOk s) (c r) : MemOk (dropReport c s r) := by
  grind [dropReport, memOk_tileWrite, memOk_nonfiniteEvent, memOk_foldl]

theorem memOk_endIssue (h : MemOk s) (c) : MemOk (endIssue s c) := by
  grind [endIssue, memOk_landUntil, memOk_modCtx, memOk_dropReport, memOk_foldl]

theorem memOk_clearGrants (h : MemOk s) (c) : MemOk (clearGrants s c) := by
  grind [clearGrants, memOk_modMem]

theorem memOk_closeRequests (h : MemOk s) (c x) : MemOk (closeRequests s c x) := by
  grind [closeRequests, memOk_postAck, memOk_foldl]

theorem memOk_clearTiles (h : MemOk s) (x) : MemOk (clearTiles s x) := by
  grind [clearTiles, memOk_foldl, MemOk]

theorem memOk_enterReset (h : MemOk s) (c info) : MemOk (enterReset s c info) := by
  grind [enterReset, memOk_stopEvent, memOk_endIssue, memOk_closeRequests, memOk_clearGrants, memOk_setCtx, memOk_foldl]

theorem memOk_stopCtxW (h : MemOk s) (c st why) : MemOk (stopCtxW s c st why) := by
  grind [stopCtxW, memOk_stopEvent, memOk_modCtx, memOk_endIssue, memOk_enterReset, memOk_foldl]

theorem memOk_stopCtx (h : MemOk s) (c st) : MemOk (stopCtx s c st) := by
  grind [stopCtx, memOk_stopCtxW]

theorem memOk_dueStopW (h : MemOk s) (c st why) : MemOk (dueStopW s c st why) := by
  grind [dueStopW, memOk_modCtx, memOk_stopCtxW]

theorem memOk_dueStop (h : MemOk s) (c st) : MemOk (dueStop s c st) := by
  grind [dueStop, memOk_dueStopW]

theorem memOk_takeStops (h : MemOk s) (c) : MemOk (takeStops s c) := by
  grind [takeStops, memOk_stopCtxW, memOk_modCtx]

theorem memOk_raiseToken (h : MemOk s) (c k n) : MemOk (raiseToken s c k n) := by
  grind [raiseToken, memOk_dueStop, memOk_setCtx]

theorem memOk_returnCredit (h : MemOk s) (c p n) : MemOk (returnCredit s c p n) := by
  grind [returnCredit, memOk_dueStop, memOk_setCtx]

theorem memOk_setCount (h : MemOk s) (c n v) : MemOk (setCount s c n v) := by
  grind [setCount, memOk_modCtx]

theorem memOk_requestReset (h : MemOk s) (c info) : MemOk (requestReset s c info) := by
  grind [requestReset, memOk_setCtx, memOk_enterReset]

theorem memOk_zeroFill (h : MemOk s) (gone) : MemOk (zeroFill s gone) := by
  grind [zeroFill, memOk_memZero, memOk_foldl]

theorem memOk_putEntry (h : MemOk s) (i e) : MemOk (putEntry s i e) := by
  grind [putEntry, memOk_memWrite]

theorem memOk_takeTable (h : MemOk s) (c va) : MemOk (takeTable s c va).1 := by
  grind [takeTable, memOk_drawNat, memOk_putEntry, memOk_modCtx]

theorem memOk_addLeaf (h : MemOk s) (c l) : MemOk (addLeaf c s l) := by
  grind [addLeaf, memOk_modCtx, memOk_putEntry, memOk_takeTable]

theorem memOk_dropLeaf (h : MemOk s) (c l) : MemOk (dropLeaf c s l) := by
  grind [dropLeaf, memOk_modCtx, memOk_putEntry]

theorem memOk_dropAll (h : MemOk s) (c) : MemOk (dropAll s c) := by
  grind [dropAll, memOk_dropLeaf, memOk_foldl]

theorem memOk_destroyCtx (h : MemOk s) (c) : MemOk (destroyCtx s c) := by
  grind [destroyCtx, memOk_setCtx, memOk_clearGrants, memOk_dropAll, memOk_zeroFill, memOk_memZero, memOk_foldl, MemOk]

/-! #### Mailbox -/

theorem memOk_answerHdr (h : MemOk s) (n hd a) : MemOk (answerHdr s n hd a) := by
  grind [answerHdr, memOk_msixSignal, memOk_setFn]

theorem memOk_answer (h : MemOk s) (n a) : MemOk (answer s n a) := by
  grind [answer, memOk_answerHdr]

theorem memOk_answerTo (h : MemOk s) (n w a) : MemOk (answerTo s n w a) := by
  unfold answerTo
  split
  · exact h
  · split
    · exact memOk_answer h ..
    · exact h

theorem memOk_lateDrains (h : MemOk s) (n) : MemOk (lateDrains s n) := by
  grind [lateDrains, memOk_modCtx, memOk_foldl]

theorem memOk_execReq {body : Body} (hb : ∀ s n c p, MemOk s → MemOk (body s n c p).1) (h : MemOk s) (cmd n) :
    MemOk (execReq cmd body s n) := by
  grind [execReq, memOk_answer, memOk_modFn]

theorem memOk_answerUnknown (h : MemOk s) (n) : MemOk (answerUnknown s n) := by
  grind [answerUnknown, memOk_answer]

theorem memOk_postSeq (h : MemOk s) (n v) : MemOk (postSeq s n v) := by
  grind [postSeq, memOk_answerUnknown, memOk_modFn]

theorem memOk_beginReq {body : Body} (hb : ∀ s n c p, MemOk s → MemOk (body s n c p).1) (h : MemOk s) (cmd n) :
    MemOk (beginReq cmd body s n) := by
  grind [beginReq, memOk_execReq]

theorem memOk_mailbox {body : Body} (hb : ∀ s n c p, MemOk s → MemOk (body s n c p).1) (h : MemOk s) (cmd r) :
    MemOk (mailbox cmd body r s) := by
  grind [mailbox, memOk_beginReq, memOk_modFn, memOk_postSeq]

theorem memOk_checked (h : MemOk s) {k : State × Reply} (h3 : MemOk k.1) (cs) : MemOk (checked s cs k).1 := by
  grind [checked]

theorem memOk_hostWriteTo (h : MemOk s) (a bs) : ∀ t, hostWriteTo s a bs = some t → MemOk t := by
  grind [hostWriteTo, MemOk]

/-! #### Server -/

theorem memOk_traceWrite (h : MemOk s) (c rec_) : MemOk (traceWrite s c rec_) := by
  grind [traceWrite, memOk_virtWrite, memOk_setCtx, memOk_raise]

theorem memOk_traceSrv (h : MemOk s) (c q st) : MemOk (traceSrv s c q st) := by
  grind [traceSrv, memOk_drawNat, memOk_traceWrite, memOk_foldl]

theorem memOk_putHead (h : MemOk s) (c q) : MemOk (putHead s c q) := by
  grind [putHead, memOk_modCtx]

theorem memOk_popHead (h : MemOk s) (c q) : MemOk (popHead s c q) := by
  grind [popHead, memOk_modCtx]

theorem memOk_collNonfinite (h : MemOk s) (c q) : MemOk (collNonfinite s c q) := by
  grind [collNonfinite, memOk_raise]

theorem memOk_failHeadW (h : MemOk s) (c q st why) : MemOk (failHeadW s c q st why) := by
  grind [failHeadW, memOk_dueStopW, memOk_popHead, memOk_traceSrv, memOk_collNonfinite]

theorem memOk_failHead (h : MemOk s) (c q st) : MemOk (failHead s c q st) := by
  grind [failHead, memOk_failHeadW]

theorem memOk_finishHead (h : MemOk s) (c q) : MemOk (finishHead s c q) := by
  grind [finishHead, memOk_popHead, memOk_traceSrv, memOk_raiseToken]

theorem memOk_noteTurn (h : MemOk s) (c q) : MemOk (noteTurn s c q) := by
  grind [noteTurn, MemOk]

theorem memOk_startReq (h : MemOk s) (pre c r) : (startReq pre s c r).MemOk := by
  unfold startReq
  split
  · trivial
  · grind [Start.MemOk, memOk_noteTurn, memOk_virtRead]

theorem memOk_startHead (h : MemOk s) (pre c cls u) : (startHead pre s c cls u).MemOk := by
  grind [startHead, Start.MemOk, memOk_startReq]

theorem memOk_capFail (h : MemOk s) (c n) : MemOk (capFail c n s) := by
  induction n generalizing s with
  | zero => exact h
  | succ n ih => grind [capFail, memOk_failHead]

theorem memOk_takeCredits (h : MemOk s) (c q) : MemOk (takeCredits s c q) := by
  grind [takeCredits, memOk_modCtx, memOk_putHead]

theorem memOk_serveReq (h : MemOk s) {check : State → CtxId → SrvReq → State × Option Status}
    {work : State → CtxId → SrvReq → State} (hc : ∀ s c q, MemOk s → MemOk (check s c q).1)
    (hw : ∀ s c q, MemOk s → MemOk (work s c q)) (own spans c) {t : Start} (ht : t.MemOk) :
    MemOk (serveReq own check spans work s c t) := by
  cases t with
  | idle => exact h
  | bad u q st => exact memOk_failHead ht ..
  | go u q =>
    have := hc u c q ht
    unfold serveReq
    grind [memOk_failHead, memOk_takeCredits]

theorem memOk_serve (h : MemOk s) {check : State → CtxId → SrvReq → State × Option Status}
    {work : State → CtxId → SrvReq → State} (hc : ∀ s c q, MemOk s → MemOk (check s c q).1)
    (hw : ∀ s c q, MemOk s → MemOk (work s c q)) (cls u own spans c) : MemOk (serve cls u own check spans work s c) :=
  memOk_serveReq h hc hw own spans c (memOk_startHead h ..)

theorem memOk_failAll (h : MemOk s) (c hit st) : MemOk (failAll s c hit st) := by
  grind [failAll, memOk_traceSrv, memOk_collNonfinite, memOk_modCtx, memOk_dueStop, memOk_foldl]

/-! #### FabBase -/

theorem memOk_count (h : MemOk s) (p i n) : MemOk (count s p i n) := by
  grind [count, memOk_setPort]

theorem memOk_countRx (h : MemOk s) (p n) : MemOk (countRx s p n) := by
  grind [countRx, memOk_count]

theorem memOk_retime (h : MemOk s) : MemOk (retime s) := by
  grind [retime, memOk_modFab, memOk_raise]

theorem memOk_holdCircuits (h : MemOk s) (p) : MemOk (holdCircuits s p) := by
  grind [holdCircuits, memOk_setCirc, memOk_foldl]

theorem memOk_creditBack (h : MemOk s) (c q) : MemOk (creditBack s c q) := by
  grind [creditBack, memOk_returnCredit]

theorem memOk_xferFail (h : MemOk s) (c xfer st) : MemOk (xferFail s c xfer st) := by
  grind [xferFail, memOk_failHead, memOk_creditBack]

theorem memOk_owe (h : MemOk s) (port ch n) : MemOk (owe s port ch n) := by
  grind [owe, memOk_setPort]

theorem memOk_release (h : MemOk s) (o) : MemOk (release s o) := by
  grind [release, memOk_owe]

theorem memOk_undeliverable (h : MemOk s) (port o) : MemOk (undeliverable s port o) := by
  grind [undeliverable, memOk_release, memOk_count, memOk_xferFail, memOk_failHead, memOk_postAck]

theorem memOk_dropWaiting (h : MemOk s) (p held) : MemOk (dropWaiting s p held) := by
  grind [dropWaiting, memOk_modFab, memOk_undeliverable, memOk_foldl]

theorem memOk_portDown (h : MemOk s) (p v) : MemOk (portDown s p v) := by
  grind [portDown, memOk_setPort, memOk_dropWaiting, memOk_setLane, memOk_retime, memOk_holdCircuits, memOk_raise, memOk_foldl]

theorem memOk_redoFrom (h : MemOk s) (n port k) : MemOk (redoFrom s n port k) := by
  grind [redoFrom, memOk_setLane]

theorem memOk_useLane (h : MemOk s) (port l n) : MemOk (useLane s port l n) := by
  grind [useLane, memOk_setLane]

theorem memOk_takeHead (h : MemOk s) (port l) : MemOk (takeHead s port l).2 := by
  grind [takeHead, memOk_setPort]

theorem memOk_laneSend (h : MemOk s) (port l n x) : MemOk (laneSend s port l n x) := by
  grind [laneSend, memOk_takeHead, memOk_useLane, memOk_setLane, memOk_send, memOk_count]

theorem memOk_sendReplay (h : MemOk s) (l port) : MemOk (sendReplay s l port) := by
  grind [sendReplay, memOk_setLane, memOk_takeHead, memOk_useLane, memOk_send]

theorem memOk_sendHeader (h : MemOk s) (port l) : MemOk (sendHeader s port l) := by
  grind [sendHeader, memOk_takeHead, memOk_send, memOk_useLane]

theorem memOk_pieceSent (h : MemOk s) (c hash seq) : MemOk (pieceSent s c hash seq) := by
  grind [pieceSent, memOk_putHead]

theorem memOk_lastSent (h : MemOk s) (o) : MemOk (lastSent s o) := by
  grind [lastSent, memOk_putHead, memOk_pieceSent]

theorem memOk_goPacket (h : MemOk s) (l port o) : MemOk (goPacket s l port o) := by
  grind [goPacket, memOk_modFab, memOk_setPort, memOk_setLane, memOk_lastSent, memOk_release, memOk_laneSend]

theorem memOk_serveLanes (h : MemOk s) (n) : MemOk (serveLanes n s) := by
  induction n generalizing s with
  | zero => exact h
  | succ n ih =>
    unfold serveLanes
    split
    · exact h
    · exact ih (memOk_goPacket h ..)

theorem memOk_serveRedo (h : MemOk s) (n) : MemOk (serveRedo n s) := by
  induction n generalizing s with
  | zero => exact h
  | succ n ih =>
    unfold serveRedo
    split
    · exact h
    · exact ih (memOk_sendReplay h ..)

theorem memOk_emitOn (h : MemOk s) (port o) : MemOk (emitOn s port o) := by
  grind [emitOn, memOk_modFab]

theorem memOk_emitTo (h : MemOk s) (port cls c dstCtx words bytes carries) :
    MemOk (emitTo s port cls c dstCtx words bytes carries) := by
  grind [emitTo, memOk_emitOn]

theorem memOk_emitService (h : MemOk s) (bytes carries) : ∀ t, emitService s bytes carries = some t → MemOk t := by
  grind [emitService, memOk_emitOn]

theorem memOk_routeOwn (h : MemOk s) (o) : MemOk (routeOwn s o) := by
  unfold routeOwn
  extract_lets p
  split
  · unfold Option.getD
    split
    · next u hu => exact memOk_emitService h _ _ u hu
    · exact h
  · split
    · exact memOk_lastSent (memOk_send h _) _
    · exact memOk_undeliverable h ..
    · next q hq =>
      have hs : MemOk (if closedNak o.carries then count s q ctNaks 1 else s) := by grind [memOk_count]
      grind [memOk_emitOn, memOk_undeliverable]

theorem memOk_routeAll (h : MemOk s) : MemOk (routeAll s) := by
  grind [routeAll, memOk_routeOwn, memOk_modFab, memOk_foldl]

theorem memOk_ackOnly (h : MemOk s) (port) : MemOk (ackOnly s port) := by
  grind [ackOnly, memOk_sendHeader]

theorem memOk_serveOut (h : MemOk s) : MemOk (serveOut s) := by
  grind [serveOut, memOk_routeAll, memOk_serveRedo, memOk_ackOnly, memOk_serveLanes, memOk_foldl]

theorem memOk_darkPort (h : MemOk s) (p) : MemOk (darkPort s p) := by
  grind [darkPort, memOk_setPort]

theorem memOk_fence (h : MemOk s) : MemOk (fence s) := by
  grind [fence, memOk_modPkg, memOk_setLane, memOk_darkPort, memOk_modFab, memOk_raise, memOk_failAll, memOk_foldl]

/-! #### Firmware -/

theorem memOk_eraseSector (h : MemOk s) (slot sec) : MemOk (eraseSector s slot sec) := by
  grind [eraseSector, memOk_modBoot]

theorem memOk_slotWrite (h : MemOk s) (slot off bs) : MemOk (slotWrite s slot off bs) := by
  grind [slotWrite, memOk_modBoot]

theorem memOk_dirUpdate (h : MemOk s) (f) : MemOk (dirUpdate s f) := by
  grind [dirUpdate, memOk_modBoot]

theorem memOk_recoveryWrite (h : MemOk s) (off bs) : MemOk (recoveryWrite s off bs) := by
  grind [recoveryWrite, memOk_modBoot, memOk_eraseSector, memOk_slotWrite, memOk_foldl]

theorem memOk_bodyFwWrite (h : MemOk s) (n c p) : MemOk (bodyFwWrite s n c p).1 := by
  unfold bodyFwWrite
  grind [memOk_checked, memOk_recoveryWrite, memOk_modBoot]

theorem memOk_bodyFwCommit (h : MemOk s) (n c p) : MemOk (bodyFwCommit s n c p).1 := by
  unfold bodyFwCommit
  grind [memOk_checked, memOk_dirUpdate, memOk_modBoot]

theorem memOk_fwCommitted (h : MemOk s) : MemOk (fwCommitted s) := by
  grind [fwCommitted, memOk_eraseSector, memOk_slotWrite, memOk_dirUpdate, memOk_raise, memOk_modBoot, memOk_foldl]

theorem memOk_bodyFwStatus (h : MemOk s) (n c p) : MemOk (bodyFwStatus s n c p).1 := by
  unfold bodyFwStatus
  grind [memOk_drawNat]

theorem memOk_startSlot (h : MemOk s) (slot) : ∀ t, startSlot s slot = some t → MemOk t := by
  grind [startSlot, memOk_modBoot]

theorem memOk_bootSelect (h : MemOk s) : MemOk (bootSelect s).1 := by
  grind [bootSelect, memOk_dirUpdate, memOk_startSlot]

theorem memOk_firstReady (h : MemOk s) : MemOk (firstReady s) := by
  grind [firstReady, memOk_modBoot, memOk_dirUpdate]

/-! #### Attest -/

theorem memOk_deviceSig (h : MemOk s) (digest) : MemOk (deviceSig s digest).2 := h

theorem memOk_toWindow (h : MemOk s) (addr win winOff bs) : MemOk (toWindow s addr win winOff bs).1 := by
  grind [toWindow, memOk_hostWriteTo]

theorem memOk_bodyAttest (h : MemOk s) (n c p) : MemOk (bodyAttest s n c p).1 := by
  unfold bodyAttest
  grind [memOk_checked, memOk_deviceSig, memOk_toWindow]

theorem memOk_bodyCertRead (h : MemOk s) (n c p) : MemOk (bodyCertRead s n c p).1 := by
  unfold bodyCertRead
  grind [memOk_checked, memOk_toWindow]

theorem memOk_spdmOut (h : MemOk s) (bs) : MemOk (spdmOut s bs) := h

theorem memOk_spdmErr (h : MemOk s) (code) : MemOk (spdmErr s code) := by
  grind [spdmErr, memOk_spdmOut]

theorem memOk_spdmReq (h : MemOk s) {f : State → State} (hf : MemOk s → MemOk (f s)) (need) : MemOk (spdmReq s need f) := by
  grind [spdmReq, memOk_spdmErr]

theorem memOk_setSpdm (h : MemOk s) (n) : MemOk (setSpdm s n) := by
  grind [setSpdm, memOk_modBoot]

theorem memOk_getVersion (h : MemOk s) : MemOk (getVersion s) := by
  grind [getVersion, memOk_spdmReq, memOk_spdmOut, memOk_setSpdm]

theorem memOk_getCapabilities (h : MemOk s) : MemOk (getCapabilities s) := by
  grind [getCapabilities, memOk_spdmReq, memOk_spdmOut, memOk_setSpdm]

theorem memOk_negotiate (h : MemOk s) (ecdsa sha) : MemOk (negotiate s ecdsa sha) := by
  grind [negotiate, memOk_spdmReq, memOk_spdmOut, memOk_setSpdm, memOk_spdmErr]

theorem memOk_getDigests (h : MemOk s) : MemOk (getDigests s) := by
  grind [getDigests, memOk_spdmReq, memOk_spdmOut]

theorem memOk_getCertificate (h : MemOk s) (slot off len) : MemOk (getCertificate s slot off len) := by
  grind [getCertificate, memOk_spdmReq, memOk_spdmErr, memOk_spdmOut]

theorem memOk_spdmNonce (h : MemOk s) : MemOk (spdmNonce s).2 := h

theorem memOk_spdmSigned (h : MemOk s) (nonce bs) : MemOk (spdmSigned s nonce bs) := by
  grind [spdmSigned, memOk_deviceSig, memOk_spdmOut]

theorem memOk_challenge (h : MemOk s) (slot nonce) : MemOk (challenge s slot nonce) := by
  grind [challenge, memOk_spdmReq, memOk_spdmErr, memOk_spdmNonce, memOk_spdmSigned]

theorem memOk_getMeasurements (h : MemOk s) (i nonce) : MemOk (getMeasurements s i nonce) := by
  grind [getMeasurements, memOk_spdmReq, memOk_spdmErr, memOk_spdmNonce, memOk_spdmSigned]

theorem memOk_doeDiscovery (h : MemOk s) (i) : MemOk (doeDiscovery s i) := by
  grind [doeDiscovery, memOk_spdmOut]

theorem memOk_jtag (h : MemOk s) (ins out) : MemOk (jtag s ins out) := by
  grind [jtag, memOk_modBoot, MemOk]

theorem memOk_scan (h : MemOk s) (ins lands) : MemOk (scan s ins lands) := by
  grind [scan, memOk_jtag, memOk_modBoot]

/-! #### Banks -/

theorem memOk_checkProg (h : MemOk s) (x) : MemOk (checkProg s x).1 := by
  grind [checkProg, memOk_virtRead]

theorem memOk_loadBody (h : MemOk s) {go : State × Reply} (h5 : MemOk go.1) (c k cs) : MemOk (loadBody s c k cs go).1 := by
  grind [loadBody, memOk_checked]

theorem memOk_bodyLoadProgram (h : MemOk s) (n c p) : MemOk (bodyLoadProgram s n c p).1 := by
  unfold bodyLoadProgram
  grind [memOk_loadBody, memOk_modCtx]

theorem memOk_fetchBuf (h : MemOk s) (c space addr n field) : MemOk (fetchBuf s c space addr n field).1 := by
  grind [fetchBuf, memOk_virtRead]

theorem memOk_bodyLoadSlotlib (h : MemOk s) (n c p) : MemOk (bodyLoadSlotlib s n c p).1 := by
  unfold bodyLoadSlotlib
  grind [memOk_loadBody, memOk_fetchBuf, memOk_modCtx, memOk_foldl]

theorem memOk_bodyLoadRecipes (h : MemOk s) (n c p) : MemOk (bodyLoadRecipes s n c p).1 := by
  unfold bodyLoadRecipes
  grind [memOk_loadBody, memOk_modCtx]

theorem memOk_bodyLoadRetention (h : MemOk s) (n c p) : MemOk (bodyLoadRetention s n c p).1 := by
  unfold bodyLoadRetention
  grind [memOk_loadBody, memOk_modCtx]

theorem memOk_bodyLoadDispatch (h : MemOk s) (n c p) : MemOk (bodyLoadDispatch s n c p).1 := by
  unfold bodyLoadDispatch
  grind [memOk_loadBody, memOk_modCtx]

theorem memOk_bodyLoadUpdate (h : MemOk s) (n c p) : MemOk (bodyLoadUpdate s n c p).1 := by
  unfold bodyLoadUpdate
  grind [memOk_modCtx, memOk_loadBody, memOk_fetchBuf]

theorem memOk_applySwaps (h : MemOk s) (c mask) : MemOk (applySwaps s c mask) := by
  grind [applySwaps, memOk_modCtx, memOk_raise]

theorem memOk_checkBank {r : State × Option BankBad} (h : MemOk r.1) (c k) : MemOk (checkBank c r k).1 := by
  grind [checkBank, memOk_checkProg, memOk_modCtx]

theorem memOk_bodySwap (h : MemOk s) (n c p) : MemOk (bodySwap s n c p).1 := by
  unfold bodySwap
  have hf := memOk_foldl_fst (f := checkBank c) (fun r x hr => memOk_checkBank hr ..) (bitsOf 6 (pf p 0 1)) (r := (s, none)) h
  refine memOk_checked h ?_ _
  split <;> rename_i hq <;> rw [hq] at hf
  · exact hf
  · grind [memOk_applySwaps, memOk_modCtx]

theorem memOk_bodyWithdraw (h : MemOk s) (n c p) : MemOk (bodyWithdraw s n c p).1 := by
  unfold bodyWithdraw
  grind [memOk_checked, memOk_setCtx]

theorem memOk_bodyRun (h : MemOk s) (n c p) : MemOk (bodyRun s n c p).1 := by
  unfold bodyRun
  grind [memOk_checked, memOk_setCtx]

theorem memOk_bodyStop (h : MemOk s) (n c p) : MemOk (bodyStop s n c p).1 := by
  unfold bodyStop
  grind [memOk_modCtx]

theorem memOk_bodySlipClear (h : MemOk s) (n c p) : MemOk (bodySlipClear s n c p).1 := by
  unfold bodySlipClear
  grind [memOk_modCtx]

theorem memOk_bodyPhaseExport (h : MemOk s) (n c p) : MemOk (bodyPhaseExport s n c p).1 := by
  unfold bodyPhaseExport
  grind [memOk_checked, memOk_setCtx]

/-! #### Optics -/

theorem memOk_setLinePower (h : MemOk s) (role on freq) : MemOk (setLinePower s role on freq) := by
  grind [setLinePower, memOk_setLine]

theorem memOk_moveLoop (h : MemOk s) (i l) : MemOk (moveLoop s i l) := by
  grind [moveLoop, memOk_setLoop, memOk_modOpt]

theorem memOk_loopFault (h : MemOk s) (i v) : MemOk (loopFault s i v) := by
  grind [loopFault, memOk_moveLoop, memOk_portDown, memOk_raise, memOk_reasonOn]

theorem memOk_onLoop (h : MemOk s) {f : Nat → HLoop → State} (hf : ∀ i l, MemOk (f i l)) (die m st) :
    MemOk (onLoop s die m st f) := by
  grind [onLoop]

theorem memOk_peakFound (h : MemOk s) (die m peak) : MemOk (peakFound s die m peak) := by
  grind [peakFound, memOk_onLoop, memOk_moveLoop]

theorem memOk_sweepExhausted (h : MemOk s) (die m) : MemOk (sweepExhausted s die m) := by
  grind [sweepExhausted, memOk_onLoop, memOk_loopFault]

theorem memOk_lockBandMet (h : MemOk s) (die m) : MemOk (lockBandMet s die m) := by
  grind [lockBandMet, memOk_onLoop, memOk_moveLoop]

theorem memOk_acquireTimeout (h : MemOk s) (die m) : MemOk (acquireTimeout s die m) := by
  grind [acquireTimeout, memOk_onLoop, memOk_moveLoop]

theorem memOk_verifyDone (h : MemOk s) (die m amps metric) : MemOk (verifyDone s die m amps metric) := by
  grind [verifyDone, memOk_onLoop, memOk_moveLoop, memOk_loopFault]

theorem memOk_pilotCheck (h : MemOk s) (die m amps) : MemOk (pilotCheck s die m amps) := by
  grind [pilotCheck, memOk_onLoop, memOk_moveLoop]

theorem memOk_lockLost (h : MemOk s) (die m) : MemOk (lockLost s die m) := by
  grind [lockLost, memOk_onLoop, memOk_moveLoop]

theorem memOk_loopLightLost (h : MemOk s) (die m temp) : MemOk (loopLightLost s die m temp) := by
  grind [loopLightLost, memOk_onLoop, memOk_moveLoop]

theorem memOk_loopLightReturn (h : MemOk s) (die m inBand temp) : MemOk (loopLightReturn s die m inBand temp) := by
  grind [loopLightReturn, memOk_onLoop, memOk_moveLoop]

theorem memOk_bodyLoopReset (h : MemOk s) (n c p) : MemOk (bodyLoopReset s n c p).1 := by
  unfold bodyLoopReset
  grind [memOk_checked, memOk_moveLoop]

theorem memOk_calibrateLoop (h : MemOk s) (faults n i) : MemOk (calibrateLoop faults n s i) := by
  grind [calibrateLoop, memOk_loopFault, memOk_drawNat, memOk_moveLoop]

theorem memOk_calibrate (h : MemOk s) (lanes faults) : MemOk (calibrate s lanes faults) := by
  grind [calibrate, memOk_calibrateLoop, memOk_foldl]

theorem memOk_unfault (h : MemOk s) (n) : MemOk (unfault s n) := by
  grind [unfault, memOk_moveLoop, memOk_foldl]

theorem memOk_holdLoops (h : MemOk s) : MemOk (holdLoops s) := by
  grind [holdLoops, memOk_setLoop, memOk_foldl]

theorem memOk_sendDisc (h : MemOk s) (port) : MemOk (sendDisc s port) := by
  grind [sendDisc, memOk_emitTo]

theorem memOk_stayLight (h : MemOk s) (i) : MemOk (stayLight s i) := by
  grind [stayLight, memOk_setPort]

theorem memOk_stayAcquired (h : MemOk s) (i) : MemOk (stayAcquired s i) := by
  grind [stayAcquired, memOk_sendDisc, memOk_setPort]

theorem memOk_noLock (h : MemOk s) (i) : MemOk (noLock s i) := by
  grind [noLock, memOk_raise, memOk_portDown]

theorem memOk_stayLightLost (h : MemOk s) (i) : MemOk (stayLightLost s i) := by
  grind [stayLightLost, memOk_portDown]

theorem memOk_laserSwapTimeout (h : MemOk s) (i) : MemOk (laserSwapTimeout s i) := by
  grind [laserSwapTimeout, memOk_portDown]

theorem memOk_holdUnseen (h : MemOk s) (r) : MemOk (holdUnseen s r) := by
  grind [holdUnseen, memOk_moveLoop, memOk_foldl]

theorem memOk_rotationRound (h : MemOk s) : MemOk (rotationRound s) := by
  grind [rotationRound, memOk_setLane, memOk_modOpt, memOk_holdUnseen, memOk_foldl]

/-! #### Cartridge -/

theorem memOk_cartWrite (h : MemOk s) (f) : MemOk (cartWrite s f) := by
  grind [cartWrite, memOk_modOpt]

theorem memOk_commission (h : MemOk s) (n tap) : MemOk (commission s n tap) := by
  grind [commission, memOk_setLine, memOk_cartWrite, memOk_drawNat, memOk_fbAppend]

theorem memOk_commissioning (h : MemOk s) (n tap) : MemOk (commissioning s n tap) := by
  grind [commissioning, memOk_commission]

theorem memOk_spareHealth (h : MemOk s) : MemOk (spareHealth s) := by
  grind [spareHealth, memOk_reasonOn, memOk_modHal]

theorem memOk_tuneSpare (h : MemOk s) (w) : MemOk (tuneSpare s w) := by
  grind [tuneSpare, memOk_setLine, memOk_spareHealth, memOk_modOpt]

theorem memOk_tuneNext (h : MemOk s) (die) : MemOk (tuneNext s die) := by
  grind [tuneNext, memOk_tuneSpare]

theorem memOk_sparesExhausted (h : MemOk s) (role v0 v1) : MemOk (sparesExhausted s role v0 v1) := by
  grind [sparesExhausted, memOk_modOpt, memOk_reasonOn, memOk_raise]

theorem memOk_startSwap (h : MemOk s) (role now v0 v1) : MemOk (startSwap s role now v0 v1) := by
  grind [startSwap, memOk_sparesExhausted, memOk_raise, memOk_tuneNext, memOk_modOpt]

theorem memOk_noticeOn (h : MemOk s) (p tones slot) : MemOk (noticeOn s p tones slot) := by
  grind [noticeOn, memOk_emitTo]

theorem memOk_swapNotice (h : MemOk s) (w) : MemOk (swapNotice s w) := by
  grind [swapNotice, memOk_noticeOn, memOk_foldl]

theorem memOk_enterLaserSwap (h : MemOk s) (role) : MemOk (enterLaserSwap s role) := by
  grind [enterLaserSwap, memOk_setPort]

theorem memOk_finishSwap (h : MemOk s) (w) : MemOk (finishSwap s w) := by
  unfold finishSwap
  extract_lets old s₁ l line s₂ lane s₃ port side s₄ s₅ hours entry s₆
  have h₁ : MemOk s₁ := by
    unfold s₁
    clear_value old
    cases old
    · exact h
    · exact memOk_setLine h ..
  have h₃ : MemOk s₃ := memOk_setLane (memOk_setLine h₁ _ _) _ _
  have h₄ : MemOk s₄ := by
    unfold s₄
    clear_value side
    split
    · exact memOk_foldl (fun _ _ hs => memOk_redoFrom hs ..) _ h₃
    · split
      · exact h₃
      · exact memOk_setPort h₃ ..
  exact memOk_raise (memOk_cartWrite (memOk_modOpt h₄ _) _) _

theorem memOk_nextSpare (h : MemOk s) (w) : MemOk (nextSpare s w) := by
  grind [nextSpare, memOk_modOpt, memOk_sparesExhausted, memOk_tuneSpare, memOk_tuneNext, memOk_cartWrite]

theorem memOk_spareTuned (h : MemOk s) (role offMhz amps) : MemOk (spareTuned s role offMhz amps) := by
   grind [spareTuned, memOk_setLine, memOk_swapNotice, memOk_modOpt, memOk_tuneNext, memOk_finishSwap, memOk_nextSpare,
      memOk_raise]

theorem memOk_swapSlot (h : MemOk s) (role) : MemOk (swapSlot s role) := by
  grind [swapSlot, memOk_finishSwap, memOk_enterLaserSwap]

theorem memOk_fadeWarn (h : MemOk s) (n) : MemOk (fadeWarn s n) := by
  grind [fadeWarn, memOk_raise, memOk_setLine]

theorem memOk_fibreFade (h : MemOk s) (f) : MemOk (fibreFade s f) := by
  grind [fibreFade, memOk_reasonOn, memOk_raise, memOk_modOpt]

theorem memOk_fadeAct (h : MemOk s) (role v0 v1) : MemOk (fadeAct s role v0 v1) := by
  grind [fadeAct, memOk_startSwap, memOk_raise, memOk_setLine]

theorem memOk_fadeTrigger (h : MemOk s) (role) : MemOk (fadeTrigger s role) := by
  grind [fadeTrigger, memOk_modOpt, memOk_setLine, memOk_fadeAct]

theorem memOk_fadeDue (h : MemOk s) : MemOk (fadeDue s) := by
  grind [fadeDue, memOk_fadeAct, memOk_modOpt, memOk_foldl]

theorem memOk_fadeTest (h : MemOk s) : MemOk (fadeTest s) := by
  grind [fadeTest, memOk_fadeWarn, memOk_fibreFade, memOk_fadeTrigger, memOk_foldl]

theorem memOk_lineFailed (h : MemOk s) (n) : MemOk (lineFailed s n) := by
   grind [lineFailed, memOk_raise, memOk_setLine, memOk_setLane, memOk_enterLaserSwap, memOk_finishSwap, memOk_modOpt,
      memOk_startSwap, memOk_nextSpare, memOk_cartWrite]

theorem memOk_linePoll (h : MemOk s) (rs) : MemOk (linePoll s rs) := by
  grind [linePoll, memOk_setLine, memOk_lineFailed, memOk_foldl]

theorem memOk_bootRecord (h : MemOk s) (v0 v1 st) : MemOk (bootRecord s v0 v1 st) := by
  grind [bootRecord, memOk_fbAppend]

theorem memOk_adoptMap (h : MemOk s) : MemOk (adoptMap s) := by
  grind [adoptMap, memOk_modOpt]

theorem memOk_firstSeen (h : MemOk s) : MemOk (firstSeen s) := by
  grind [firstSeen, memOk_modOpt]

theorem memOk_authFailed (h : MemOk s) (step) : MemOk (authFailed s step) := by
  grind [authFailed, memOk_modPins, memOk_holdLoops, memOk_modOpt, memOk_bootRecord, memOk_modPkg]

theorem memOk_lightOn (h : MemOk s) : MemOk (lightOn s) := by
  grind [lightOn, memOk_modOpt, memOk_setLane, memOk_foldl]

theorem memOk_powerLines (h : MemOk s) : MemOk (powerLines s) := by
  grind [powerLines, memOk_setLane, memOk_setLinePower, memOk_foldl]

theorem memOk_swapsDue (h : MemOk s) : MemOk (swapsDue s) := by
  grind [swapsDue, memOk_startSwap, memOk_modOpt, memOk_foldl]

theorem memOk_calibrateCart (h : MemOk s) (faults) : MemOk (calibrateCart s faults) := by
   grind [calibrateCart, memOk_modPins, memOk_modOpt, memOk_adoptMap, memOk_setLane, memOk_powerLines, memOk_calibrate,
      memOk_foldl]

theorem memOk_authPassed (h : MemOk s) (insertion) : MemOk (authPassed s insertion) := by
  grind [authPassed, memOk_firstSeen, memOk_modPkg, memOk_cartWrite, memOk_swapsDue, memOk_spareHealth]

theorem memOk_restoreCart (h : MemOk s) (authFail faults) : MemOk (restoreCart s authFail faults) := by
  grind [restoreCart, memOk_authFailed, memOk_lightOn, memOk_authPassed, memOk_calibrateCart]

theorem memOk_cartInserted (h : MemOk s) (e) : MemOk (cartInserted s e) := by
  grind [cartInserted, memOk_modPins, memOk_modOpt, memOk_restoreCart]

theorem memOk_cartRemoved (h : MemOk s) : MemOk (cartRemoved s) := by
   grind [cartRemoved, memOk_modPins, memOk_modPkg, memOk_setLine, memOk_modOpt, memOk_holdLoops, memOk_setLane, memOk_portDown,
      memOk_raise, memOk_foldl]

theorem memOk_lcFault (h : MemOk s) : MemOk (lcFault s) := by
  grind [lcFault, memOk_modPins, memOk_modOpt, memOk_setLane, memOk_raise, memOk_enterLaserSwap, memOk_foldl]

theorem memOk_lcFaultHigh (h : MemOk s) (authFail faults) : MemOk (lcFaultHigh s authFail faults) := by
  grind [lcFaultHigh, memOk_modPins, memOk_restoreCart]

theorem memOk_caseTemp (h : MemOk s) (t) : MemOk (caseTemp s t) := by
  grind [caseTemp, memOk_raise]

theorem memOk_bodyLifeRead (h : MemOk s) (n c p) : MemOk (bodyLifeRead s n c p).1 := by
  unfold bodyLifeRead
  grind [memOk_checked, memOk_hostWriteTo]

theorem memOk_bodyLcSwap (h : MemOk s) (n c p) : MemOk (bodyLcSwap s n c p).1 := by
  unfold bodyLcSwap
  grind [memOk_checked, memOk_sparesExhausted, memOk_startSwap]

theorem memOk_bodyRecommission (h : MemOk s) (taps n c p) : MemOk (bodyRecommission taps s n c p).1 := by
  unfold bodyRecommission
  grind [memOk_checked, memOk_commission, memOk_modOpt, memOk_foldl]

theorem memOk_bodyPowerRetry (h : MemOk s) (authFail faults n c p) :
    MemOk (bodyPowerRetry authFail faults s n c p).1 := by
  unfold bodyPowerRetry
  grind [memOk_restoreCart]

/-! #### CtxCmds -/

theorem memOk_bodyCtxCreate (h : MemOk s) (n c p) : MemOk (bodyCtxCreate s n c p).1 := by
  unfold bodyCtxCreate
  grind [memOk_checked, memOk_setCtx]

theorem memOk_bodyCtxAllot (h : MemOk s) (n c p) : MemOk (bodyCtxAllot s n c p).1 := by
  unfold bodyCtxAllot
  grind [memOk_checked, memOk_setCtx]

theorem memOk_bodyCtxQuery (h : MemOk s) (n c p) : MemOk (bodyCtxQuery s n c p).1 := by
  unfold bodyCtxQuery
  grind 

theorem memOk_bodySetSrSeed (h : MemOk s) (n c p) : MemOk (bodySetSrSeed s n c p).1 := by
  unfold bodySetSrSeed
  grind [memOk_modCtx]

theorem memOk_bodySetSparse (h : MemOk s) (n c p) : MemOk (bodySetSparse s n c p).1 := by
  unfold bodySetSparse
  grind [memOk_checked, memOk_modCtx]

theorem memOk_bodyCtxReset (h : MemOk s) (n c p) : MemOk (bodyCtxReset s n c p).1 := by
  unfold bodyCtxReset
  grind [memOk_requestReset]

theorem memOk_bodyCtxDestroy (h : MemOk s) (n c p) : MemOk (bodyCtxDestroy s n c p).1 := by
  unfold bodyCtxDestroy
  grind [memOk_requestReset]

theorem memOk_unmark (h : MemOk s) (b n) : MemOk (unmark s b n) := by
  grind [unmark, memOk_memZero, memOk_modMem, memOk_foldl]

theorem memOk_bodyMap (h : MemOk s) (n c p) : MemOk (bodyMap s n c p).1 := by
  unfold bodyMap
  grind [memOk_unmark, memOk_addLeaf, memOk_foldl]

theorem memOk_bodyUnmap (h : MemOk s) (n c p) : MemOk (bodyUnmap s n c p).1 := by
  unfold bodyUnmap
  grind [memOk_checked, memOk_dropLeaf, memOk_modCtx, memOk_zeroFill, memOk_foldl]

theorem memOk_endDrain (h : MemOk s) (c d) : MemOk (endDrain c s d) := by
  grind [endDrain, memOk_modCtx, memOk_zeroFill, memOk_answerTo]

theorem memOk_drainComplete (h : MemOk s) (c) : MemOk (drainComplete s c) := by
  grind [drainComplete, memOk_endDrain, memOk_foldl]

theorem memOk_drainBusy (h : MemOk s) (c) : MemOk (drainBusy s c) := by
  grind [drainBusy, memOk_modCtx, memOk_answerTo, memOk_foldl]

theorem memOk_bodyGrant (h : MemOk s) (n c p) : MemOk (bodyGrant s n c p).1 := by
  unfold bodyGrant
  refine memOk_checked h ?_ _
  grind [memOk_modMem]

theorem memOk_bodyRevoke (h : MemOk s) (n c p) : MemOk (bodyRevoke s n c p).1 := by
  unfold bodyRevoke
  grind [memOk_checked, memOk_modMem]

theorem memOk_bodyBar2Cfg (h : MemOk s) (n c p) : MemOk (bodyBar2Cfg s n c p).1 := by
  unfold bodyBar2Cfg
  grind [memOk_checked, memOk_setFn]

theorem memOk_remapLine (h : MemOk s) (u) : MemOk (remapLine s u) := by
  grind [remapLine, memOk_logErr, memOk_memWrite, memOk_modMem]

theorem memOk_remapRow {r : State × Nat × Nat} (h : MemOk r.1) (q) : MemOk (remapRow r q).1 := by
  grind [remapRow, memOk_modMem, memOk_fbInPlace, memOk_reasonOn, memOk_remapLine, memOk_foldl]

theorem memOk_bodyRemapApply (h : MemOk s) (n c p) : MemOk (bodyRemapApply s n c p).1 := by
  unfold bodyRemapApply
  split
  · exact h
  · exact memOk_foldl_fst (fun _ _ hr => memOk_remapRow hr _) _ h

/-! #### Health -/

theorem memOk_reasonClear (h : MemOk s) (n) : MemOk (reasonClear s n) := by
  grind [reasonClear, memOk_reasonOff]

theorem memOk_timePasses (h : MemOk s) (old) : MemOk (timePasses s old) := by
  grind [timePasses, memOk_modHal, memOk_fbCounters]

/-! #### Plan -/

theorem memOk_stage (h : MemOk s) (sp) : MemOk (stage s sp) := by
  grind [stage, memOk_unfault, memOk_setLinePower, memOk_calibrate, memOk_foldl]

theorem memOk_bodyPlanWrite (h : MemOk s) (n c p) : MemOk (bodyPlanWrite s n c p).1 := by
  unfold bodyPlanWrite
  grind [memOk_checked, memOk_modFab]

theorem memOk_bodySetpointWrite (h : MemOk s) (n c p) : MemOk (bodySetpointWrite s n c p).1 := by
  unfold bodySetpointWrite
  grind [memOk_modOpt]

theorem memOk_bodyPlanSwap (h : MemOk s) (staged n c p) : MemOk (bodyPlanSwap staged s n c p).1 := by
  unfold bodyPlanSwap
  grind [memOk_checked, memOk_stage, memOk_retime, memOk_modFab]

theorem memOk_bodyPlanWithdraw (h : MemOk s) (n c p) : MemOk (bodyPlanWithdraw s n c p).1 := by
  unfold bodyPlanWithdraw
  grind [memOk_modFab, memOk_retime, memOk_modOpt]

theorem memOk_breakCircuit (h : MemOk s) (id port v0 v1 src) : MemOk (breakCircuit s id port v0 v1 src) := by
  unfold breakCircuit
  refine memOk_raise ?_ _
  split
  · exact memOk_setCirc h ..
  · split
    · exact memOk_xferFail (memOk_setCirc h ..) ..
    · exact memOk_postAck (memOk_setCirc h ..) ..

theorem memOk_handBack (h : MemOk s) (old pl t) : MemOk (handBack old pl s t) := by
  unfold handBack
  split <;> grind [memOk_emitOn, memOk_undeliverable, memOk_modFab, memOk_breakCircuit]

theorem memOk_laneOff (h : MemOk s) (old pl n) : MemOk (laneOff old pl s n) := by
  grind [laneOff, memOk_setLane, memOk_setLinePower, memOk_portDown, memOk_handBack, memOk_foldl]

theorem memOk_laneOn (h : MemOk s) (n) : MemOk (laneOn s n) := by
  grind [laneOn, memOk_setLane]

theorem memOk_laneChange (h : MemOk s) (oldSp old pl n) : MemOk (laneChange oldSp old pl s n) := by
  grind [laneChange, memOk_unfault, memOk_laneOff, memOk_laneOn, memOk_setLinePower, memOk_portDown]

theorem memOk_loseOrigins (h : MemOk s) (pl c) : MemOk (loseOrigins pl s c) := by
  grind [loseOrigins, memOk_modCtx]

theorem memOk_holdAbsent (h : MemOk s) (p) : MemOk (holdAbsent s p) := by
  grind [holdAbsent, memOk_holdCircuits, memOk_dropWaiting, memOk_setPort]

theorem memOk_epochCirc (h : MemOk s) (old pl id) : MemOk (epochCirc old pl s id) := by
  grind [epochCirc, memOk_breakCircuit, memOk_setCirc, memOk_modFab]

theorem memOk_planEpoch (h : MemOk s) : MemOk (planEpoch s) := by
   grind [planEpoch, memOk_modFab, memOk_modOpt, memOk_setPort, memOk_raise, memOk_epochCirc, memOk_laneChange,
      memOk_holdAbsent, memOk_failAll, memOk_loseOrigins, memOk_fence, memOk_fadeDue, memOk_retime, memOk_sendDisc, memOk_foldl]

/-! #### Fabric -/

theorem memOk_modRx (h : MemOk s) (port lane f) : MemOk (modRx s port lane f) := by
  grind [modRx, memOk_setPort]

theorem memOk_askReplay (h : MemOk s) (port lane) : MemOk (askReplay s port lane) := by
  grind [askReplay, memOk_modRx, memOk_count]

theorem memOk_received (h : MemOk s) (port lane burst fecOk seq n) : MemOk (received s port lane burst fecOk seq n).1 := by
  grind [received, memOk_askReplay, memOk_count, memOk_modOpt, memOk_modRx]

theorem memOk_keyCheck (h : MemOk s) (port cls key) : MemOk (keyCheck s port cls key).1 := by
  grind [keyCheck, memOk_count, memOk_raise, memOk_noteOnce]

theorem memOk_packetForward (h : MemOk s) (port p) : MemOk (packetForward s port p) := by
  grind [packetForward, memOk_received, memOk_countRx, memOk_keyCheck, memOk_release, memOk_undeliverable, memOk_emitOn]

theorem memOk_transitIn (h : MemOk s) (id port k) : MemOk (transitIn s id port k) := by
  grind [transitIn, memOk_setCirc, memOk_breakCircuit]

theorem memOk_chunkSlip (h : MemOk s) (id port late) : MemOk (chunkSlip s id port late) := by
  grind [chunkSlip, memOk_setPort, memOk_raise, memOk_noteOnce]

theorem memOk_chunkArrival (h : MemOk s) (port k) : MemOk (chunkArrival s port k) := by
   grind [chunkArrival, memOk_received, memOk_owe, memOk_countRx, memOk_keyCheck, memOk_postAck, memOk_count, memOk_chunkSlip,
      memOk_transitIn]

theorem memOk_adopt (h : MemOk s) (gap) : MemOk (adopt s gap) := by
  grind [adopt, memOk_planEpoch, MemOk]

theorem memOk_headerCodeword (h : MemOk s) (port hd) : MemOk (headerCodeword s port hd) := by
   grind [headerCodeword, memOk_setPort, memOk_setLane, memOk_redoFrom, memOk_setCirc, memOk_modReef, memOk_retime, memOk_adopt,
      memOk_foldl]

theorem memOk_headerOnly (h : MemOk s) (peer) : MemOk (headerOnly s peer) := by
  grind [headerOnly, memOk_sendHeader]

theorem memOk_peerTimeout (h : MemOk s) (peer) : MemOk (peerTimeout s peer) := by
  grind [peerTimeout, memOk_portDown, memOk_setPort]

theorem memOk_notFound (h : MemOk s) (port) : MemOk (notFound s port) := by
  grind [notFound, memOk_retime, memOk_holdCircuits, memOk_raise, memOk_portDown]

theorem memOk_equaliserStale (h : MemOk s) (peer lane) : MemOk (equaliserStale s peer lane) := by
  grind [equaliserStale, memOk_modOpt]

theorem memOk_redoPort (h : MemOk s) (port) : MemOk (redoPort s port) := by
  grind [redoPort, memOk_redoFrom, memOk_foldl]

theorem memOk_portUp (h : MemOk s) (port) : MemOk (portUp s port) := by
  grind [portUp, memOk_setPort, memOk_setLane, memOk_redoPort, memOk_noticeOn, memOk_foldl]

theorem memOk_discRecIn (h : MemOk s) (port r delayNs) : MemOk (discRecIn s port r delayNs) := by
   grind [discRecIn, memOk_setPort, memOk_portUp, memOk_redoPort, memOk_holdCircuits, memOk_dropWaiting, memOk_raise,
      memOk_retime, memOk_adopt]

theorem memOk_swapPort (h : MemOk s) (port) : MemOk (swapPort s port) := by
  grind [swapPort, memOk_setPort]

theorem memOk_swapNoticeIn (h : MemOk s) (port tones slot) : MemOk (swapNoticeIn s port tones slot) := by
  unfold swapNoticeIn
  split
  · exact h
  · split
    · exact memOk_swapPort (memOk_setPort h ..) ..
    · exact memOk_modOpt h ..

theorem memOk_leaseTake (h : MemOk s) (r) : MemOk (leaseTake s r) := by
  grind [leaseTake, memOk_modFab]

theorem memOk_leaseCount (h : MemOk s) : MemOk (leaseCount s) := by
  grind [leaseCount, memOk_modFab]

theorem memOk_leaseIn (h : MemOk s) (r) : MemOk (leaseIn s r) := by
  grind [leaseIn, memOk_leaseCount, memOk_leaseTake]

theorem memOk_bodyLease (h : MemOk s) (n c p) : MemOk (bodyLease s n c p).1 := by
  unfold bodyLease
  grind [memOk_checked, memOk_leaseIn]

theorem memOk_bodyFence (h : MemOk s) (n c p) : MemOk (bodyFence s n c p).1 := by
  unfold bodyFence
  grind [memOk_fence]

theorem memOk_unfence (h : MemOk s) : MemOk (unfence s) := by
  grind [unfence, memOk_modPkg, memOk_raise, memOk_laneOn, memOk_sendDisc, memOk_foldl]

theorem memOk_bodyUnfence (h : MemOk s) (n c p) : MemOk (bodyUnfence s n c p).1 := by
  unfold bodyUnfence
  grind [memOk_leaseCount, memOk_unfence, memOk_leaseTake]

theorem memOk_leaseExpired (h : MemOk s) : MemOk (leaseExpired s) := by
  grind [leaseExpired, memOk_raise, memOk_fence, memOk_modFab]

theorem memOk_mgtIn (h : MemOk s) {f : State → State} (hf : MemOk s → MemOk (f s)) : MemOk (mgtIn s f) := by
  grind [mgtIn, memOk_modFab]

theorem memOk_addFigures (h : MemOk s) (m p) : MemOk (addFigures m s p) := by
  grind [addFigures, memOk_setPort]

theorem memOk_transectPort (h : MemOk s) (m p) : MemOk (transectPort m s p) := by
  grind [transectPort, memOk_setPort, memOk_emitService, memOk_modFab]

theorem memOk_transectAll (h : MemOk s) (m) : MemOk (transectAll s m) := by
  grind [transectAll, memOk_addFigures, memOk_reasonOn, memOk_transectPort, memOk_modFab, memOk_foldl]

theorem memOk_sendChunk (h : MemOk s) (port l id src bs) : MemOk (sendChunk s port l id src bs) := by
  grind [sendChunk, memOk_setPort, memOk_count, memOk_laneSend]

theorem memOk_csendChunk (h : MemOk s) (port l id c q) : MemOk (csendChunk s port l id c q) := by
  grind [csendChunk, memOk_virtRead, memOk_failHead, memOk_putHead, memOk_sendChunk]

theorem memOk_partChunk (h : MemOk s) (port l id w rest) : MemOk (partChunk s port l id w rest) := by
  grind [partChunk, memOk_setCirc, memOk_sendChunk, memOk_pieceSent]

theorem memOk_originChunk (h : MemOk s) (port l id r) : MemOk (originChunk s port l id r) := by
  grind [originChunk, memOk_csendChunk, memOk_partChunk]

theorem memOk_transitChunk (h : MemOk s) (port l id) : MemOk (transitChunk s port l id) := by
  grind [transitChunk, memOk_setCirc, memOk_sendChunk]

theorem memOk_pointCol (h : MemOk s) (g) : MemOk (pointCol s g) := by
  grind [pointCol, memOk_setLane]

theorem memOk_colSlot (h : MemOk s) (g) : MemOk (colSlot s g) := by
   grind [colSlot, memOk_count, memOk_setCirc, memOk_sendReplay, memOk_pointCol, memOk_sendChunk, memOk_modFab,
      memOk_originChunk, memOk_transitChunk]

theorem memOk_colHeader (h : MemOk s) (g) : MemOk (colHeader s g) := by
  grind [colHeader, memOk_sendHeader]

theorem memOk_newSlot (h : MemOk s) : MemOk (newSlot s) := by
  grind [newSlot, memOk_setLane, memOk_foldl]

theorem memOk_slotAdvance (h : MemOk s) : MemOk (slotAdvance s) := by
   grind [slotAdvance, memOk_timePasses, memOk_newSlot, memOk_planEpoch, memOk_swapPort, memOk_colSlot, memOk_pointCol,
      memOk_colHeader, memOk_serveOut, memOk_foldl, MemOk]

/-! #### HostIf -/

theorem memOk_aerNote (h : MemOk s) (k) : MemOk (aerNote s k) := by
  grind [aerNote, memOk_modPkg]

theorem memOk_hostError (h : MemOk s) (n off bar write bytes st cause) : MemOk (hostError s n off bar write bytes st cause) := by
  grind [hostError, memOk_modFn, memOk_raise]

theorem memOk_evtHeadWrite (h : MemOk s) (n v) : MemOk (evtHeadWrite s n v) := by
  grind [evtHeadWrite, memOk_setFn]

theorem memOk_mbxPost (h : MemOk s) (n v) : MemOk (mbxPost s n v) := by
  grind [mbxPost, memOk_postSeq]

theorem memOk_msixWrite (h : MemOk s) (n off bs) : MemOk (msixWrite s n off bs) := by
  grind [msixWrite, memOk_setFn, memOk_msixSignal, memOk_foldl]

theorem memOk_mbxRegWrite (h : MemOk s) (n p) : MemOk (mbxRegWrite n s p) := by
  grind [mbxRegWrite, memOk_mbxPost, memOk_evtHeadWrite]

theorem memOk_bar0Write (h : MemOk s) (n off bs) : MemOk (bar0Write s n off bs) := by
  unfold bar0Write
  extract_lets f b
  split
  · grind [memOk_setFn]
  · split
    · exact memOk_msixWrite h ..
    · split
      · split
        · exact h
        · exact memOk_setFn h ..
      · split
        · exact memOk_foldl (fun _ _ hs => memOk_mbxRegWrite hs ..) _ h
        · exact h

theorem memOk_registerWrite (h : MemOk s) (n off bs) : MemOk (registerWrite s n off bs) := by
  grind [registerWrite, memOk_bar0Write, memOk_hostError]

theorem memOk_readParts (h : MemOk s) (ps) : MemOk (readParts ps s).1 := by
  induction ps generalizing s with
  | nil => exact h
  | cons p r ih =>
    have hm := memOk_memRead h ⟨0, none⟩ p.1 p.2
    unfold readParts
    split
    · next v _ hv => rw [hv] at hm; exact hm
    · next v _ hv =>
      rw [hv] at hm
      have := ih hm
      split <;> simp_all

theorem memOk_bar2Read (h : MemOk s) (n off len) : MemOk (bar2Read s n off len) := by
  grind [bar2Read, memOk_hostError, memOk_aerNote, memOk_readParts, MemOk]

theorem memOk_hostPiece (h : MemOk s) (n off p) : MemOk (hostPiece n off s p) := by
  grind [hostPiece, memOk_memWrite, memOk_memRead, memOk_raise]

theorem memOk_bar2Write (h : MemOk s) (n off bs) : MemOk (bar2Write s n off bs) := by
  grind [bar2Write, memOk_hostError, memOk_hostPiece, memOk_foldl]

theorem memOk_bodyEventRing (h : MemOk s) (n c p) : MemOk (bodyEventRing s n c p).1 := by
  unfold bodyEventRing
  grind [memOk_checked, memOk_modFn]

theorem memOk_msixModeration (h : MemOk s) (n) : MemOk (msixModeration s n) := by
  grind [msixModeration, memOk_msixSignal, memOk_setFn]

theorem memOk_flrFn (h : MemOk s) (n) : MemOk (flrFn s n) := by
  grind [flrFn, memOk_modFn, memOk_lateDrains]

theorem memOk_vfFlr (h : MemOk s) (n) : MemOk (vfFlr s n) := by
  grind [vfFlr, memOk_requestReset, memOk_flrFn]

theorem memOk_failHost (h : MemOk s) (c) : MemOk (failHost s c) := by
  grind [failHost, memOk_failAll]

theorem memOk_linkLoss (h : MemOk s) : MemOk (linkLoss s) := by
  grind [linkLoss, memOk_failHost, memOk_modPkg, memOk_foldl]

theorem memOk_numVfsChange (h : MemOk s) (n) : MemOk (numVfsChange s n) := by
  grind [numVfsChange, memOk_vfFlr, memOk_modPkg, memOk_foldl]

theorem memOk_barResize (h : MemOk s) (n k) : MemOk (barResize s n k) := by
  grind [barResize, memOk_modFn]

/-! #### Mover -/

theorem memOk_srcRead (h : MemOk s) (c q space a n) : MemOk (srcRead s c q space a n).1 := by
  grind [srcRead, memOk_virtRead]

theorem memOk_dstPart {r : State × SrvReq} (h : MemOk r.1) (c p) : MemOk (dstPart c r p).1 := by
  grind [dstPart, memOk_virtWrite]

theorem memOk_dstWrite (h : MemOk s) (c q space a bs) : MemOk (dstWrite s c q space a bs).1 := by
  unfold dstWrite
  split
  · grind [memOk_hostWriteTo]
  · exact memOk_foldl_fst (fun _ _ hr => memOk_dstPart hr ..) _ h

theorem memOk_sendReq (h : MemOk s) (c epoch o) : MemOk (sendReq s c epoch o) := by
  grind [sendReq, memOk_emitTo, memOk_count]

theorem memOk_pumpReqs (h : MemOk s) (c n q) : MemOk (pumpReqs c n s q).1 := by
  induction n generalizing s q with
  | zero => exact h
  | succ n ih => grind [pumpReqs, memOk_sendReq]

theorem memOk_movePart {r : State × SrvReq × Option Status} (h : MemOk r.1) (c g) : MemOk (movePart c r g).1 := by
  obtain ⟨s, q, st⟩ := r
  cases st <;> grind [movePart, memOk_srcRead, memOk_dstWrite]

theorem memOk_settleMove (h : MemOk s) (c q) : MemOk (settleMove s c q) := by
  grind [settleMove, memOk_pumpReqs, memOk_putHead]

theorem memOk_moveGo (h : MemOk s) (c q idx) : MemOk (moveGo s c q idx) := by
  have hl (gs : List Seg) (q : SrvReq) : MemOk (gs.foldl (movePart c) (s, q, none)).1 :=
    memOk_foldl_fst (fun _ _ hr => memOk_movePart hr ..) gs h
  grind [moveGo, memOk_failHead, memOk_settleMove]

theorem memOk_readIdx (h : MemOk s) (c q) : MemOk (readIdx s c q).1 := by
  grind [readIdx, memOk_virtRead]

theorem memOk_moveCheck (h : MemOk s) (c q) : MemOk (moveCheck s c q).1 := by
  grind [moveCheck, memOk_readIdx]

theorem memOk_askIdx {r : State × SrvReq × Option Status} (h : MemOk r.1) (c p) : MemOk (askIdx c r p).1 := by
  obtain ⟨s, q, st⟩ := r
  cases st <;> grind [askIdx, memOk_virtRead]

theorem memOk_settle (h : MemOk s) (c q) : MemOk (settle s c q) := by
  grind [settle, memOk_settleMove, memOk_pumpReqs, memOk_putHead, memOk_failHead, memOk_moveGo]

theorem memOk_moveWork (h : MemOk s) (c q) : MemOk (moveWork s c q) := by
  have hl (ps : List (Nat × List Byte)) (q : SrvReq) : MemOk (ps.foldl (askIdx c) (s, q, none)).1 :=
    memOk_foldl_fst (fun _ _ hr => memOk_askIdx hr ..) ps h
  grind [moveWork, memOk_failHead, memOk_settle, memOk_moveGo]

theorem memOk_moveStart (h : MemOk s) (op c m) : MemOk (moveStart op c m s) := by
  grind [moveStart, memOk_serve, memOk_moveCheck, memOk_moveWork]

theorem memOk_doneRow (h : MemOk s) (cls c u) : MemOk (doneRow cls c u s) := by
  grind [doneRow, memOk_finishHead]

/-! #### Update -/

theorem memOk_reqRead (h : MemOk s) (c q va n) : MemOk (reqRead s c q va n).1 := by
  grind [reqRead, memOk_virtRead]

theorem memOk_updSkip (h : MemOk s) (c q) : MemOk (updSkip s c q).1 := by
  grind [updSkip, memOk_reqRead]

theorem memOk_updCheck (h : MemOk s) (c q) : MemOk (updCheck s c q).1 := by
  grind [updCheck, memOk_updSkip, memOk_reqRead]

theorem memOk_lineIn (h : MemOk s) (c q va bs) : MemOk (lineIn s c q va bs).1 := by
  grind [lineIn, memOk_virtWrite]

theorem memOk_runIn {r : State × SrvReq} (h : MemOk r.1) (c p) : MemOk (runIn c r p).1 :=
  memOk_foldl_fst (fun _ _ hr => memOk_lineIn hr ..) _ h

theorem memOk_loadVec (h : MemOk s) (c q r n) : MemOk (loadVec s c q r n).1 := by
  unfold loadVec
  extract_lets d f k get
  have hget (a g) (ha : MemOk a.1) : MemOk (get a g).1 := by
    unfold get
    grind [memOk_reqRead]
  clear_value get
  have hl (gs : List (Nat × Nat)) : MemOk (gs.foldl get (s, .ok [])).1 := memOk_foldl_fst hget gs h
  have hg := hl ((vecRuns d f k).map fun g => (usElem r + g.1, g.2))
  split <;> rename_i hq <;> rw [hq] at hg
  · exact hg
  · rename_i u bs
    have hs := hget (u, .ok []) (usScale r + k * vecScales f, vecScales f) hg
    split
    · split <;> rename_i hq <;> rw [hq] at hs <;> exact hs
    · exact hg

theorem memOk_updOne {r : URun} (h : MemOk r.s) (c w) : MemOk (updOne c r w).s := by
  have hl (ps : List (Nat × List Byte)) : MemOk (ps.foldl (runIn c) (r.s, r.q)).1 :=
    memOk_foldl_fst (fun _ _ hr => memOk_runIn hr ..) ps h
  grind [updOne, memOk_loadVec, memOk_setUnit]

theorem memOk_updPasses {r : URun} (h : MemOk r.s) (c body n) : MemOk (updPasses c body n r).s := by
  induction n generalizing r with
  | zero => exact h
  | succ n ih =>
    unfold updPasses
    split
    · exact h
    · exact ih (memOk_foldl_by URun.s (fun _ _ hr => memOk_updOne hr ..) _ h)

theorem memOk_updRun (h : MemOk s) (c q k) : MemOk (updRun s c q k) := by
  grind [updRun, memOk_updPasses, memOk_failHead, memOk_putHead]

theorem memOk_updWork (h : MemOk s) (c q skip) : MemOk (updWork s c q skip) := by
  grind [updWork, memOk_putHead, memOk_setUnit, memOk_reqRead, memOk_failHead, memOk_updRun]

theorem memOk_updOn (h : MemOk s) (c u) : MemOk (updOn c u s) := by
  grind [updOn, memOk_updRun]

theorem memOk_updStart (h : MemOk s) (only c u) : MemOk (updStart only c u s) := by
  have hs := memOk_startHead h updPre c 3 u.val
  unfold updStart
  split <;> grind [Start.MemOk, memOk_updOn, memOk_failHead, memOk_updCheck, memOk_updWork, memOk_takeCredits]

theorem memOk_quiesce (h : MemOk s) (c) : MemOk (quiesce s c) := by
  grind [quiesce, memOk_updPasses, memOk_foldl]

theorem memOk_raiseVersion (h : MemOk s) (c q) : MemOk (raiseVersion s c q).1 := by
  grind [raiseVersion, memOk_reqRead, memOk_virtWrite]

theorem memOk_updNonfinite (h : MemOk s) (c q) : MemOk (updNonfinite s c q) := by
  grind [updNonfinite, memOk_raise]

theorem memOk_updDone (h : MemOk s) (c u) : MemOk (updDone c u s) := by
  grind [updDone, memOk_updRun, memOk_raiseVersion, memOk_failHead, memOk_virtWrite, memOk_finishHead, memOk_updNonfinite]

theorem memOk_updAlone (h : MemOk s) (op u w) : MemOk (updAlone op u w s) := by
  grind [updAlone, memOk_setUnit, memOk_putHead, memOk_updOne, memOk_failHead]

/-! #### Resets -/

theorem memOk_answerWait (h : MemOk s) (w a) : MemOk (answerWait s w a) := by
  grind [answerWait, memOk_answer, memOk_foldl]

theorem memOk_ctxResetDone (h : MemOk s) (c) : MemOk (ctxResetDone s c) := by
   grind [ctxResetDone, memOk_clearTiles, memOk_quiesce, memOk_setCtx, memOk_clearGrants, memOk_resetRecord, memOk_raise,
      memOk_destroyCtx, memOk_answerTo, memOk_answerWait, memOk_foldl]

theorem memOk_takeOver (h : MemOk s) (c) : MemOk (takeOver s c) := by
  grind [takeOver, memOk_resetRecord, memOk_answerWait]

theorem memOk_computeReset (h : MemOk s) (cause fn) : MemOk (computeReset s cause fn) := by
  grind [computeReset, memOk_modPkg, memOk_takeOver, memOk_enterReset, memOk_foldl]

theorem memOk_escAdd (h : MemOk s) (cause) : MemOk (escAdd s cause) := by
  grind [escAdd, memOk_modHal]

theorem memOk_setStep (h : MemOk s) (want) : MemOk (setStep s want) := by
  grind [setStep, memOk_modReef, memOk_reasonOn, memOk_raise]

theorem memOk_computeStart (h : MemOk s) : MemOk (computeStart s) := by
  grind [computeStart, memOk_setStep, memOk_memZero, MemOk]

theorem memOk_enterOos (h : MemOk s) : MemOk (enterOos s) := by
  grind [enterOos, memOk_modPkg, memOk_modHal, memOk_reasonOn, memOk_raise]

theorem memOk_escalate (h : MemOk s) (cause) : MemOk (escalate s cause).1 := by
  grind [escalate, memOk_escAdd, memOk_raise]

theorem memOk_computeResetDone (h : MemOk s) : MemOk (computeResetDone s) := by
   grind [computeResetDone, memOk_quiesce, memOk_modMem, memOk_dropAll, memOk_modReef, memOk_computeStart, memOk_modPkg,
      memOk_escalate, memOk_resetRecord, memOk_enterOos, memOk_raise, memOk_modHal, memOk_answerTo, memOk_foldl, MemOk]

theorem memOk_teardownStuck (h : MemOk s) (c) : MemOk (teardownStuck s c) := by
  grind [teardownStuck, memOk_computeReset]

theorem memOk_bodyComputeReset (h : MemOk s) (n c p) : MemOk (bodyComputeReset s n c p).1 := by
  unfold bodyComputeReset
  grind [memOk_computeReset]

theorem memOk_bodyReturn (h : MemOk s) (n c p) : MemOk (bodyReturn s n c p).1 := by
  unfold bodyReturn
  grind [memOk_modHal, memOk_fbCounters, memOk_modPkg]

theorem memOk_pfFlr (h : MemOk s) : MemOk (pfFlr s) := by
  grind [pfFlr, memOk_flrFn, memOk_modPkg, memOk_computeReset]

theorem memOk_bodyEscWrite (h : MemOk s) (n c p) : MemOk (bodyEscWrite s n c p).1 := by
  unfold bodyEscWrite
  grind [memOk_checked, memOk_modHal]

theorem memOk_halyardRestart (h : MemOk s) (memErr) : MemOk (halyardRestart s memErr) := by
  grind [halyardRestart, memOk_drawNat, memOk_answer, memOk_lateDrains, memOk_modPkg, memOk_foldl]

theorem memOk_goOos (h : MemOk s) : MemOk (goOos s) := by
   grind [goOos, memOk_computeResetDone, memOk_enterReset, memOk_quiesce, memOk_modMem, memOk_dropAll, memOk_enterOos,
      memOk_modPkg, memOk_foldl, MemOk]

theorem memOk_restartOver (h : MemOk s) : MemOk (restartOver s) := by
   grind [restartOver, memOk_modHal, memOk_modPkg, memOk_takeEvent, memOk_escalate, memOk_resetRecord, memOk_tallyAdd,
      memOk_raise, memOk_answerUnknown, memOk_goOos, memOk_foldl]

theorem memOk_slotTick (h : MemOk s) : MemOk (slotTick s) := by
  grind [slotTick, memOk_restartOver, memOk_slotAdvance]

theorem memOk_trimRestart (h : MemOk s) (die) : MemOk (trimRestart s die) := by
  grind [trimRestart, memOk_moveLoop, memOk_resetRecord, memOk_tallyAdd, memOk_raise, memOk_foldl]

/-! #### Boot -/

theorem memOk_fbFlush (h : MemOk s) : MemOk (fbFlush s) := by
  grind [fbFlush, memOk_modHal, memOk_foldl]

theorem memOk_abandonResets (h : MemOk s) : MemOk (abandonResets s) := by
  grind [abandonResets, memOk_resetRecord, memOk_foldl]

theorem memOk_packageReset (h : MemOk s) : MemOk (packageReset s) := by
  have ha : MemOk (if s.pins.perstN && s.pkg.halyardUp then abandonResets s else s) := by grind [memOk_abandonResets]
  exact ha

theorem memOk_perstAssert (h : MemOk s) : MemOk (perstAssert s) := by
  grind [perstAssert, memOk_packageReset]

theorem memOk_auxLost (h : MemOk s) : MemOk (auxLost s) := by
  grind [auxLost, memOk_packageReset, memOk_modHal, memOk_modPins]

theorem memOk_coreLost (h : MemOk s) : MemOk (coreLost s) := by
  grind [coreLost, memOk_packageReset, memOk_modPins]

theorem memOk_mastLost (h : MemOk s) (sramKept) : MemOk (mastLost s sramKept) := by
  grind [mastLost, memOk_auxLost, memOk_modPins, memOk_modHal, memOk_modOpt, memOk_modReef]

theorem memOk_testLow (h : MemOk s) : MemOk (testLow s) := by
  grind [testLow, memOk_modPins, memOk_perstAssert]

theorem memOk_powerUp (h : MemOk s) : MemOk (powerUp s) := by
  unfold powerUp
  split <;> exact h

theorem memOk_stopBoot (h : MemOk s) (step) : MemOk (stopBoot s step) := by
  grind [stopBoot, memOk_modPkg, memOk_bootRecord]

theorem memOk_bootTrim (h : MemOk s) (e) : MemOk (bootTrim s e) := by
  grind [bootTrim, memOk_modReef, memOk_fbAppend, memOk_foldl, MemOk]

theorem memOk_dieFault (h : MemOk s) (d) : MemOk (dieFault s d) := by
  grind [dieFault, memOk_loopFault, memOk_foldl]

theorem memOk_zeroAll (h : MemOk s) : MemOk (zeroAll s) := by
  grind [zeroAll, memOk_memZero]

theorem memOk_bootRotation (h : MemOk s) (faults) : MemOk (bootRotation s faults) := by
  grind [bootRotation, memOk_loopFault, memOk_drawNat, memOk_moveLoop, memOk_rotationRound, memOk_modOpt, memOk_foldl]

theorem memOk_bootCart (h : MemOk s) (e) : MemOk (bootCart s e) := by
  grind [bootCart, memOk_modOpt, memOk_calibrateCart, memOk_authFailed, memOk_lightOn, memOk_authPassed]

theorem memOk_bootRest (h : MemOk s) (e) : MemOk (bootRest s e) := by
   grind [bootRest, memOk_dieFault, memOk_bootTrim, memOk_stopBoot, memOk_zeroAll, memOk_bootCart, memOk_bootRotation,
      memOk_firstReady, memOk_computeStart, memOk_modPkg, memOk_resetRecord, memOk_bootRecord, memOk_foldl]

theorem memOk_startUp (h : MemOk s) (e) : MemOk (startUp s e) := by
  grind [startUp, memOk_modPins, memOk_modPkg, memOk_bootSelect, memOk_fbCounters, memOk_stopBoot, memOk_bootRest]

/-! #### Link -/

theorem memOk_linkCheck (h : MemOk s) (c q) : MemOk (linkCheck s c q).1 := by
  grind [linkCheck]

theorem memOk_newXfer (h : MemOk s) : MemOk (newXfer s).2 := by
  grind [newXfer, memOk_modFab]

theorem memOk_putWork (h : MemOk s) (c q) : MemOk (putWork s c q) := by
  grind [putWork, memOk_newXfer, memOk_virtRead, memOk_failHead, memOk_post, memOk_putHead, memOk_foldl]

theorem memOk_csendWork (h : MemOk s) (c q) : MemOk (csendWork s c q) := by
  grind [csendWork, memOk_newXfer, memOk_putHead]

theorem memOk_linkStart (h : MemOk s) (op c e) : MemOk (linkStart op c e s) := by
  grind [linkStart, memOk_serve, memOk_linkCheck, memOk_putWork, memOk_csendWork]

theorem memOk_dropIn (h : MemOk s) (i) : MemOk (dropIn s i) := by
  grind [dropIn, memOk_modFab]

theorem memOk_inboundRaise (h : MemOk s) (c tok sta ctx reef level) : MemOk (inboundRaise s c tok sta ctx reef level) := by
  grind [inboundRaise, memOk_modCtx, memOk_raiseToken]

theorem memOk_xferWrite (h : MemOk s) (x i) : MemOk (xferWrite s x i) := by
  grind [xferWrite, memOk_stageWrite, memOk_dropIn, memOk_inboundRaise, memOk_postAck, memOk_modFab]

theorem memOk_putArrival (h : MemOk s) (x) : MemOk (putArrival s x) := by
  grind [putArrival, memOk_postAck, memOk_dropIn, memOk_xferWrite]

theorem memOk_acknowledge (h : MemOk s) (c e xfer) : MemOk (acknowledge c e xfer s) := by
  grind [acknowledge, memOk_finishHead, memOk_creditBack]

theorem memOk_nakIn (h : MemOk s) (c e xfer kind coll) : MemOk (nakIn c e xfer kind coll s) := by
  unfold nakIn
  split <;> grind [memOk_failHead, memOk_creditBack]

theorem memOk_linkTimeout (h : MemOk s) (c e xfer) : MemOk (linkTimeout c e xfer s) := by
  grind [linkTimeout, memOk_failHead]

theorem memOk_closeIn (h : MemOk s) (c sta ctx xfer) : MemOk (closeIn c sta ctx xfer s) := by
  grind [closeIn, memOk_modFab, memOk_dueStopW]

/-! #### Collect -/

theorem memOk_CRun_next {r : CRun} (h : MemOk r.s) {f : CRun → CRun} (hf : MemOk (f r).s) : MemOk (r.next f).s := by
  grind [CRun.next]

theorem memOk_CRun_bad {r : CRun} (h : MemOk r.s) (st) : MemOk (CRun.bad r st).s := by
  grind [CRun.bad]

theorem memOk_CRun_done {r : CRun} (h : MemOk r.s) (c) : MemOk (CRun.done r c) := by
  grind [CRun.done, memOk_failHeadW, memOk_putHead]

theorem memOk_CRun_write {r : CRun} (h : MemOk r.s) (c va bs) : MemOk (CRun.write r c va bs).s := by
  grind [CRun.write, memOk_virtWrite]

theorem memOk_CRun_read {r : CRun} (h :
    MemOk r.s) {f : CRun → List Byte → CRun} (hf : ∀ r bs, MemOk r.s → MemOk (f r bs).s) (c va n) :
    MemOk (r.read c va n f).s := by
  grind [CRun.read, memOk_reqRead]

theorem memOk_tell (h : MemOk s) (c k who carries) : MemOk (tell s c k who carries) := by
  grind [tell, memOk_postAck]

theorem memOk_postSeg (h : MemOk s) (c q k key src stamp bs) : MemOk (postSeg s c q k key src stamp bs) := by
  grind [postSeg, memOk_setCirc, memOk_post, memOk_foldl]

theorem memOk_stampIn {r : CRun} (h : MemOk r.s) (c src stamp) : MemOk (stampIn c src stamp r).s := by
  grind [stampIn, memOk_CRun_write, memOk_CRun_read, memOk_CRun_bad]

theorem memOk_ownStamp {r : CRun} (h : MemOk r.s) {f : CRun → BitVec 128 → CRun} (hf : ∀ r v, MemOk r.s → MemOk (f r v).s) (c) :
    MemOk (ownStamp c r f).s := by
  unfold ownStamp
  split
  · exact hf r 0 h
  · exact memOk_CRun_read h (fun r bs hr => by grind [CRun.bad]) ..

theorem memOk_sendKey {r : CRun} (h : MemOk r.s) (c key n) : MemOk (sendKey c key n r).s := by
  induction n generalizing r with
  | zero => exact h
  | succ n ih =>
    unfold sendKey
    dsimp only
    split
    · exact h
    · split
      · exact h
      · apply ih
        grind [memOk_ownStamp, memOk_postSeg]

theorem memOk_askTo {r : CRun} (h : MemOk r.s) (c key target) : MemOk (askTo c r key target).s := by
  grind [askTo, memOk_tell, memOk_foldl]

theorem memOk_askRing {r : CRun} (h : MemOk r.s) (c keys) : MemOk (askRing c keys r).s :=
  memOk_foldl_by (fun a : CRun × Nat => a.1.s) (fun _ _ ha => memOk_askTo ha ..) _ h

theorem memOk_askAll {r : CRun} (h : MemOk r.s) (c) : MemOk (askAll c r).s := by
  grind [askAll, memOk_askRing, memOk_askTo, memOk_foldl_crun]

theorem memOk_writeOwn {r : CRun} (h : MemOk r.s) (c) : MemOk (writeOwn c r).s := by
  grind [writeOwn, memOk_CRun_write]

theorem memOk_unstage {r : CRun} (h : MemOk r.s) (b) : MemOk (unstage b r).s := by
  grind [unstage]

theorem memOk_freeSlot {r : CRun} (h : MemOk r.s) (c n g) : MemOk (freeSlot c n g r).s := by
  induction n generalizing g r with
  | zero => exact h
  | succ n ih => grind [freeSlot, memOk_CRun_read, memOk_CRun_write, memOk_unstage, memOk_askTo]

theorem memOk_stageNext {r : CRun} (h : MemOk r.s) (c n) : MemOk (stageNext c n r).s := by
  induction n generalizing r with
  | zero => exact h
  | succ n ih => grind [stageNext, memOk_CRun_read, memOk_CRun_write, memOk_freeSlot]

theorem memOk_permSend {r : CRun} (h : MemOk r.s) (c key) : MemOk (permSend c key r).s := by
  grind [permSend, memOk_CRun_read, memOk_postSeg]

theorem memOk_permPump {r : CRun} (h : MemOk r.s) (c) : MemOk (permPump c r).s := by
  grind [permPump, memOk_CRun_next, memOk_permSend, memOk_foldl_crun]

theorem memOk_permFree {r : CRun} (h : MemOk r.s) (c b) : MemOk (permFree c b r).s := by
  grind [permFree, memOk_stageNext, memOk_unstage, memOk_freeSlot]

theorem memOk_permAgree {r : CRun} (h : MemOk r.s) (c who) : MemOk (permAgree c who r).s := by
  grind [permAgree, memOk_stageNext]

theorem memOk_noteSent {r : CRun} (h : MemOk r.s) : MemOk (noteSent r).s := by
  grind [noteSent]

theorem memOk_pump {r : CRun} (h : MemOk r.s) (c) : MemOk (pump c r).s := by
  grind [pump, memOk_CRun_next, memOk_writeOwn, memOk_permPump, memOk_sendKey, memOk_askAll, memOk_noteSent, memOk_foldl_crun]

theorem memOk_readGroup (h : MemOk s) (c q) : MemOk (readGroup s c q).1 := by
  grind [readGroup, memOk_reqRead]

theorem memOk_collCheck (h : MemOk s) (c q) : MemOk (collCheck s c q).1 := by
  have hg := memOk_readGroup h c q
  unfold collCheck
  extract_lets d x get
  have hget (s va n f) (hs : MemOk s) (hf : ∀ s bs, MemOk s → MemOk (f s bs).1) : MemOk (get s va n f).1 := by
    grind [memOk_reqRead]
  grind

theorem memOk_fillStaging {r : CRun} (h : MemOk r.s) (c) : MemOk (fillStaging c r).s := by
  grind [fillStaging, memOk_drawNat, memOk_CRun_write]

theorem memOk_ownStart {r : CRun} (h : MemOk r.s) (c) : MemOk (ownStart c r).s := by
   grind [ownStart, memOk_CRun_next, memOk_ownStamp, memOk_stampIn, memOk_CRun_write, memOk_tell, memOk_stageNext,
      memOk_fillStaging, memOk_foldl]

theorem memOk_takeGrant {r : CRun} (h : MemOk r.s) (c g) : MemOk (takeGrant c r g).s := by
  grind [takeGrant, memOk_permAgree]

theorem memOk_mismatch {r : CRun} (h : MemOk r.s) (c sta ctx) : MemOk (mismatch c r sta ctx).s := by
  grind [mismatch, memOk_postAck]

theorem memOk_takeEarly {r : CRun} (h : MemOk r.s) (c) : MemOk (takeEarly c r).s := by
  grind [takeEarly, memOk_modCtx, memOk_CRun_next, memOk_mismatch, memOk_takeGrant, memOk_foldl_crun]

theorem memOk_collWork (h : MemOk s) (c q k) : MemOk (collWork s c q k) := by
  unfold collWork
  have hu := memOk_newXfer (memOk_modCtx h c fun x => bumpGroup x q.unit k.hash)
  extract_lets d
  split
  rename_i heq
  rw [heq] at hu
  extract_lets r r'
  have h₀ : MemOk r'.s := by
    refine memOk_CRun_read (r := r) hu ?_ _ _ _
    intro r bs hr
    exact hr
  clear_value r'
  have h₁ := memOk_CRun_next h₀ (memOk_ownStart h₀ c)
  have h₂ := memOk_CRun_next h₁ (memOk_takeEarly h₁ c)
  have h₃ := memOk_CRun_next h₂ (memOk_pump h₂ c)
  exact memOk_CRun_done h₃ c

theorem memOk_collStart (h : MemOk s) (op c e) : MemOk (collStart op c e s) := by
  have hs := memOk_startHead h noPre c 5 e.val
  unfold collStart
  split <;> rename_i heq <;> rw [heq] at hs
  · exact h
  · exact memOk_failHead hs ..
  · split
    · exact h
    · rename_i u q _
      have hc := memOk_collCheck (s := u) hs c q
      split <;> rename_i hq <;> rw [hq] at hc
      · exact memOk_failHead hc ..
      · exact memOk_collWork (memOk_takeCredits hc ..) ..

theorem memOk_staleStop (h : MemOk s) (c sta ctx hash seq) : MemOk (staleStop s c sta ctx hash seq) := by
  grind [staleStop, memOk_dueStop, memOk_postAck]

theorem memOk_grantIn (h : MemOk s) (g) : MemOk (grantIn s g) := by
   grind [grantIn, memOk_postAck, memOk_CRun_done, memOk_mismatch, memOk_CRun_next, memOk_takeGrant, memOk_pump,
      memOk_staleStop, memOk_modCtx]

theorem memOk_pieceLast {r : CRun} (h : MemOk r.s) (c p) : MemOk (pieceLast c p r).s := by
  grind [pieceLast, memOk_postAck, memOk_inboundRaise]

theorem memOk_pieceTake {r : CRun} (h : MemOk r.s) (c p key) : MemOk (pieceTake c p key r).s := by
  grind [pieceTake, memOk_stampIn, memOk_CRun_next, memOk_CRun_write, memOk_pieceLast]

theorem memOk_pieceIn (h : MemOk s) (p) : MemOk (pieceIn s p) := by
  grind [pieceIn, memOk_postAck, memOk_staleStop, memOk_CRun_done, memOk_mismatch, memOk_CRun_next, memOk_pieceTake, memOk_pump]

theorem memOk_countsIn (h : MemOk s) (c e hash seq counts) : MemOk (countsIn c e hash seq counts s) := by
  grind [countsIn, memOk_CRun_done, memOk_mismatch, memOk_CRun_write, memOk_tell, memOk_pump, memOk_foldl]

theorem memOk_collAck (h : MemOk s) (c e a) : MemOk (collAck c e a s) := by
  grind [collAck, memOk_CRun_done, memOk_CRun_next, memOk_permFree, memOk_pump]

theorem memOk_ackIn (h : MemOk s) (c e a) : MemOk (ackIn c e a s) := by
  unfold ackIn
  split <;> grind [memOk_acknowledge, memOk_collAck]

theorem memOk_collDone (h : MemOk s) (c e hash seq) : MemOk (collDone c e hash seq s) := by
  grind [collDone, memOk_finishHead, memOk_collNonfinite, memOk_modCtx]

theorem memOk_contextClosed (h : MemOk s) (c e hash seq sta ctx) : MemOk (contextClosed c e hash seq sta ctx s) := by
  grind [contextClosed, memOk_failHeadW]

/-! #### Diag -/

theorem memOk_writeDump (h : MemOk s) (seq cause hung) : MemOk (writeDump s seq cause hung).1 := by
  grind [writeDump, memOk_memWrite, memOk_modHal]

theorem memOk_hangSeq (h : MemOk s) (c) : MemOk (hangSeq s c) := by
  grind [hangSeq, memOk_stopCtx, memOk_writeDump, memOk_fbAppend, memOk_raise, memOk_requestReset, memOk_foldl]

theorem memOk_bodyDump (h : MemOk s) (n c p) : MemOk (bodyDump s n c p).1 := by
  unfold bodyDump
  grind [memOk_writeDump]

theorem memOk_bodyDumpRelease (h : MemOk s) (n c p) : MemOk (bodyDumpRelease s n c p).1 := by
  unfold bodyDumpRelease
  grind [memOk_checked, memOk_modHal]

theorem memOk_bodyTrace (h : MemOk s) (n c p) : MemOk (bodyTrace s n c p).1 := by
  unfold bodyTrace
  grind [memOk_checked, memOk_setCtx]

theorem memOk_bodyFbCopy (h : MemOk s) (n c p) : MemOk (bodyFbCopy s n c p).1 := by
  unfold bodyFbCopy
  grind [memOk_checked, memOk_hostWriteTo]

theorem memOk_bodyDumpCopy (h : MemOk s) (n c p) : MemOk (bodyDumpCopy s n c p).1 := by
  unfold bodyDumpCopy
  grind [memOk_checked, memOk_memRead, memOk_hostWriteTo]

theorem memOk_scrub (h : MemOk s) (addr upset pass) : MemOk (scrub s addr upset pass) := by
  grind [scrub, memOk_modMem, memOk_logErr, memOk_raise, memOk_foldl]

/-! #### DispEng -/

theorem memOk_dispCheck (h : MemOk s) (c q) : MemOk (dispCheck s c q).1 := by
  grind [dispCheck]

theorem memOk_dispWork (h : MemOk s) (c q) : MemOk (dispWork s c q) := by
  grind [dispWork, memOk_virtRead, memOk_failHead, memOk_putHead]

theorem memOk_dispStart (h : MemOk s) (kind c e) : MemOk (dispStart kind c e s) := by
  have hs := memOk_startHead h noPre c 4 e.val
  unfold dispStart
  split <;> grind [Start.MemOk, memOk_failHead, memOk_dispCheck, memOk_dispWork, memOk_takeCredits]

theorem memOk_dispDone (h : MemOk s) (c e) : MemOk (dispDone c e s) := by
  grind [dispDone, memOk_virtWrite, memOk_setCount, memOk_finishHead, memOk_foldl]

/-! #### Tile -/

theorem memOk_URes_ok (h : MemOk s) : MemOk (URes.ok s).s := by
  grind [URes.ok]

theorem memOk_URes_fail (h : MemOk s) (bs) : MemOk (URes.fail s bs).s := by
  grind [URes.fail]

theorem memOk_Rd_both {α β : Type} {f : Rd α} {g : Rd β} (hf : MemOk (f s).1) (hg : ∀ s, MemOk s → MemOk (g s).1) :
    MemOk (f.both g s).1 := hg _ hf

theorem memOk_Rd_act {α : Type} {f : Rd α} (hf : MemOk (f s).1) {k : State → α → URes} (hk : ∀ s a, MemOk s → MemOk (k s a).s)
    (bads) : MemOk (Rd.act f bads k s).s := by
  grind [Rd.act, URes.fail]

theorem memOk_tileRead (h : MemOk s) (w a n) : MemOk (tileRead w a n s).1 := by
  grind [tileRead, memOk_memRead]

theorem memOk_readUnits (h : MemOk s) (w rec_ a n m sp) : MemOk (readUnits w rec_ a n m sp s).1 := by
  have ht (a n s) (hs : MemOk s) : MemOk (tileRead w a n s).1 := memOk_tileRead hs ..
  unfold readUnits
  extract_lets f esz u e scales nibbles
  have hs : ∀ s, MemOk s → MemOk (scales s).1 := by
    intro s hs
    unfold scales
    split
    · exact ht _ _ _ hs
    · exact hs
  have hn : ∀ s, MemOk s → MemOk (nibbles s).1 := by
    intro s h
    unfold nibbles
    split
    · exact h
    · exact ht _ _ _ h
  have hb := memOk_Rd_both (ht a (n * u) s h) fun s h => memOk_Rd_both (hs s h) hn
  clear_value scales nibbles
  split <;> rename_i heq <;> rw [heq] at hb
  · exact hb
  · extract_lets raw
    split <;> exact hb

theorem memOk_readOperand (h : MemOk s) (w rec_ a rows k sp) : MemOk (readOperand w rec_ a rows k sp s).1 := by
  grind [readOperand, memOk_readUnits]

theorem memOk_putTwSet (h : MemOk s) (w x) : MemOk (putTwSet s w x) := by
  grind [putTwSet, memOk_setTile]

theorem memOk_startBlock (h : MemOk s) (w) : MemOk (startBlock s w).s := by
  grind [startBlock, memOk_URes_fail, memOk_URes_ok, memOk_putTwSet]

theorem memOk_matrixMac (h : MemOk s) (w) : MemOk (matrixMac w s).s := by
  unfold matrixMac
  extract_lets x
  split
  · exact h
  · split
    extract_lets past sp part k' readB
    have hB : ∀ s, MemOk s → MemOk (readB s).1 := by
      intro s hs
      unfold readB
      clear_value past part sp
      split
      · exact hs
      · split
        · exact hs
        · exact memOk_readOperand hs ..
    exact memOk_Rd_act (memOk_Rd_both (memOk_readOperand h ..) hB) (fun s a hs => memOk_putTwSet hs ..) _

theorem memOk_matrixClear (h : MemOk s) (w) : MemOk (matrixClear w s).s := by
  grind [matrixClear, memOk_URes_fail, memOk_URes_ok, memOk_putTwSet]

theorem memOk_matrixDrain (h : MemOk s) (w) : MemOk (matrixDrain w s).s := by
  grind [matrixDrain, memOk_URes_fail, memOk_putTwSet, memOk_URes_ok, memOk_modCtx]

theorem memOk_transposeLoad (h : MemOk s) (w) : MemOk (transposeLoad w s).s := by
  grind [transposeLoad, memOk_URes_fail, memOk_Rd_act, memOk_readUnits, memOk_setTile, memOk_URes_ok, memOk_nonfiniteEvent]

theorem memOk_matrixMacT (h : MemOk s) (w) : MemOk (matrixMacT w s).s := by
  grind [matrixMacT, memOk_URes_fail, memOk_Rd_act, memOk_readOperand, memOk_setTile, memOk_URes_ok, memOk_putTwSet]

theorem memOk_meshOp (h : MemOk s) (op w) : MemOk (meshOp op w s).s := by
  grind [meshOp, memOk_Rd_act, memOk_tileRead, memOk_URes_ok, memOk_modCtx]

theorem memOk_readLanes (h : MemOk s) (w a) : MemOk (readLanes w a s).1 := by
  have := memOk_tileRead h w a 1024
  unfold readLanes
  split <;> simp_all

theorem memOk_vec1 (h : MemOk s) (f w) : MemOk (vec1 f w s).s := by
  grind [vec1, memOk_Rd_act, memOk_readLanes]

theorem memOk_vec2 (h : MemOk s) (f w) : MemOk (vec2 f w s).s :=
  memOk_Rd_act (memOk_Rd_both (memOk_readLanes h ..) fun _ hs => memOk_readLanes hs ..) (fun _ _ hs => hs) _

theorem memOk_vecFma (h : MemOk s) (w) : MemOk (vecFma w s).s :=
  memOk_Rd_act (memOk_Rd_both (memOk_readLanes h ..) fun _ hs => memOk_Rd_both (memOk_readLanes hs ..) fun _ hs => memOk_readLanes hs ..)
    (fun _ _ hs => hs) _

theorem memOk_vecAll (h : MemOk s) (f w) : MemOk (vecAll f w s).s := by
  grind [vecAll, memOk_Rd_act, memOk_readLanes]

theorem memOk_vecSelect (h : MemOk s) (w) : MemOk (vecSelect w s).s :=
  memOk_Rd_act (memOk_Rd_both (memOk_readLanes h ..) fun _ hs => memOk_readLanes hs ..) (fun _ _ hs => hs) _

theorem memOk_vecCvt (h : MemOk s) (w) : MemOk (vecCvt w s).s := by
  grind [vecCvt, memOk_Rd_act, memOk_readUnits, memOk_modCtx, memOk_nonfiniteEvent]

theorem memOk_vecOp (h : MemOk s) (op w) : MemOk (vecOp op w s).s := by
  unfold vecOp
  split
  · exact memOk_vec2 h ..
  · exact memOk_vec2 h ..
  · exact memOk_vecFma h ..
  · exact memOk_vec2 h ..
  · exact memOk_vec2 h ..
  · exact memOk_vec1 h ..
  · exact memOk_vec1 h ..
  · exact memOk_vec1 h ..
  · exact memOk_vecCvt h ..
  · exact memOk_vecAll h ..
  · exact memOk_vecAll h ..
  · exact memOk_vecSelect h ..
  · exact h

theorem memOk_matrixOp (h : MemOk s) (op w) : MemOk (matrixOp op w s).s := by
  unfold matrixOp
  split
  · exact memOk_matrixMac h ..
  · exact memOk_matrixMacT h ..
  · exact memOk_matrixDrain h ..
  · exact memOk_matrixClear h ..
  · exact h

theorem memOk_WRes_run {r : WRes} (h : MemOk r.s) {act : State → URes} (ha : ∀ s, MemOk s → MemOk (act s).s) :
    MemOk (r.run act).s :=
  ha _ h

theorem memOk_runWord (h : MemOk s) (w) : MemOk (runWord w s).s := by
  grind [runWord, memOk_WRes_run, memOk_transposeLoad, memOk_matrixOp, memOk_meshOp, memOk_vecOp]

theorem memOk_finishWord {u : WRes} (h : MemOk u.s) (c w) : MemOk (finishWord c w u) := by
  grind [finishWord, memOk_tileWrite, memOk_stopCtxW, memOk_foldl]

theorem memOk_soloWord (h : MemOk s) {act : TW → State → URes} (ha : ∀ w s, MemOk s → MemOk (act w s).s) (u o mine) :
    MemOk (soloWord u o mine act s) := by
  grind [soloWord, memOk_stopCtx, memOk_WRes_run, memOk_startBlock, memOk_finishWord]

/-! #### Bundle -/

theorem memOk_fetchTo (h : MemOk s) (c pc n) : MemOk (fetchTo s c pc n).1 := by
  grind [fetchTo, memOk_virtRead, memOk_modCtx]

theorem memOk_readBundle (h : MemOk s) (c pc) : MemOk (readBundle s c pc).1 := by
  grind [readBundle, memOk_fetchTo]

theorem memOk_loopEnter (h : MemOk s) (c pc len) : MemOk (loopEnter s c pc len).1 := by
  grind [loopEnter, memOk_virtRead]

/-! #### Issue -/

theorem memOk_cycleTile {r : BeatRun × List (TW × Nat × List Byte)} (h : MemOk r.1.s) (i cyc t) :
    MemOk (cycleTile i cyc r t).1.s := by
  grind [cycleTile, memOk_runWord]

theorem memOk_runCycle {r : BeatRun} (h : MemOk r.s) (c b ts i) : MemOk (runCycle c b ts r i).s := by
  have hv (vs : List (TW × Nat × List Byte)) (s) (hs : MemOk s) : MemOk (vs.foldl (fun s v => tileWrite s v.1.t v.2.1 v.2.2) s) :=
    memOk_foldl (fun _ _ hs => memOk_tileWrite hs ..) vs hs
  exact hv _ _ (memOk_landUntil (memOk_foldl_by (fun a : BeatRun × _ => a.1.s) (fun _ _ ha => memOk_cycleTile ha ..) _ h) ..)

theorem memOk_runCycles (h : MemOk s) (c b ts bads) : MemOk (runCycles s c b ts bads).s :=
  memOk_foldl_by BeatRun.s (fun _ _ hr => memOk_runCycle hr ..) _ h

theorem memOk_startBlocks (h : MemOk s) (b ts) : MemOk (startBlocks b ts s).1 :=
  memOk_foldl_fst (fun r t hr => by grind [memOk_startBlock]) _ h

theorem memOk_traceBeat (h : MemOk s) (c replay tick tag rep iter ws) : MemOk (traceBeat s c replay tick tag rep iter ws) := by
  grind [traceBeat, memOk_traceWrite, memOk_foldl]

theorem memOk_closeRun (h : MemOk s) (c replay tick tag rep iter ws) : MemOk (closeRun s c replay tick tag rep iter ws) := by
  grind [closeRun, memOk_traceBeat, memOk_modCtx]

theorem memOk_stopBeat (h : MemOk s) (c bads later) : MemOk (stopBeat s c bads later) := by
  grind [stopBeat, memOk_stopCtxW, memOk_dueStop, memOk_foldl]

theorem memOk_passBoundary (h : MemOk s) (c) : MemOk (passBoundary s c) := by
  grind [passBoundary, memOk_modCtx]

theorem memOk_holdBeat (h : MemOk s) (c order tok) : MemOk (holdBeat s c order tok) := by
  grind [holdBeat, memOk_modCtx, memOk_passBoundary, memOk_landUntil]

theorem memOk_recordHist (h : MemOk s) (c hd) : MemOk (recordHist s c hd) := by
  grind [recordHist, memOk_setCtx]

theorem memOk_issueBeat (h : MemOk s) (c b) : MemOk (issueBeat s c b) := by
   grind [issueBeat, memOk_setCtx, memOk_startBlocks, memOk_recordHist, memOk_runCycles, memOk_closeRun, memOk_modCtx,
      memOk_stopBeat, memOk_passBoundary, memOk_capFail]

theorem memOk_replayBeat (h : MemOk s) (c rs n) : MemOk (replayBeat s c rs n) := by
   grind [replayBeat, memOk_setCtx, memOk_startBlocks, memOk_runCycles, memOk_closeRun, memOk_stopBeat, memOk_passBoundary,
      memOk_foldl]

theorem memOk_overrunEvents (h : MemOk s) (c) : MemOk (overrunEvents s c) := by
  grind [overrunEvents, memOk_raise, memOk_setCtx]

theorem memOk_exportPhase (h : MemOk s) (c rec_) : MemOk (exportPhase s c rec_).1 := by
  grind [exportPhase, memOk_virtWrite]

theorem memOk_afterTick (h : MemOk s) (c toEntry) : MemOk (afterTick s c toEntry) := by
  grind [afterTick, memOk_setCtx, memOk_takeStops, memOk_endIssue, memOk_enterReset]

theorem memOk_tickBeat (h : MemOk s) (c) : MemOk (tickBeat s c) := by
   grind [tickBeat, memOk_runCycles, memOk_closeRun, memOk_overrunEvents, memOk_applySwaps, memOk_exportPhase, memOk_modCtx,
      memOk_msixSignal, memOk_passBoundary, memOk_stopCtx, memOk_afterTick]

theorem memOk_prepare (h : MemOk s) (c fetched n) : MemOk (prepare c fetched n s).state := by
  induction n generalizing s with
  | zero => exact h
  | succ n ih =>
    have hr := memOk_readBundle h c (getCtx s c).is.pc
    unfold prepare
    extract_lets x pc
    split
    · exact h
    · split <;> rename_i heq <;> rw [heq] at hr
      · exact hr
      · rename_i u bs
        extract_lets b y t gs srv ready k len
        have ht : MemOk t := memOk_setCtx hr ..
        have hready : ∀ v x, MemOk v → MemOk (ready v x).state := by
          intro v x hv
          unfold ready
          split
          · exact memOk_setCtx hv ..
          · exact hv
        have hl := memOk_loopEnter ht c pc len
        clear_value t ready
        split
        · exact ht
        · split
          · exact ht
          · split
            · exact ht
            · split
              · exact hready _ _ ht
              · split
                · exact ih (memOk_setCtx ht ..)
                · split
                  · exact ht
                  · split <;> rename_i heq <;> rw [heq] at hl
                    · exact hl
                    · split
                      · exact hl
                      · exact hready _ _ hl

theorem memOk_peekPhase (h : MemOk s) (c) : MemOk (peekPhase s c) := by
  grind [peekPhase, memOk_readBundle, memOk_setCtx]

theorem memOk_bundleTurn (h : MemOk s) (c fetched) : MemOk (bundleTurn s c fetched) := by
  have hp := memOk_prepare h c fetched 4096
  grind [bundleTurn, Prep.state, memOk_issueBeat, memOk_holdBeat, memOk_peekPhase, memOk_stopCtxW]

theorem memOk_runBoundary (h : MemOk s) (c fetched) : MemOk (runBoundary c fetched s) := by
   grind [runBoundary, memOk_takeStops, memOk_enterReset, memOk_holdBeat, memOk_peekPhase, memOk_replayBeat, memOk_tickBeat,
      memOk_bundleTurn]

theorem memOk_boundary (h : MemOk s) (c fetched) : MemOk (boundary c fetched s) := by
  grind [boundary, memOk_sampleCtx, memOk_runBoundary]

theorem memOk_ctrlWord (h : MemOk s) (kind c w) : MemOk (ctrlWord kind c w s) := by
  grind [ctrlWord, memOk_stopCtx, memOk_dueStop, memOk_setCtx]

theorem memOk_gateWord (h : MemOk s) (c w) : MemOk (gateWord c w s) := by
  grind [gateWord, memOk_stopCtx, memOk_setCtx]

/-! #### Matrix -/

theorem memOk_meshLand (h : MemOk s) (c) : MemOk (meshLand c s) := by
  grind [meshLand, memOk_modCtx, memOk_landOne]

/-! #### Peer -/

theorem memOk_serveRead (h : MemOk s) (owner q) : MemOk (serveRead s owner q).1 :=
  memOk_foldl_fst (fun r g hr => by grind [memOk_memRead]) _ h

theorem memOk_serveWrite (h : MemOk s) (q) : MemOk (serveWrite s q) := by
  grind [serveWrite, memOk_memWrite, memOk_foldl]

theorem memOk_peerReq (h : MemOk s) (q) : MemOk (peerReq s q) := by
  grind [peerReq, memOk_keyCheck, memOk_emitTo, memOk_serveWrite, memOk_serveRead]

theorem memOk_landPart {r : State × SrvReq × Option Status} (h : MemOk r.1) (c line p) : MemOk (landPart c line r p).1 := by
  obtain ⟨s, q, st⟩ := r
  cases st <;> grind [landPart, memOk_dstWrite]

theorem memOk_peerRsp (h : MemOk s) (c m key epoch kind data) : MemOk (peerRsp c m key epoch kind data s) := by
  have hl (line : PartLine) (q : SrvReq) (ps : List (Nat × Nat × Nat × Nat)) : MemOk (ps.foldl (landPart c line) (s, q, none)).1 :=
    memOk_foldl_by (fun r => r.1) (f := landPart c line) (fun _ _ hr => memOk_landPart hr ..) ps (r := (s, q, none)) h
  unfold peerRsp
  grind [memOk_failHead, memOk_failHeadW, memOk_settle]

/-! #### Power -/

theorem memOk_reefWrite (h : MemOk s) (v) : MemOk (reefWrite s v).1 := by
  grind [reefWrite, memOk_modReef]

theorem memOk_reefSwap (h : MemOk s) : MemOk (reefSwap s).1 := by
  grind [reefSwap, memOk_modReef]

theorem memOk_bodyReefWrite (h : MemOk s) (n c p) : MemOk (bodyReefWrite s n c p).1 := by
  unfold bodyReefWrite
  grind [memOk_reefWrite]

theorem memOk_bodyReefSwap (h : MemOk s) (n c p) : MemOk (bodyReefSwap s n c p).1 := by
  unfold bodyReefSwap
  grind [memOk_reefSwap]

theorem memOk_setPartFloor (h : MemOk s) (level ms) : MemOk (setPartFloor s level ms) := by
  grind [setPartFloor, memOk_modReef]

theorem memOk_bodyReefFloor (h : MemOk s) (n c p) : MemOk (bodyReefFloor s n c p).1 := by
  unfold bodyReefFloor
  grind [memOk_checked, memOk_setPartFloor]

theorem memOk_applyPolicy (h : MemOk s) : MemOk (applyPolicy s) := by
  grind [applyPolicy, memOk_modReef, memOk_raise]

theorem memOk_thermalTrip (h : MemOk s) (kind subj temp limit) : MemOk (thermalTrip s kind subj temp limit) := by
  grind [thermalTrip, memOk_modPkg, memOk_modPins, memOk_raise, memOk_tallyAdd, memOk_computeReset]

theorem memOk_thermC (h : MemOk s) (t d) : MemOk (thermC s t d) := by
  grind [thermC, memOk_modReef, memOk_raise]

theorem memOk_thermM (h : MemOk s) (n t) : MemOk (thermM s n t) := by
  grind [thermM, memOk_modReef, memOk_raise]

theorem memOk_thermH (h : MemOk s) (d t) : MemOk (thermH s d t) := by
  grind [thermH, memOk_modReef, memOk_raise, memOk_tallyAdd, memOk_portDown, memOk_calibrate, memOk_foldl]

theorem memOk_thermal (h : MemOk s) (e) : MemOk (thermal s e) := by
  grind [thermal, memOk_thermC, memOk_thermM, memOk_thermH, memOk_thermalTrip, memOk_foldl]

theorem memOk_raiseRung (h : MemOk s) (k) : MemOk (raiseRung s k) := by
  grind [raiseRung, memOk_modReef]

theorem memOk_lowerRung (h : MemOk s) (k) : MemOk (lowerRung s k) := by
  grind [lowerRung, memOk_modReef]

theorem memOk_oncePerSecond (h : MemOk s) (code v0 v1) : MemOk (oncePerSecond s code v0 v1) := by
  grind [oncePerSecond, memOk_raise, memOk_noteOnce]

theorem memOk_raises (h : MemOk s) (est n) : MemOk (raises est n s) := by
  induction n generalizing s with
  | zero => exact h
  | succ n ih => grind [raises, memOk_oncePerSecond, memOk_raiseRung]

theorem memOk_arbitrate (h : MemOk s) (brake p1) : MemOk (arbitrate s brake p1) := by
  grind [arbitrate, memOk_modReef, memOk_raises, memOk_oncePerSecond, memOk_lowerRung]

theorem memOk_intervalBoundary (h : MemOk s) (e) : MemOk (intervalBoundary s e) := by
  grind [intervalBoundary, memOk_applyPolicy, memOk_modReef, memOk_thermal, memOk_arbitrate, memOk_modPkg, memOk_samplePkg]

theorem memOk_calibrateK (h : MemOk s) (milli) : MemOk (calibrateK s milli) := by
  grind [calibrateK, memOk_modReef, memOk_raise]

theorem memOk_calStale (h : MemOk s) : MemOk (calStale s) := by
  grind [calStale, memOk_raise, memOk_modReef]

theorem memOk_dvfsChange (h : MemOk s) (target) : MemOk (dvfsChange s target) := by
  grind [dvfsChange, memOk_setStep, memOk_modReef]

theorem memOk_droop (h : MemOk s) (d j) : MemOk (droop s d j) := by
  grind [droop, memOk_modReef]

theorem memOk_stretchFall (h : MemOk s) : MemOk (stretchFall s) := by
  grind [stretchFall, memOk_drawNat, memOk_modReef]

theorem memOk_droopSustained (h : MemOk s) : MemOk (droopSustained s) := by
  grind [droopSustained, memOk_oncePerSecond, memOk_modReef]

theorem memOk_trimDie (h : MemOk s) (d e) : MemOk (trimDie s d e) := by
  grind [trimDie, memOk_raise, memOk_modReef]

theorem memOk_marginTrim (h : MemOk s) (es) : MemOk (marginTrim s es) := by
  grind [marginTrim, memOk_trimDie, memOk_modReef, memOk_reasonOn, memOk_foldl]

theorem memOk_brakeAssert (h : MemOk s) : MemOk (brakeAssert s) := by
  grind [brakeAssert, memOk_modPkg, memOk_modPins]

theorem memOk_brakeDeassert (h : MemOk s) : MemOk (brakeDeassert s) := by
  grind [brakeDeassert, memOk_modPins]

theorem memOk_smbWrite (h : MemOk s) {f : State → State} (hf : MemOk s → MemOk (f s)) (n data pecOk) :
    MemOk (smbWrite s n data pecOk f) := by
  grind [smbWrite, MemOk]

theorem memOk_smbBmcCap (h : MemOk s) (v) : MemOk (smbBmcCap s v) := by
  grind [smbBmcCap, memOk_modReef, memOk_modHal]

theorem memOk_smbServed (h : MemOk s) {f : State → State × Ans} (hf : MemOk s → MemOk (f s).1) : MemOk (smbServed s f) := by
  grind [smbServed, memOk_modHal]

theorem memOk_smbAlertSrc (h : MemOk s) (v) : MemOk (smbAlertSrc s v) := by
  grind [smbAlertSrc, memOk_modHal]

theorem memOk_smbAlertResponse (h : MemOk s) : MemOk (smbAlertResponse s) := by
  unfold smbAlertResponse
  split <;> exact h

/-! #### The commands -/

/-- What each command does keeps the form. -/
theorem exec_memOk (h : MemOk s) (i : Instr) : ∃ t, exec i s = .next t ∧ MemOk t := by
  cases i with
  | ctxCreate _ => exact ⟨_, rfl, memOk_mailbox (fun _ n c p hs => memOk_bodyCtxCreate hs n c p) h ..⟩
  | ctxDestroy _ => exact ⟨_, rfl, memOk_mailbox (fun _ n c p hs => memOk_bodyCtxDestroy hs n c p) h ..⟩
  | ctxReset _ => exact ⟨_, rfl, memOk_mailbox (fun _ n c p hs => memOk_bodyCtxReset hs n c p) h ..⟩
  | ctxAllot _ => exact ⟨_, rfl, memOk_mailbox (fun _ n c p hs => memOk_bodyCtxAllot hs n c p) h ..⟩
  | ctxQuery _ => exact ⟨_, rfl, memOk_mailbox (fun _ n c p hs => memOk_bodyCtxQuery hs n c p) h ..⟩
  | setSrSeed _ => exact ⟨_, rfl, memOk_mailbox (fun _ n c p hs => memOk_bodySetSrSeed hs n c p) h ..⟩
  | setSparse _ => exact ⟨_, rfl, memOk_mailbox (fun _ n c p hs => memOk_bodySetSparse hs n c p) h ..⟩
  | map _ => exact ⟨_, rfl, memOk_mailbox (fun _ n c p hs => memOk_bodyMap hs n c p) h ..⟩
  | unmap _ => exact ⟨_, rfl, memOk_mailbox (fun _ n c p hs => memOk_bodyUnmap hs n c p) h ..⟩
  | unmapDrainComplete _ => exact ⟨_, rfl, memOk_drainComplete h ..⟩
  | unmapRangeBusy _ => exact ⟨_, rfl, memOk_drainBusy h ..⟩
  | grant _ => exact ⟨_, rfl, memOk_mailbox (fun _ n c p hs => memOk_bodyGrant hs n c p) h ..⟩
  | revoke _ => exact ⟨_, rfl, memOk_mailbox (fun _ n c p hs => memOk_bodyRevoke hs n c p) h ..⟩
  | bar2Cfg _ => exact ⟨_, rfl, memOk_mailbox (fun _ n c p hs => memOk_bodyBar2Cfg hs n c p) h ..⟩
  | remapApply _ => exact ⟨_, rfl, memOk_mailbox (fun _ n c p hs => memOk_bodyRemapApply hs n c p) h ..⟩
  | loadProgram _ => exact ⟨_, rfl, memOk_mailbox (fun _ n c p hs => memOk_bodyLoadProgram hs n c p) h ..⟩
  | loadSlotlib _ => exact ⟨_, rfl, memOk_mailbox (fun _ n c p hs => memOk_bodyLoadSlotlib hs n c p) h ..⟩
  | loadRecipes _ => exact ⟨_, rfl, memOk_mailbox (fun _ n c p hs => memOk_bodyLoadRecipes hs n c p) h ..⟩
  | loadRetention _ => exact ⟨_, rfl, memOk_mailbox (fun _ n c p hs => memOk_bodyLoadRetention hs n c p) h ..⟩
  | loadDispatch _ => exact ⟨_, rfl, memOk_mailbox (fun _ n c p hs => memOk_bodyLoadDispatch hs n c p) h ..⟩
  | loadUpdate _ => exact ⟨_, rfl, memOk_mailbox (fun _ n c p hs => memOk_bodyLoadUpdate hs n c p) h ..⟩
  | run _ => exact ⟨_, rfl, memOk_mailbox (fun _ n c p hs => memOk_bodyRun hs n c p) h ..⟩
  | stop _ => exact ⟨_, rfl, memOk_mailbox (fun _ n c p hs => memOk_bodyStop hs n c p) h ..⟩
  | swap _ => exact ⟨_, rfl, memOk_mailbox (fun _ n c p hs => memOk_bodySwap hs n c p) h ..⟩
  | withdraw _ => exact ⟨_, rfl, memOk_mailbox (fun _ n c p hs => memOk_bodyWithdraw hs n c p) h ..⟩
  | slipClear _ => exact ⟨_, rfl, memOk_mailbox (fun _ n c p hs => memOk_bodySlipClear hs n c p) h ..⟩
  | phaseExport _ => exact ⟨_, rfl, memOk_mailbox (fun _ n c p hs => memOk_bodyPhaseExport hs n c p) h ..⟩
  | planWrite _ => exact ⟨_, rfl, memOk_mailbox (fun _ n c p hs => memOk_bodyPlanWrite hs n c p) h ..⟩
  | setpointWrite _ => exact ⟨_, rfl, memOk_mailbox (fun _ n c p hs => memOk_bodySetpointWrite hs n c p) h ..⟩
  | planSwap _ _ => exact ⟨_, rfl, memOk_mailbox (fun _ n c p hs => memOk_bodyPlanSwap hs _ n c p) h ..⟩
  | planWithdraw _ => exact ⟨_, rfl, memOk_mailbox (fun _ n c p hs => memOk_bodyPlanWithdraw hs n c p) h ..⟩
  | reefWrite _ => exact ⟨_, rfl, memOk_mailbox (fun _ n c p hs => memOk_bodyReefWrite hs n c p) h ..⟩
  | reefSwap _ => exact ⟨_, rfl, memOk_mailbox (fun _ n c p hs => memOk_bodyReefSwap hs n c p) h ..⟩
  | escWrite _ => exact ⟨_, rfl, memOk_mailbox (fun _ n c p hs => memOk_bodyEscWrite hs n c p) h ..⟩
  | reefFloor _ => exact ⟨_, rfl, memOk_mailbox (fun _ n c p hs => memOk_bodyReefFloor hs n c p) h ..⟩
  | fence _ => exact ⟨_, rfl, memOk_mailbox (fun _ n c p hs => memOk_bodyFence hs n c p) h ..⟩
  | unfence _ => exact ⟨_, rfl, memOk_mailbox (fun _ n c p hs => memOk_bodyUnfence hs n c p) h ..⟩
  | lease _ => exact ⟨_, rfl, memOk_mailbox (fun _ n c p hs => memOk_bodyLease hs n c p) h ..⟩
  | eventRing _ => exact ⟨_, rfl, memOk_mailbox (fun _ n c p hs => memOk_bodyEventRing hs n c p) h ..⟩
  | dump _ => exact ⟨_, rfl, memOk_mailbox (fun _ n c p hs => memOk_bodyDump hs n c p) h ..⟩
  | dumpRelease _ => exact ⟨_, rfl, memOk_mailbox (fun _ n c p hs => memOk_bodyDumpRelease hs n c p) h ..⟩
  | trace _ => exact ⟨_, rfl, memOk_mailbox (fun _ n c p hs => memOk_bodyTrace hs n c p) h ..⟩
  | loopReset _ => exact ⟨_, rfl, memOk_mailbox (fun _ n c p hs => memOk_bodyLoopReset hs n c p) h ..⟩
  | computeReset _ => exact ⟨_, rfl, memOk_mailbox (fun _ n c p hs => memOk_bodyComputeReset hs n c p) h ..⟩
  | returnToService _ => exact ⟨_, rfl, memOk_mailbox (fun _ n c p hs => memOk_bodyReturn hs n c p) h ..⟩
  | fwWrite _ => exact ⟨_, rfl, memOk_mailbox (fun _ n c p hs => memOk_bodyFwWrite hs n c p) h ..⟩
  | fwCommit _ => exact ⟨_, rfl, memOk_mailbox (fun _ n c p hs => memOk_bodyFwCommit hs n c p) h ..⟩
  | fwCommitted => exact ⟨_, rfl, memOk_fwCommitted h⟩
  | fwStatus _ => exact ⟨_, rfl, memOk_mailbox (fun _ n c p hs => memOk_bodyFwStatus hs n c p) h ..⟩
  | attest _ => exact ⟨_, rfl, memOk_mailbox (fun _ n c p hs => memOk_bodyAttest hs n c p) h ..⟩
  | certRead _ => exact ⟨_, rfl, memOk_mailbox (fun _ n c p hs => memOk_bodyCertRead hs n c p) h ..⟩
  | lcLifeRead _ => exact ⟨_, rfl, memOk_mailbox (fun _ n c p hs => memOk_bodyLifeRead hs n c p) h ..⟩
  | lcSwap _ => exact ⟨_, rfl, memOk_mailbox (fun _ n c p hs => memOk_bodyLcSwap hs n c p) h ..⟩
  | lcRecommission _ _ => exact ⟨_, rfl, memOk_mailbox (fun _ n c p hs => memOk_bodyRecommission hs _ n c p) h ..⟩
  | lcPowerRetry _ _ => exact ⟨_, rfl, memOk_mailbox (fun _ n c p hs => memOk_bodyPowerRetry hs _ _ n c p) h ..⟩
  | fbCopy _ => exact ⟨_, rfl, memOk_mailbox (fun _ n c p hs => memOk_bodyFbCopy hs n c p) h ..⟩
  | dumpCopy _ => exact ⟨_, rfl, memOk_mailbox (fun _ n c p hs => memOk_bodyDumpCopy hs n c p) h ..⟩
  | evtHeadWrite _ _ => exact ⟨_, rfl, memOk_ite (memOk_evtHeadWrite h ..) h⟩
  | registerWrite _ _ _ => exact ⟨_, rfl, memOk_registerWrite h ..⟩
  | bar2Read _ _ _ => exact ⟨_, rfl, memOk_bar2Read h ..⟩
  | bar2Write _ _ _ => exact ⟨_, rfl, memOk_bar2Write h ..⟩
  | smbBmcCapWrite _ _ => exact ⟨_, rfl, memOk_smbWrite h (fun hs => memOk_smbBmcCap hs _) ..⟩
  | smbReefPolWrite _ _ => exact ⟨_, rfl, memOk_smbWrite h (fun hs => memOk_smbServed hs fun hs => memOk_reefWrite hs _) ..⟩
  | smbReefSwap _ _ => exact ⟨_, rfl, memOk_smbWrite h (fun hs => memOk_smbServed hs memOk_reefSwap) ..⟩
  | smbAlertSrcWrite _ _ => exact ⟨_, rfl, memOk_smbWrite h (fun hs => memOk_smbAlertSrc hs _) ..⟩
  | smbAlertResponse => exact ⟨_, rfl, memOk_smbAlertResponse h⟩
  | idcode => exact ⟨_, rfl, memOk_jtag h ..⟩
  | bypass _ => exact ⟨_, rfl, memOk_jtag h ..⟩
  | samplePreload _ => exact ⟨_, rfl, memOk_scan h ..⟩
  | extest _ => exact ⟨_, rfl, memOk_scan h ..⟩
  | doeDiscovery _ => exact ⟨_, rfl, memOk_doeDiscovery h ..⟩
  | getVersion => exact ⟨_, rfl, memOk_getVersion h⟩
  | getCapabilities => exact ⟨_, rfl, memOk_getCapabilities h⟩
  | negotiateAlgorithms _ _ => exact ⟨_, rfl, memOk_negotiate h ..⟩
  | getDigests => exact ⟨_, rfl, memOk_getDigests h⟩
  | getCertificate _ _ _ => exact ⟨_, rfl, memOk_getCertificate h ..⟩
  | challenge _ _ => exact ⟨_, rfl, memOk_challenge h ..⟩
  | getMeasurements _ _ => exact ⟨_, rfl, memOk_getMeasurements h ..⟩
  | vfFlr _ => exact ⟨_, rfl, memOk_ite (memOk_vfFlr h ..) h⟩
  | pfFlr => exact ⟨_, rfl, memOk_pfFlr h⟩
  | pcieLinkLoss => exact ⟨_, rfl, memOk_linkLoss h⟩
  | pcieLinkReturn => exact ⟨_, rfl, memOk_ite (memOk_modPkg h _) h⟩
  | numvfsChange _ => exact ⟨_, rfl, memOk_numVfsChange h ..⟩
  | barResize _ _ => exact ⟨_, rfl, memOk_ite (memOk_barResize h ..) h⟩
  | perstNAssert => exact ⟨_, rfl, memOk_perstAssert h⟩
  | perstNDeassert _ => exact ⟨_, rfl, memOk_startUp h ..⟩
  | pwrgdMastDeassert _ => exact ⟨_, rfl, memOk_mastLost h ..⟩
  | pwrgdAuxDeassert => exact ⟨_, rfl, memOk_auxLost h⟩
  | pwrgdCoreDeassert => exact ⟨_, rfl, memOk_coreLost h⟩
  | pwrBrakeNAssert => exact ⟨_, rfl, memOk_brakeAssert h⟩
  | pwrBrakeNDeassert => exact ⟨_, rfl, memOk_brakeDeassert h⟩
  | testNLow => exact ⟨_, rfl, memOk_testLow h⟩
  | cartridgeRemoved => exact ⟨_, rfl, memOk_cartRemoved h⟩
  | cartridgeInserted _ => exact ⟨_, rfl, memOk_cartInserted h ..⟩
  | lcFault => exact ⟨_, rfl, memOk_lcFault h⟩
  | lineFailed _ => exact ⟨_, rfl, memOk_lineFailed h ..⟩
  | beatBoundary _ _ => exact ⟨_, rfl, memOk_boundary h ..⟩
  | hang _ => exact ⟨_, rfl, memOk_hangSeq h ..⟩
  | gate _ _ => exact ⟨_, rfl, memOk_gateWord h ..⟩
  | tokenAdd _ _ => exact ⟨_, rfl, memOk_ctrlWord h ..⟩
  | tokenSet _ _ => exact ⟨_, rfl, memOk_ctrlWord h ..⟩
  | creditReturn _ _ => exact ⟨_, rfl, memOk_ctrlWord h ..⟩
  | creditSet _ _ => exact ⟨_, rfl, memOk_capFail (memOk_ctrlWord h ..) ..⟩
  | countSet _ _ => exact ⟨_, rfl, memOk_ctrlWord h ..⟩
  | mac _ => exact ⟨_, rfl, memOk_soloWord h (fun _ _ hs => memOk_matrixMac hs _) ..⟩
  | macTransposed _ => exact ⟨_, rfl, memOk_soloWord h (fun _ _ hs => memOk_matrixMacT hs _) ..⟩
  | drain _ => exact ⟨_, rfl, memOk_soloWord h (fun _ _ hs => memOk_matrixDrain hs _) ..⟩
  | clear _ => exact ⟨_, rfl, memOk_soloWord h (fun _ _ hs => memOk_matrixClear hs _) ..⟩
  | txopLoad _ => exact ⟨_, rfl, memOk_soloWord h (fun _ _ hs => memOk_transposeLoad hs _) ..⟩
  | meshSend _ => exact ⟨_, rfl, memOk_soloWord h (fun _ _ hs => memOk_meshOp hs _ _) ..⟩
  | meshRowSend _ => exact ⟨_, rfl, memOk_soloWord h (fun _ _ hs => memOk_meshOp hs _ _) ..⟩
  | meshColumnSend _ => exact ⟨_, rfl, memOk_soloWord h (fun _ _ hs => memOk_meshOp hs _ _) ..⟩
  | meshArrival _ => exact ⟨_, rfl, memOk_meshLand h ..⟩
  | vxAdd _ => exact ⟨_, rfl, memOk_soloWord h (fun _ _ hs => memOk_vecOp hs _ _) ..⟩
  | vxMul _ => exact ⟨_, rfl, memOk_soloWord h (fun _ _ hs => memOk_vecOp hs _ _) ..⟩
  | vxFma _ => exact ⟨_, rfl, memOk_soloWord h (fun _ _ hs => memOk_vecOp hs _ _) ..⟩
  | vxMax _ => exact ⟨_, rfl, memOk_soloWord h (fun _ _ hs => memOk_vecOp hs _ _) ..⟩
  | vxMin _ => exact ⟨_, rfl, memOk_soloWord h (fun _ _ hs => memOk_vecOp hs _ _) ..⟩
  | vxExp2 _ => exact ⟨_, rfl, memOk_soloWord h (fun _ _ hs => memOk_vecOp hs _ _) ..⟩
  | vxRsqrt _ => exact ⟨_, rfl, memOk_soloWord h (fun _ _ hs => memOk_vecOp hs _ _) ..⟩
  | vxRecip _ => exact ⟨_, rfl, memOk_soloWord h (fun _ _ hs => memOk_vecOp hs _ _) ..⟩
  | vxCvt _ => exact ⟨_, rfl, memOk_soloWord h (fun _ _ hs => memOk_vecOp hs _ _) ..⟩
  | vxLaneSum _ => exact ⟨_, rfl, memOk_soloWord h (fun _ _ hs => memOk_vecOp hs _ _) ..⟩
  | vxLaneMax _ => exact ⟨_, rfl, memOk_soloWord h (fun _ _ hs => memOk_vecOp hs _ _) ..⟩
  | vxMaskedSelect _ => exact ⟨_, rfl, memOk_soloWord h (fun _ _ hs => memOk_vecOp hs _ _) ..⟩
  | moveCopy _ _ => exact ⟨_, rfl, memOk_moveStart h ..⟩
  | moveStrided _ _ => exact ⟨_, rfl, memOk_moveStart h ..⟩
  | moveGather _ _ => exact ⟨_, rfl, memOk_moveStart h ..⟩
  | moveScatter _ _ => exact ⟨_, rfl, memOk_moveStart h ..⟩
  | moveTransposingCopy _ _ => exact ⟨_, rfl, memOk_moveStart h ..⟩
  | moveDone _ _ => exact ⟨_, rfl, memOk_doneRow h ..⟩
  | put _ _ => exact ⟨_, rfl, memOk_linkStart h ..⟩
  | csend _ _ => exact ⟨_, rfl, memOk_linkStart h ..⟩
  | putArrival _ => exact ⟨_, rfl, memOk_putArrival h ..⟩
  | acknowledgement _ _ _ => exact ⟨_, rfl, memOk_ackIn h ..⟩
  | nak _ _ _ _ _ => exact ⟨_, rfl, memOk_nakIn h ..⟩
  | linkTimeout _ _ _ => exact ⟨_, rfl, memOk_linkTimeout h ..⟩
  | close _ _ _ _ => exact ⟨_, rfl, memOk_closeIn h ..⟩
  | updateRequest _ _ => exact ⟨_, rfl, memOk_updStart h ..⟩
  | updateRaiseOnly _ _ => exact ⟨_, rfl, memOk_updStart h ..⟩
  | updateDone _ _ => exact ⟨_, rfl, memOk_updDone h ..⟩
  | updAdd _ _ => exact ⟨_, rfl, memOk_updAlone h ..⟩
  | updSub _ _ => exact ⟨_, rfl, memOk_updAlone h ..⟩
  | updMul _ _ => exact ⟨_, rfl, memOk_updAlone h ..⟩
  | updFma _ _ => exact ⟨_, rfl, memOk_updAlone h ..⟩
  | updMax _ _ => exact ⟨_, rfl, memOk_updAlone h ..⟩
  | updMin _ _ => exact ⟨_, rfl, memOk_updAlone h ..⟩
  | updAbs _ _ => exact ⟨_, rfl, memOk_updAlone h ..⟩
  | updSqrt _ _ => exact ⟨_, rfl, memOk_updAlone h ..⟩
  | updRsqrt _ _ => exact ⟨_, rfl, memOk_updAlone h ..⟩
  | updRecip _ _ => exact ⟨_, rfl, memOk_updAlone h ..⟩
  | updExp2 _ _ => exact ⟨_, rfl, memOk_updAlone h ..⟩
  | updSel _ _ => exact ⟨_, rfl, memOk_updAlone h ..⟩
  | updNfcls _ _ => exact ⟨_, rfl, memOk_updAlone h ..⟩
  | updMov _ _ => exact ⟨_, rfl, memOk_updAlone h ..⟩
  | updSqacc _ _ => exact ⟨_, rfl, memOk_updAlone h ..⟩
  | updSumacc _ _ => exact ⟨_, rfl, memOk_updAlone h ..⟩
  | updAccrd _ _ => exact ⟨_, rfl, memOk_updAlone h ..⟩
  | updLd _ _ => exact ⟨_, rfl, memOk_updAlone h ..⟩
  | updSt _ _ => exact ⟨_, rfl, memOk_updAlone h ..⟩
  | updEnd _ _ => exact ⟨_, rfl, memOk_updAlone h ..⟩
  | topkRoute _ _ => exact ⟨_, rfl, memOk_dispStart h ..⟩
  | bitmapList _ _ => exact ⟨_, rfl, memOk_dispStart h ..⟩
  | countSum _ _ => exact ⟨_, rfl, memOk_dispStart h ..⟩
  | flagCount _ _ => exact ⟨_, rfl, memOk_dispStart h ..⟩
  | dispatchDone _ _ => exact ⟨_, rfl, memOk_dispDone h ..⟩
  | allReduce _ _ => exact ⟨_, rfl, memOk_collStart h ..⟩
  | reduceScatter _ _ => exact ⟨_, rfl, memOk_collStart h ..⟩
  | allGather _ _ => exact ⟨_, rfl, memOk_collStart h ..⟩
  | broadcast _ _ => exact ⟨_, rfl, memOk_collStart h ..⟩
  | allToAllRagged _ _ => exact ⟨_, rfl, memOk_collStart h ..⟩
  | countsExchanged _ _ _ _ _ => exact ⟨_, rfl, memOk_countsIn h ..⟩
  | permute _ _ => exact ⟨_, rfl, memOk_collStart h ..⟩
  | collSegmentGrant _ => exact ⟨_, rfl, memOk_grantIn h ..⟩
  | collPieceArrival _ => exact ⟨_, rfl, memOk_pieceIn h ..⟩
  | collDone _ _ _ _ => exact ⟨_, rfl, memOk_collDone h ..⟩
  | contextClosed _ _ _ _ _ _ => exact ⟨_, rfl, memOk_contextClosed h ..⟩
  | peerReq _ => exact ⟨_, rfl, memOk_peerReq h ..⟩
  | peerRsp _ _ _ _ => exact ⟨_, rfl, memOk_peerRsp h ..⟩
  | packetForward _ _ => exact ⟨_, rfl, memOk_packetForward h ..⟩
  | colChunkArrival _ _ => exact ⟨_, rfl, memOk_chunkArrival h ..⟩
  | headerCodeword _ _ => exact ⟨_, rfl, memOk_headerCodeword h ..⟩
  | headerOnlyPacket _ => exact ⟨_, rfl, memOk_headerOnly h ..⟩
  | discoveryTraverse _ => exact ⟨_, rfl, memOk_sendDisc h ..⟩
  | discRec _ _ _ => exact ⟨_, rfl, memOk_discRecIn h ..⟩
  | swapNotice _ _ => exact ⟨_, rfl, memOk_swapNoticeIn h ..⟩
  | mgtLease _ => exact ⟨_, rfl, memOk_mgtIn h fun hs => memOk_leaseIn hs _⟩
  | mgtFence => exact ⟨_, rfl, memOk_mgtIn h fun hs => memOk_fence hs⟩
  | mgtReefFloor _ _ => exact ⟨_, rfl, memOk_ite (memOk_mgtIn h fun hs => memOk_setPartFloor hs ..) h⟩
  | leaseExpired => exact ⟨_, rfl, memOk_leaseExpired h⟩
  | planEpoch => exact ⟨_, rfl, memOk_planEpoch h⟩
  | shroudPeerTimeout _ => exact ⟨_, rfl, memOk_peerTimeout h ..⟩
  | neighbourNotFound _ => exact ⟨_, rfl, memOk_notFound h ..⟩
  | transect _ => exact ⟨_, rfl, memOk_transectAll h ..⟩
  | stayLightDetected _ => exact ⟨_, rfl, memOk_stayLight h ..⟩
  | stayAcquired _ => exact ⟨_, rfl, memOk_stayAcquired h ..⟩
  | noLock _ => exact ⟨_, rfl, memOk_noLock h ..⟩
  | stayLightLost _ => exact ⟨_, rfl, memOk_stayLightLost h ..⟩
  | laserSwapTimeout _ => exact ⟨_, rfl, memOk_laserSwapTimeout h ..⟩
  | lightRotationRound => exact ⟨_, rfl, memOk_rotationRound h⟩
  | loopPeakFound _ _ _ => exact ⟨_, rfl, memOk_peakFound h ..⟩
  | loopSweepExhausted _ _ => exact ⟨_, rfl, memOk_sweepExhausted h ..⟩
  | loopLockBandMet _ _ => exact ⟨_, rfl, memOk_lockBandMet h ..⟩
  | loopAcquireTimeout _ _ => exact ⟨_, rfl, memOk_acquireTimeout h ..⟩
  | loopVerifyDone _ _ _ _ => exact ⟨_, rfl, memOk_verifyDone h ..⟩
  | loopPilotCheck _ _ _ => exact ⟨_, rfl, memOk_pilotCheck h ..⟩
  | loopLockLost _ _ => exact ⟨_, rfl, memOk_lockLost h ..⟩
  | loopLightLost _ _ _ => exact ⟨_, rfl, memOk_loopLightLost h ..⟩
  | loopLightReturn _ _ _ _ => exact ⟨_, rfl, memOk_loopLightReturn h ..⟩
  | lcLinePoll _ => exact ⟨_, rfl, memOk_linePoll h ..⟩
  | fadeTest => exact ⟨_, rfl, memOk_fadeTest h⟩
  | spareTuned _ _ => exact ⟨_, rfl, memOk_spareTuned h ..⟩
  | swapSlot _ => exact ⟨_, rfl, memOk_swapSlot h ..⟩
  | commissioning _ _ => exact ⟨_, rfl, memOk_commissioning h ..⟩
  | caseTemperatureCheck _ => exact ⟨_, rfl, memOk_caseTemp h ..⟩
  | intervalBoundary _ => exact ⟨_, rfl, memOk_intervalBoundary h ..⟩
  | calibration _ => exact ⟨_, rfl, memOk_calibrateK h ..⟩
  | calStale => exact ⟨_, rfl, memOk_calStale h⟩
  | dvfsStepChange _ => exact ⟨_, rfl, memOk_dvfsChange h ..⟩
  | droop _ _ => exact ⟨_, rfl, memOk_droop h ..⟩
  | droopSustained => exact ⟨_, rfl, memOk_droopSustained h⟩
  | marginTrim _ => exact ⟨_, rfl, memOk_marginTrim h ..⟩
  | partitionFloorExpiry => exact ⟨_, rfl, memOk_modReef h _⟩
  | patrolScrubRead _ _ _ => exact ⟨_, rfl, memOk_scrub h ..⟩
  | contextResetDone _ => exact ⟨_, rfl, memOk_ctxResetDone h ..⟩
  | teardownStuck _ => exact ⟨_, rfl, memOk_teardownStuck h ..⟩
  | computeResetDone => exact ⟨_, rfl, memOk_computeResetDone h⟩
  | halyardRestart _ => exact ⟨_, rfl, memOk_halyardRestart h ..⟩
  | trimRestart _ => exact ⟨_, rfl, memOk_trimRestart h ..⟩
  | fieldBookFlush => exact ⟨_, rfl, memOk_fbFlush h⟩
  | healthReasonClear _ => exact ⟨_, rfl, memOk_reasonClear h ..⟩
  | msixModeration _ => exact ⟨_, rfl, memOk_msixModeration h ..⟩
  | planSlotAdvance => exact ⟨_, rfl, memOk_slotTick h⟩
  | equaliserStateStale _ _ => exact ⟨_, rfl, memOk_equaliserStale h ..⟩
  | powerUp => exact ⟨_, rfl, memOk_powerUp h⟩
  | lcFaultNHigh _ => exact ⟨_, rfl, memOk_lcFaultHigh h ..⟩
  | droopStretchFall => exact ⟨_, rfl, memOk_stretchFall h⟩

end MemoryForm

/-- Settles O59: the lemma about the command that the step runs. -/
theorem stepKeepsMemoryForm : Obligations.StepKeepsMemoryForm := by
  intro s h
  unfold step
  cases hq : s.pending with
  | nil => exact ⟨s, rfl, h⟩
  | cons i rest => exact exec_memOk (s := { s with pending := rest }) h i
end Sys2Proof.Machine

/-! PROOF. The queue, and the mailbox commands of contexts (O1, O2, O3, O4, O60). An accepted command does what its body says on the
posted state; each body is said once, for a payload that passes its checks. -/

namespace Sys2Proof.Machine

/-- Settles O1. -/
theorem stepRunsFrontCommand : Obligations.StepRunsFrontCommand :=
  fun _ => ⟨fun c rest h => by rw [step, h], fun h => by rw [step, h]⟩

/-- Settles O60. -/
theorem resetMemoryForm : Obligations.ResetMemoryForm := ⟨reset_mem_wf, rfl, rfl⟩

/-! ### Accepted commands -/

section
variable {i : Instr} {cmd : Cmd} {body : Body} {r : Req} {s u : State} (hi : exec i s = .next (mailbox cmd body r s))
  (h : Accepts s r cmd.op cmd.len cmd.own cmd.need) (hk : knownOps.contains cmd.op = true)
include hi h hk

/-- An accepted command that its body answers at once. -/
theorem exec_answers {a : Ans} (hb : body (posted s r) r.fn (reqCtx r) r.payload = (u, .now a)) :
    exec i s = .next (answer u r.fn a) := by
  rw [hi, mailbox_now cmd body r s h hk u a hb]

/-- An accepted command whose answer its body leaves for later. -/
theorem exec_waits {w : Wait} (hb : body (posted s r) r.fn (reqCtx r) r.payload = (u, .later w)) :
    exec i s = .next (waits r w u) := by
  rw [hi, mailbox_later cmd body r s h hk u w hb]

end

/-! ### CTX_CREATE and CTX_ALLOT -/

/-- The checks that CTX_CREATE and CTX_ALLOT share pass for a payload that names nothing held elsewhere. -/
theorem allotChecks_pass {s : State} {c : CtxId} {p : List Byte} {colsBad : Bool} {dsUsed hbmUsed : List Nat}
    (h : AllotFree s c p) (hc : colsBad = false) (hd : ∀ u ∈ dsUsed, pf p 16 12 >>> u % 2 = 1)
    (hm : ∀ u ∈ hbmUsed, pf p 40 72 >>> u % 2 = 1) : ∀ k ∈ allotChecks s c p colsBad dsUsed hbmUsed, k.2.1 = false := by
  obtain ⟨cols, rsv7, upd, rsv14, movers, ds, rsv28, rsv111⟩ := h
  have hds : dsUsed.any (fun u => (pf p 16 12 >>> u) % 2 == 0) = false := by
    simpa using hd
  have hhbm : hbmUsed.any (fun u => (pf p 40 72 >>> u) % 2 == 0) = false := by
    simpa using hm
  simp only [allotChecks, hds, hhbm, hc]
  simp [bad, rsv, cols, rsv7, upd, rsv14, movers, ds, rsv28, rsv111]

/-- Settles O2: the shared checks pass, and each body sets the context it says. -/
theorem contextCreationAndAllotment : Obligations.ContextCreationAndAllotment := by
  refine fun s r hfree => ⟨fun hacc hcols => ?_, fun hacc hcols hds hhbm => ?_⟩
  · refine exec_answers (body := bodyCtxCreate) rfl hacc (by decide) ?_
    have hpass := allotChecks_pass (s := posted s r) (colsBad := pf r.payload 0 4 == 0) (dsUsed := []) (hbmUsed := []) hfree
      (by simpa using hcols) (by simp) (by simp)
    rw [bodyCtxCreate, checked_ok hpass]
  · refine exec_answers (body := bodyCtxAllot) rfl hacc (by decide) ?_
    have hpass := allotChecks_pass (s := posted s r)
      (colsBad := pf r.payload 0 4 != (getCtx s (reqCtx r)).res.cols.toNat) hfree (by simpa using hcols) hds hhbm
    rw [bodyCtxAllot]
    exact checked_ok hpass

/-! ### Settings -/

/-- Settles O3: of the five bodies only SET_SPARSE has checks, those of its four windows. -/
theorem contextSettings : Obligations.ContextSettings := by
  refine fun s r => ⟨fun hacc => ?_, fun hacc hspw => ?_, fun hacc => ?_, fun hacc => ?_, fun hacc => ?_⟩
  · exact exec_answers (body := bodySetSrSeed) rfl hacc (by decide) rfl
  · refine exec_answers (body := bodySetSparse) rfl hacc (by decide) (checked_ok fun k hk => ?_)
    obtain ⟨n, hn, hk⟩ := List.mem_flatMap.1 hk
    exact hspw n (List.mem_range.1 hn) k hk
  · exact exec_answers (body := bodySlipClear) rfl hacc (by decide) rfl
  · exact exec_answers (body := bodyStop) rfl hacc (by decide) rfl
  · exact exec_answers (body := bodyCtxQuery) rfl hacc (by decide) rfl

end Sys2Proof.Machine

/-! PROOF. The beginning of a context reset (O4). Landing what is in flight and reporting it write tile stores, the counts of the
frame and the context's issue state: `Ctx.core` is the rest of a context, which they leave alone. -/

namespace Sys2Proof.Machine

/-- A context but for its issue state and the counts of its frame. -/
def Ctx.core (x : Ctx) : Ctx := { x with is := Ctx.init.is, fr := Ctx.init.fr }

/-- From s to t every context keeps all but its issue state and the counts of its frame. -/
structure SameCore (s t : State) : Prop where
  core : ∀ c, (getCtx t c).core = (getCtx s c).core

theorem SameCore.refl (s : State) : SameCore s s := ⟨fun _ => rfl⟩

theorem SameCore.trans {s t u : State} (h : SameCore s t) (k : SameCore t u) : SameCore s u :=
  ⟨fun c => (k.core c).trans (h.core c)⟩

theorem SameCore.of_rec {s t : State} (h : Rec s t) : SameCore s t := ⟨fun c => congrArg Ctx.core (h.getCtx c)⟩

theorem SameCore.epoch {s t : State} (h : SameCore s t) (c : CtxId) : (getCtx t c).epoch = (getCtx s c).epoch := by
  change (getCtx t c).core.epoch = (getCtx s c).core.epoch
  rw [h.core c]

theorem SameCore.queue {s t : State} (h : SameCore s t) (c : CtxId) : (getCtx t c).queue = (getCtx s c).queue := by
  change (getCtx t c).core.queue = (getCtx s c).core.queue
  rw [h.core c]

theorem SameCore.foldl {α : Type} {f : State → α → State} (hf : ∀ s a, SameCore s (f s a)) (l : List α) (s : State) :
    SameCore s (l.foldl f s) := by
  induction l generalizing s with
  | nil => exact .refl s
  | cons a l ih => exact (hf s a).trans (ih _)

theorem SameCore.foldl_fst {α β : Type} {f : State × β → α → State × β} (hf : ∀ r a, SameCore r.1 (f r a).1) (l : List α)
    (r : State × β) : SameCore r.1 (l.foldl f r).1 := by
  induction l generalizing r with
  | nil => exact .refl _
  | cons a l ih => exact (hf r a).trans (ih _)

theorem sameCore_modCtx (s : State) (c : CtxId) (f : Ctx → Ctx) (hf : ∀ x, (f x).core = x.core) : SameCore s (modCtx s c f) := by
  refine ⟨fun d => ?_⟩
  by_cases hd : d = c
  · subst hd
    rw [getCtx_modCtx_self, hf]
  · rw [getCtx_modCtx_ne _ _ _ _ hd]

theorem sameCore_modIs (s : State) (c : CtxId) (f : Issue → Issue) : SameCore s (modCtx s c fun x => modIs x f) :=
  sameCore_modCtx s c _ fun _ => rfl

/-! ### Landings -/

theorem sameCore_tileWrite (s : State) (t addr : Nat) (bs : List Byte) : SameCore s (tileWrite s t addr bs) := ⟨fun _ => rfl⟩

theorem sameCore_nonfiniteEvent (s : State) (c : CtxId) (tile aset cause beats : Nat) (tag : BitVec 16) :
    SameCore s (nonfiniteEvent s c tile aset cause beats tag) := .of_rec (rec_raise _ _)

theorem sameCore_landDrain (s : State) (c : CtxId) (d : DrainPend) : SameCore s (landDrain s c d) := by
  unfold landDrain
  extract_lets x held
  split
  · exact .refl s
  · extract_lets tl st s₀ s₁ s₂
    have h₀ : SameCore s s₀ := ⟨fun _ => rfl⟩
    have h₁ : SameCore s s₁ := by
      unfold s₁
      split
      · exact h₀
      · exact h₀.trans (.foldl (fun _ _ => sameCore_tileWrite ..) _ _)
    have h₂ : SameCore s s₂ := by
      refine h₁.trans (sameCore_modCtx _ _ _ fun x => ?_)
      split <;> rfl
    split
    · split
      · exact h₂
      · exact h₂.trans (sameCore_nonfiniteEvent ..)
    · exact h₂

theorem sameCore_landOne (c : CtxId) (r : State × List TWrite) (l : Land) : SameCore r.1 (landOne c r l).1 := by
  cases l with
  | mesh m =>
    unfold landOne
    dsimp only
    split
    · exact .refl _
    · exact sameCore_tileWrite ..
  | drain d => exact sameCore_landDrain ..

theorem sameCore_landUntil (s : State) (c : CtxId) (cycle : Nat) : SameCore s (landUntil s c cycle).1 := by
  unfold landUntil
  dsimp only
  split
  · exact .refl s
  · refine .trans ?_ (SameCore.foldl_fst (sameCore_landOne c) _ (_, []))
    exact sameCore_modIs s c _

theorem sameCore_dropReport (c : CtxId) (s : State) (r : Replay) : SameCore s (dropReport c s r) := by
  unfold dropReport
  split
  · exact .refl s
  · exact SameCore.trans (.foldl (fun _ _ => sameCore_tileWrite ..) _ _) (sameCore_nonfiniteEvent ..)

theorem sameCore_endIssue (s : State) (c : CtxId) : SameCore s (endIssue s c) := by
  unfold endIssue
  dsimp only
  refine .trans ?_ (.foldl (sameCore_dropReport c) _ _)
  exact .trans (sameCore_landUntil s c _) (sameCore_modIs _ c _)

/-! ### Entering RESETTING -/

theorem rec_stopEvent (s : State) (c : CtxId) (st : Status) (why : Why) : Rec s (stopEvent s c st why) := by
  unfold stopEvent
  exact Rec.trans (.ite (.refl s) (rec_modHal s _)) (rec_raise _ _)

/-- What a context is while its reset is under way (Table 11.4): RESETTING in the next epoch, with no swap pending and only the
update requests that stand between two quiesce points. -/
theorem getCtx_enterReset (s : State) (c : CtxId) (k : ResetInfo) :
    (getCtx (enterReset s c k) c).run = .resetting ∧ (getCtx (enterReset s c k) c).epoch = (getCtx s c).epoch + 1
      ∧ (getCtx (enterReset s c k) c).queue = (getCtx s c).queue.filter midVector ∧ (getCtx (enterReset s c k) c).pend = 0 := by
  unfold enterReset
  extract_lets s₁ s₂ x s₃ s₄ r i
  have hevents : SameCore s s₁ := .of_rec (.foldl (fun _ _ => rec_stopEvent ..) _ s)
  have hcore : SameCore s s₂ := hevents.trans (sameCore_endIssue s₁ c)
  clear_value s₂
  rw [getCtx_setCtx_self]
  exact ⟨rfl, congrArg (· + 1) (hcore.epoch c), congrArg (List.filter midVector) (hcore.queue c), rfl⟩

theorem requestReset_of_running {s : State} {c : CtxId} (k : ResetInfo) (h : (getCtx s c).run = .running)
    (hr : (getCtx s c).is.reset = none) :
    requestReset s c k = setCtx s c { getCtx s c with is := { (getCtx s c).is with reset := some k } } := by
  simp only [requestReset, h, modIs, hr]

theorem requestReset_of_idle_or_stopped {s : State} {c : CtxId} (k : ResetInfo)
    (h : (getCtx s c).run = .idle ∨ (getCtx s c).run = .stopped) : requestReset s c k = enterReset s c k := by
  rcases h with h | h <;> simp only [requestReset, h]

theorem epoch_requestReset_of_resetting {s : State} {c : CtxId} (k : ResetInfo) (h : (getCtx s c).run = .resetting) :
    (getCtx (requestReset s c k) c).epoch = (getCtx s c).epoch := by
  simp only [requestReset, h]
  split
  · rw [getCtx_setCtx_self]
  · rfl

/-- Settles O4. -/
theorem contextResetsBegin : Obligations.ContextResetsBegin := by
  refine fun s r => ⟨fun hacc => ?_, fun hacc => ?_, fun c k => ⟨fun hrun hnone => ?_, fun hrun => ?_, fun hrun => ?_⟩⟩
  · exact exec_waits (body := bodyCtxReset) rfl hacc (by decide) rfl
  · exact exec_waits (body := bodyCtxDestroy) rfl hacc (by decide) rfl
  · exact requestReset_of_running k hrun hnone
  · rw [requestReset_of_idle_or_stopped k hrun]
    exact getCtx_enterReset s c k
  · exact epoch_requestReset_of_resetting k hrun

end Sys2Proof.Machine

/-! PROOF. MAP, UNMAP and the drains of an unmapped range (O5, O6). -/

namespace Sys2Proof.Machine

theorem cread_length (m : Cells) (a n : Nat) : (cread m a n).length = n := by
  rw [cread, creadD_eq, List.length_map, List.length_range]

/-! ### Leaves and their table entries -/

@[simp] theorem getCtx_putEntry (s : State) (a : Nat) (e : BitVec 64) (c : CtxId) : getCtx (putEntry s a e) c = getCtx s c := rfl

/-- An entry written at a place of an entry stands there: the rest of its line is merged around it. -/
theorem byteAt_putEntry_in (s : State) {a k : Nat} (e : BitVec 64) (ha : a % 8 = 0) (hk : k < 8) :
    byteAt (putEntry s a e) (a + k) = (leBytes 8 e.toNat).getD k 0 := by
  have hold : ((cread s.mem.bytes (a / 64 * 64) 64).take (a - a / 64 * 64)).length = a - a / 64 * 64 := by
    rw [List.length_take, cread_length]
    omega
  have hat : a + k = a / 64 * 64 + (a - a / 64 * 64 + k) := by omega
  rw [putEntry, hat, byteAt_memWrite_in]
  · rw [List.append_assoc, List.getD_append_right _ _ _ _ (by omega), hold, Nat.add_sub_cancel_left,
      List.getD_append _ _ _ _ (by rw [leBytes_length]; exact hk)]
  · rw [List.append_assoc, List.length_append, List.length_append, hold, leBytes_length]
    omega

theorem maps_takeTable (s : State) (c d : CtxId) (va : Nat) : (getCtx (takeTable s c va).1 d).maps = (getCtx s d).maps := by
  unfold takeTable
  split
  · rfl
  · dsimp only
    by_cases hd : d = c
    · subst hd
      rw [getCtx_modCtx_self]
      rfl
    · rw [getCtx_modCtx_ne _ _ _ _ hd]
      rfl

theorem maps_addLeaf (s : State) (c : CtxId) (l : Leaf) : (getCtx (addLeaf c s l) c).maps = (getCtx s c).maps ++ [l] := by
  unfold addLeaf
  dsimp only
  split
  · rw [getCtx_putEntry, getCtx_modCtx_self]
  · rw [getCtx_putEntry, maps_takeTable, getCtx_modCtx_self]

theorem maps_dropLeaf (s : State) (c : CtxId) (l : Leaf) :
    (getCtx (dropLeaf c s l) c).maps = (getCtx s c).maps.filter (· != l) := by
  unfold dropLeaf
  dsimp only
  split
  · rw [getCtx_putEntry, getCtx_modCtx_self]
  · split
    · rw [getCtx_modCtx_self]
    · split
      · rw [getCtx_putEntry, getCtx_modCtx_self]
      · rw [getCtx_putEntry, getCtx_modCtx_self, getCtx_putEntry, getCtx_modCtx_self]

/-- The level-1 entry of a 1 GiB leaf stands in its table. -/
theorem byteAt_addLeaf_l1 (s : State) (c : CtxId) (l : Leaf) (hbig : l.big = true) {k : Nat} (hk : k < 8) :
    byteAt (addLeaf c s l) (l1Entry c.val l.va + k) = (leBytes 8 (xpte l.addr l.wr 2).toNat).getD k 0 := by
  simp only [addLeaf, if_pos hbig]
  exact byteAt_putEntry_in _ _ (by unfold l1Entry; omega) hk

/-! ### MAP and UNMAP -/

section
variable {s : State} {n c : CtxId} {p : List Byte}

/-- MAP of a range and a target that pass the rules of R228: a leaf for each page, after the zero-fill of a marked local page. -/
theorem bodyMap_of_valid (hrsv : pf p 22 2 = 0) (hpages : pf p 16 4 ≠ 0) (hsz : pf p 20 1 ≤ 1) (hwr : pf p 21 1 ≤ 1)
    (hva : pf p 0 8 % pageSize (pf p 20 1) = 0) (hend : pf p 0 8 + pf p 16 4 * pageSize (pf p 20 1) ≤ 2 ^ 48)
    (hb : pf p 8 8 < 2 ^ 43)
    (hmaps : ∀ l ∈ (getCtx s c).maps, overlap l.va l.size (pf p 0 8) (pf p 16 4 * pageSize (pf p 20 1)) = false)
    (hret : ∀ w ∈ [(getCtx s c).ret.act, (getCtx s c).ret.sha], retLen w ≠ 0 →
      overlap (fld w 511 448) (retLen w) (pf p 0 8) (pf p 16 4 * pageSize (pf p 20 1)) = false)
    (htarget : targetOk s c (pf p 8 8) (pf p 16 4 * pageSize (pf p 20 1)) (pf p 20 1) (pf p 21 1) = true)
    (htables : pf p 20 1 = 0 → l2Tables s + l2New (getCtx s c) (pf p 0 8) (pf p 16 4 * pageSize (pf p 20 1)) ≤ 16384) :
    bodyMap s n c p
      = (((List.range (pf p 16 4)).map fun i => (⟨pf p 0 8 + i * pageSize (pf p 20 1), pf p 8 8 + i * pageSize (pf p 20 1),
            pf p 20 1 == 1, pf p 21 1 == 1⟩ : Leaf)).foldl (addLeaf c)
          (if isLocal s (pf p 8 8) then unmark s (pf p 8 8) (pf p 16 4 * pageSize (pf p 20 1)) else s), .now .ok) := by
  have hany : (getCtx s c).maps.any (fun l => overlap l.va l.size (pf p 0 8) (pf p 16 4 * pageSize (pf p 20 1))) = false := by
    simpa using hmaps
  have hact := hret _ (List.mem_cons_self ..)
  have hsha := hret _ (List.mem_cons_of_mem _ (List.mem_cons_self ..))
  rw [bodyMap]
  dsimp only
  split
  · next a hbad =>
    rw [firstBad_none] at hbad
    · cases hbad
    · simpa [hany, hrsv, hpages, hsz, hwr, hva, htarget, bad, rsv] using ⟨hend, ⟨hact, hsha⟩, hb⟩
  · rw [if_neg]
    rintro ⟨h0, hfull⟩
    exact absurd (htables h0) (by omega)

/-- UNMAP of a range that is mapped whole and in no grant. -/
theorem bodyUnmap_of_valid {x : Ctx} (hx : x = getCtx s c) {gone : List Leaf} {d : Drain} (hrsv : pf p 13 3 = 0) (hpages : pf p 8 4 ≠ 0)
    (hsz : pf p 12 1 ≤ 1) (hva : pf p 0 8 % pageSize (pf p 12 1) = 0)
    (hgone : gone = x.maps.filter fun l => l.big == (pf p 12 1 == 1) && decide (pf p 0 8 ≤ l.va)
      && decide (l.va < pf p 0 8 + pf p 8 4 * pageSize (pf p 12 1)))
    (hd : d = ⟨n, gone, false, s.clk.mastNs⟩) (hwhole : gone.length = pf p 8 4) (hgranted : ∀ l ∈ gone, granted s c l = false) :
    bodyUnmap s n c p
      = (if drainHeld x d then (modCtx (gone.foldl (dropLeaf c) s) c fun x => { x with drains := x.drains ++ [d] }, .later (.unmap c))
         else (zeroFill (gone.foldl (dropLeaf c) s) gone, .now .ok)) := by
  subst hx hd
  have hany : gone.any (granted s c) = false := by
    simpa using hgranted
  rw [bodyUnmap]
  dsimp only
  rw [← hgone]
  refine checked_ok ?_
  simp [hany, hwhole, hrsv, hpages, hsz, hva, bad, rsv]

end

/-- Settles O5: the checks of each body pass, and the rest is what adding or removing a leaf does. -/
theorem mapAndUnmap : Obligations.MapAndUnmap := by
  rintro s r va b pages sz wr rfl
  refine ⟨?_, ?_, fun c l => ⟨maps_addLeaf s c l, maps_dropLeaf s c l, fun hbig k hk => byteAt_addLeaf_l1 s c l hbig hk⟩⟩
  · rintro hacc rfl rfl rfl rfl hrsv hpages hsz hwr hva hend hb hmaps hret htarget htables
    exact exec_answers (body := bodyMap) rfl hacc (by decide)
      (bodyMap_of_valid hrsv hpages hsz hwr hva hend hb hmaps hret htarget htables)
  · rintro hacc rfl rfl hrsv hpages hsz hva x gone d hwhole hgranted
    have hb := bodyUnmap_of_valid (s := posted s r) (n := r.fn) (c := reqCtx r) (x := x) rfl hrsv hpages hsz hva (gone := gone) rfl
      (d := d) rfl hwhole hgranted
    split
    · next hheld =>
      rw [if_pos hheld] at hb
      exact exec_waits (body := bodyUnmap) rfl hacc (by decide) hb
    · next hheld =>
      rw [if_neg hheld] at hb
      exact exec_answers (body := bodyUnmap) rfl hacc (by decide) hb

/-! ### Drains -/

theorem fns_zeroFill (s : State) (ls : List Leaf) : (zeroFill s ls).fns = s.fns := by
  unfold zeroFill
  dsimp only
  generalize ls.flatMap subPages = ps
  generalize (allCtxs.flatMap fun d => (getCtx s d).maps) = left
  induction ps generalizing s with
  | nil => rfl
  | cons l ps ih =>
    rw [List.foldl_cons, ih, apply_ite State.fns]
    exact ite_self _

theorem getFn_zeroFill (s : State) (ls : List Leaf) (n : CtxId) : getFn (zeroFill s ls) n = getFn s n := by
  rw [getFn, fns_zeroFill, getFn]

theorem answerTo_of_busy {s : State} {n : CtxId} {w : Wait} (a : Ans) (h : (getFn s n).busy = some w) :
    answerTo s (some n) w a = answer s n a := if_pos h

/-- Settles O6: the one drain is the one that is no longer held, or the one that is reported. -/
theorem unmapDrainsEnd : Obligations.UnmapDrainsEnd := by
  refine fun s c d hd hbusy hlate => ⟨fun hfree => ?_, fun hheld => ?_⟩
  · change Host.Outcome.next (drainComplete s c) = _
    have hend : drainComplete s c = endDrain c s d := by simp [drainComplete, hd, hfree]
    have hctx : (modCtx s c fun x => { x with drains := x.drains.filter (· != d) })
        = setCtx s c { getCtx s c with drains := [] } := by simp [modCtx, hd]
    rw [hend, endDrain, hctx]
    simp only [hlate, Bool.false_eq_true, if_false]
    rw [answerTo_of_busy]
    rw [getFn_zeroFill, getFn_setCtx, hbusy]
  · change Host.Outcome.next (drainBusy s c) = _
    have hctx : (modCtx s c fun x => { x with drains := x.drains.map fun e => if [d].contains e then { e with late := true } else e })
        = setCtx s c { getCtx s c with drains := [{ d with late := true }] } := by simp [modCtx, hd]
    have hlist : ((getCtx s c).drains.filter fun d => !d.late && drainHeld (getCtx s c) d) = [d] := by
      simp [hd, hlate, hheld]
    rw [drainBusy]
    dsimp only
    rw [hlist, hctx, List.foldl_cons, List.foldl_nil, answerTo_of_busy]
    rw [getFn_setCtx, hbusy]

end Sys2Proof.Machine

/-! PROOF. GRANT, REVOKE, BAR2_CFG and REMAP_APPLY (O7), the loads of shadow banks (O8), RUN and PHASE_EXPORT (O11). -/

namespace Sys2Proof.Machine

/-! ### Grants, windows and row remap -/

section
variable {s : State} {n c : CtxId} {p : List Byte}

/-- GRANT takes the lowest free register and answers its index. -/
theorem bodyGrant_of_valid {i : Nat} (hlen : 0 < pf p 4 4) (hlen' : pf p 4 4 < 2 ^ 19) (hwr : pf p 10 1 ≤ 1) (hrsv : pf p 11 5 = 0)
    (hplane : pf p 8 1 >>> s.pins.plane.val % 2 = 0)
    (hmem : isHbm (pf p 0 4 * 0x200000) = true ∧ pf p 0 4 * 0x200000 + pf p 4 4 * 0x200000 ≤ hbmEnd
      ∨ ∃ d o, place (pf p 0 4 * 0x200000) = some (.die d o) ∧ pf p 0 4 * 0x200000 + pf p 4 4 * 0x200000 ≤ dieBase d + dieSize)
    (hmapped : grantMapped s (getCtx s c) (pf p 0 4) (pf p 4 4) (pf p 10 1) = true)
    (hfree : (List.range 64).find? (fun i => !bit (tget 0 s.mem.bwin i) 0) = some i) :
    bodyGrant s n c p = (modMem s fun m => { m with bwin := tput m.bwin i (BitVec.ofNat 64 (pf p 0 4 * 2 ^ 45 + pf p 4 4 * 2 ^ 26
      + pf p 8 1 * 2 ^ 18 + pf p 9 1 * 2 ^ 10 + c.val * 2 ^ 7 + pf p 10 1 * 2 + 1)) }, .now (.pay_ (leBytes 8 i))) := by
  have hl : (decide (0 < pf p 4 4) && decide (pf p 4 4 < 2 ^ 19)) = true := by
    simp only [hlen, hlen', decide_true, Bool.and_self]
  have hwr' : (if pf p 10 1 = 1 then 1 else 0) = pf p 10 1 := by split <;> omega
  rw [bodyGrant]
  dsimp only
  rw [hfree, checked_ok]
  simp only [hl, if_true, hwr', hmapped]
  rcases hmem with ⟨hhbm, hend⟩ | ⟨d, o, hplace, hend⟩
  · simp [hhbm, hend, bad, rsv, hplane, hwr, hrsv]
  · simp [hplace, hend, bad, rsv, hplane, hwr, hrsv]

/-- REVOKE of a register that the context owns clears it. -/
theorem bodyRevoke_of_owned (hrsv : pf p 1 7 = 0) (hon : bit (tget 0 s.mem.bwin (pf p 0 1)) 0 = true)
    (hown : fld (tget 0 s.mem.bwin (pf p 0 1)) 9 7 = c.val) :
    bodyRevoke s n c p = (modMem s fun m => { m with bwin := tdel m.bwin (pf p 0 1) }, .now .ok) := by
  refine checked_ok ?_
  simpa [bad, rsv, hrsv] using ⟨hon, hown⟩

/-- BAR2_CFG with a mode and base that R448 allows sets the window of the context's function. -/
theorem bodyBar2Cfg_of_valid (hmode : pf p 0 1 ≤ 2) (hctx : pf p 0 1 = 1 → (getCtx s c).run ≠ .none) (hpf : pf p 0 1 = 2 → c = 0)
    (hrsv : pf p 1 7 = 0) (hbase : pf p 0 1 ≠ 0 → pf p 8 8 % 2 ^ (getFn s c).bar2Log = 0
      ∧ pf p 8 8 + 2 ^ (getFn s c).bar2Log ≤ if pf p 0 1 = 1 then 2 ^ 48 else 2 ^ 40) :
    bodyBar2Cfg s n c p = (modFn s c fun f => { f with
      bar2Mode := pf p 0 1, bar2Base := BitVec.ofNat 64 (if pf p 0 1 = 0 then 0 else pf p 8 8) }, .now .ok) := by
  have hexists : ¬ (pf p 0 1 = 1 ∧ (!ctxExists s c) = true) := by
    rintro ⟨h1, h⟩
    simp [ctxExists, hctx h1] at h
  have hfits : (pf p 0 1 != 0 && (pf p 8 8 % 2 ^ (getFn s c).bar2Log != 0
      || decide (pf p 8 8 + 2 ^ (getFn s c).bar2Log > if pf p 0 1 = 1 then 2 ^ 48 else 2 ^ 40))) = false := by
    by_cases h0 : pf p 0 1 = 0
    · simp only [h0, bne_self_eq_false, Bool.false_and]
    · obtain ⟨halign, hend⟩ := hbase h0
      simp only [halign, bne_self_eq_false, Bool.false_or, Nat.not_lt.2 hend, decide_false, Bool.and_false]
  rw [bodyBar2Cfg, if_neg hexists]
  refine checked_ok ?_
  simp only [hfits]
  by_cases h2 : pf p 0 1 = 2
  · simp [bad, rsv, hrsv, h2, hpf h2]
  · simp [bad, rsv, hrsv, h2, hmode]

/-- REMAP_APPLY with no context in being repairs the queued rows in turn. -/
theorem bodyRemapApply_of_none (h : existing s = []) :
    bodyRemapApply s n c p = ((s.mem.remapQ.foldl remapRow (s, 0, 0)).1,
      .now (.pay_ (leBytes 4 (s.mem.remapQ.foldl remapRow (s, 0, 0)).2.1 ++ leBytes 4 (s.mem.remapQ.foldl remapRow (s, 0, 0)).2.2))) := by
  simp only [bodyRemapApply, h, List.isEmpty_nil, Bool.not_true, Bool.false_eq_true, if_false]

end

/-- Posting a request leaves the size of every BAR2 window. -/
theorem bar2Log_posted (s : State) (r : Req) (n : CtxId) : (getFn (posted s r) n).bar2Log = (getFn s n).bar2Log := by
  by_cases h : n = r.fn
  · subst h
    rw [posted, begunReq, getFn_setFn_self]
  · rw [posted, begunReq, getFn_setFn_ne _ _ _ _ h]

/-- Settles O7. -/
theorem grantsWindowsRemap : Obligations.GrantsWindowsRemap := by
  refine fun s r => ⟨?_, fun hacc hrsv hon hown => ?_, ?_, fun hacc hnone => ?_⟩
  · rintro base len planes wr i rfl rfl rfl rfl hacc hlen hlen' hwr hrsv hplane hmem hmapped hfree
    exact exec_answers (body := bodyGrant) rfl hacc (by decide)
      (bodyGrant_of_valid (s := posted s r) hlen hlen' hwr hrsv hplane hmem hmapped hfree)
  · exact exec_answers (body := bodyRevoke) rfl hacc (by decide) (bodyRevoke_of_owned (s := posted s r) hrsv hon hown)
  · rintro mode base rfl rfl hacc hmode hctx hpf hrsv hbase
    refine exec_answers (body := bodyBar2Cfg) rfl hacc (by decide)
      (bodyBar2Cfg_of_valid (s := posted s r) hmode hctx hpf hrsv ?_)
    rwa [bar2Log_posted]
  · exact exec_answers (body := bodyRemapApply) rfl hacc (by decide) (bodyRemapApply_of_none (s := posted s r) hnone)

end Sys2Proof.Machine

/-! PROOF. The loads of shadow banks (O8), RUN and PHASE_EXPORT (O11). -/

namespace Sys2Proof.Machine

/-! ### Loads -/

section
variable {s : State} {c : CtxId} {k : Nat} {cs : List Chk} {go : State × Reply} (h : ∀ x ∈ cs, x.2.1 = false)
include h

/-- A load whose fields pass goes on while no swap of its configuration is pending. -/
theorem loadBody_of_free (hp : swapPending s c k = false) : loadBody s c k cs go = go := by
  rw [loadBody, checked_ok h, hp]
  rfl

/-- While a swap of its configuration is pending it answers that. -/
theorem loadBody_of_pending (hp : swapPending s c k = true) : loadBody s c k cs go = (s, .now (.fail stSwapPending noField)) := by
  rw [loadBody, checked_ok h, if_pos hp]

end

/-- A body whose first failing check is known answers it. -/
theorem checked_of_firstBad {s : State} {cs : List Chk} {go : State × Reply} {a : Ans} (h : firstBad cs = some a) :
    checked s cs go = (s, .now a) := by
  rw [checked, h]

section
variable {s : State} {n c : CtxId} {p : List Byte}

section
variable (ha : pf p 0 8 % 64 = 0) (hva : pf p 0 8 < 2 ^ 48)
include ha hva

theorem loadProgram_pass : ∀ x ∈ [bad 0 (pf p 0 8 % 64 != 0 || decide (pf p 0 8 ≥ 2 ^ 48))], x.2.1 = false := by
  simpa [bad, ha] using hva

theorem bodyLoadProgram_of_valid (hp : swapPending s c 0 = false) :
    bodyLoadProgram s n c p = (modCtx s c fun x => { x with prog := { x.prog with
      sha := ⟨true, BitVec.ofNat 64 (pf p 0 8), (List.range 16).map fun n => BitVec.ofNat 32 (pf p (8 + 4 * n) 4), 0⟩ } },
      .now .ok) := loadBody_of_free (loadProgram_pass ha hva) hp

theorem bodyLoadProgram_of_pending (hp : swapPending s c 0 = true) :
    bodyLoadProgram s n c p = (s, .now (.fail stSwapPending noField)) := loadBody_of_pending (loadProgram_pass ha hva) hp

end

section
variable (hsp : pf p 0 1 ≤ 1) (hrsv : pf p 1 7 = 0) (ha : pf p 8 8 % 64 = 0) (hva : pf p 0 1 = 0 → pf p 8 8 < 2 ^ 48)
  (hm : pf p 16 32 ≠ 0) (hm' : pf p 16 32 < 2 ^ nTiles (getCtx s c))
include hsp hrsv ha hva hm hm'

theorem loadSlotlib_pass :
    ∀ x ∈ [bad 0 (decide (pf p 0 1 > 1)), rsv p 1 8, bad 8 (pf p 8 8 % 64 != 0 || (pf p 0 1 == 0 && decide (pf p 8 8 ≥ 2 ^ 48))),
      bad 16 (pf p 16 32 == 0 || decide (pf p 16 32 ≥ 2 ^ nTiles (getCtx s c)))], x.2.1 = false := by
  simpa [bad, rsv, hsp, hrsv, ha, hm, hm'] using hva

theorem bodyLoadSlotlib_of_read {u : State} {bs : List Byte} (hp : swapPending s c 1 = false)
    (hr : fetchBuf s c (pf p 0 1) (pf p 8 8) 32768 8 = (u, .ok bs)) :
    bodyLoadSlotlib s n c p = (modCtx u c fun x => { x with lib := { x.lib with
      sha := (bitsOf 256 (pf p 16 32)).foldl (fun m t => cwrite m (32768 * t) bs) x.lib.sha } }, .now .ok) := by
  refine (loadBody_of_free (loadSlotlib_pass hsp hrsv ha hva hm hm') hp).trans ?_
  rw [hr]

theorem bodyLoadSlotlib_of_unread {u : State} {a : Ans} (hp : swapPending s c 1 = false)
    (hr : fetchBuf s c (pf p 0 1) (pf p 8 8) 32768 8 = (u, .error a)) : bodyLoadSlotlib s n c p = (u, .now a) := by
  refine (loadBody_of_free (loadSlotlib_pass hsp hrsv ha hva hm hm') hp).trans ?_
  rw [hr]

theorem bodyLoadSlotlib_of_pending (hp : swapPending s c 1 = true) :
    bodyLoadSlotlib s n c p = (s, .now (.fail stSwapPending noField)) :=
  loadBody_of_pending (loadSlotlib_pass hsp hrsv ha hva hm hm') hp

end

/-- The checks of LOAD_UPDATE. -/
def loadUpdateChecks (p : List Byte) : List Chk :=
  [bad 0 (decide (pf p 0 1 > 1)), bad 1 (decide (pf p 1 1 > 1) || (pf p 0 1 == 1 && pf p 1 1 != 0)),
   bad 2 ((pf p 0 1 == 0 && (decide (pf p 2 2 < 68) || decide (pf p 2 2 > 4160) || pf p 2 2 % 4 != 0)) || (pf p 0 1 == 1 && pf p 2 2 != 0)),
   rsv p 4 8, bad 8 ((pf p 0 1 == 1 && pf p 8 8 != 0) || (pf p 0 1 == 0 && pf p 1 1 == 0 && decide (pf p 8 8 ≥ 2 ^ 48))),
   (128, pf p 0 1 == 1 && (Config.updateLibrary (BitVec.ofNat 32 (pf p 16 4))).isNone, stLibUnknown), rsv p 20 24]

section
variable (hk : pf p 0 1 = 0) (hsp : pf p 1 1 ≤ 1) (hlo : 68 ≤ pf p 2 2) (hhi : pf p 2 2 ≤ 4160) (h4 : pf p 2 2 % 4 = 0)
  (hrsv : pf p 4 4 = 0) (hva : pf p 1 1 = 0 → pf p 8 8 < 2 ^ 48) (hrsv' : pf p 20 4 = 0)
include hk hsp hlo hhi h4 hrsv hva hrsv'

theorem loadUpdate_pass : ∀ x ∈ loadUpdateChecks p, x.2.1 = false := by
  simpa [loadUpdateChecks, bad, rsv, hk, hsp, hlo, hhi, h4, hrsv, hrsv'] using hva

theorem bodyLoadUpdate_of_read {u : State} {bs : List Byte} (hp : swapPending s c 5 = false)
    (hr : fetchBuf s c (pf p 1 1) (pf p 8 8) (pf p 2 2) 8 = (u, .ok bs)) :
    bodyLoadUpdate s n c p = (modCtx u c fun x => { x with updp := { x.updp with sha := bs } }, .now .ok) := by
  refine (loadBody_of_free (loadUpdate_pass hk hsp hlo hhi h4 hrsv hva hrsv') hp).trans ?_
  rw [if_neg (by omega), hr]

theorem bodyLoadUpdate_of_unread {u : State} {a : Ans} (hp : swapPending s c 5 = false)
    (hr : fetchBuf s c (pf p 1 1) (pf p 8 8) (pf p 2 2) 8 = (u, .error a)) : bodyLoadUpdate s n c p = (u, .now a) := by
  refine (loadBody_of_free (loadUpdate_pass hk hsp hlo hhi h4 hrsv hva hrsv') hp).trans ?_
  rw [if_neg (by omega), hr]

theorem bodyLoadUpdate_of_pending (hp : swapPending s c 5 = true) :
    bodyLoadUpdate s n c p = (s, .now (.fail stSwapPending noField)) :=
  loadBody_of_pending (loadUpdate_pass hk hsp hlo hhi h4 hrsv hva hrsv') hp

end

section
variable (hk : pf p 0 1 = 1) (hsp : pf p 1 1 = 0) (hlen : pf p 2 2 = 0) (hrsv : pf p 4 4 = 0) (hva : pf p 8 8 = 0)
  (hrsv' : pf p 20 4 = 0)
include hk hsp hlen hrsv hva hrsv'

/-- A program of the Oxward library loads by its number. -/
theorem bodyLoadUpdate_of_library {img : List Byte} (hp : swapPending s c 5 = false)
    (hlib : Config.updateLibrary (BitVec.ofNat 32 (pf p 16 4)) = some img) :
    bodyLoadUpdate s n c p = (modCtx s c fun x => { x with updp := { x.updp with sha := img } }, .now .ok) := by
  have hpass : ∀ x ∈ loadUpdateChecks p, x.2.1 = false := by
    simp [loadUpdateChecks, bad, rsv, hk, hsp, hlen, hrsv, hva, hrsv', hlib]
  refine (loadBody_of_free hpass hp).trans ?_
  rw [if_pos hk, hlib]

omit hrsv' in
/-- A number that the library does not name is unknown. -/
theorem bodyLoadUpdate_of_unknown (hlib : Config.updateLibrary (BitVec.ofNat 32 (pf p 16 4)) = none) :
    bodyLoadUpdate s n c p = (s, .now (.fail stLibUnknown 128)) := by
  refine checked_of_firstBad ?_
  simp [firstBad, bad, rsv, hk, hsp, hlen, hrsv, hva, hlib]

end

end

/-- Settles O8: each load's fields pass its checks, so it fills its shadow, answers what its buffer's read fails with, or answers
swap-pending. -/
theorem loadsFillShadows : Obligations.LoadsFillShadows := by
  rintro s r p c rfl rfl
  refine ⟨?_, ?_, ?_, ?_, ?_, ?_, ?_, ?_, ?_, ?_, ?_, ?_, ?_, ?_, ?_⟩
  · intro hacc hp ha hva
    exact exec_answers (body := bodyLoadProgram) rfl hacc (by decide) (bodyLoadProgram_of_valid (s := posted s r) ha hva hp)
  · intro u bs hacc hp hsp hrsv ha hva hm hm' hr
    exact exec_answers (body := bodyLoadSlotlib) rfl hacc (by decide)
      (bodyLoadSlotlib_of_read (s := posted s r) hsp hrsv ha hva hm hm' hp hr)
  · intro u a hacc hp hsp hrsv ha hva hm hm' hr
    exact exec_answers (body := bodyLoadSlotlib) rfl hacc (by decide)
      (bodyLoadSlotlib_of_unread (s := posted s r) hsp hrsv ha hva hm hm' hp hr)
  · intro hacc hp
    exact exec_answers (body := bodyLoadRecipes) rfl hacc (by decide) (loadBody_of_free (s := posted s r) (by simp) hp)
  · intro hacc hp
    exact exec_answers (body := bodyLoadRetention) rfl hacc (by decide) (loadBody_of_free (s := posted s r) (by simp) hp)
  · intro hacc hp
    exact exec_answers (body := bodyLoadDispatch) rfl hacc (by decide) (loadBody_of_free (s := posted s r) (by simp) hp)
  · intro u bs hacc hp hk hsp hlo hhi h4 hrsv hva hrsv' hr
    exact exec_answers (body := bodyLoadUpdate) rfl hacc (by decide)
      (bodyLoadUpdate_of_read (s := posted s r) hk hsp hlo hhi h4 hrsv hva hrsv' hp hr)
  · intro u a hacc hp hk hsp hlo hhi h4 hrsv hva hrsv' hr
    exact exec_answers (body := bodyLoadUpdate) rfl hacc (by decide)
      (bodyLoadUpdate_of_unread (s := posted s r) hk hsp hlo hhi h4 hrsv hva hrsv' hp hr)
  · intro hacc hp hk hsp hlen hrsv hva hrsv'
    split
    · next img hlib =>
      exact exec_answers (body := bodyLoadUpdate) rfl hacc (by decide)
        (bodyLoadUpdate_of_library (s := posted s r) hk hsp hlen hrsv hva hrsv' hp hlib)
    · next hlib =>
      exact exec_answers (body := bodyLoadUpdate) rfl hacc (by decide)
        (bodyLoadUpdate_of_unknown (s := posted s r) hk hsp hlen hrsv hva hlib)
  · intro hacc hp ha hva
    exact exec_answers (body := bodyLoadProgram) rfl hacc (by decide) (bodyLoadProgram_of_pending (s := posted s r) ha hva hp)
  · intro hacc hp hsp hrsv ha hva hm hm'
    exact exec_answers (body := bodyLoadSlotlib) rfl hacc (by decide)
      (bodyLoadSlotlib_of_pending (s := posted s r) hsp hrsv ha hva hm hm' hp)
  · intro hacc hp
    exact exec_answers (body := bodyLoadRecipes) rfl hacc (by decide) (loadBody_of_pending (s := posted s r) (by simp) hp)
  · intro hacc hp
    exact exec_answers (body := bodyLoadRetention) rfl hacc (by decide) (loadBody_of_pending (s := posted s r) (by simp) hp)
  · intro hacc hp
    exact exec_answers (body := bodyLoadDispatch) rfl hacc (by decide) (loadBody_of_pending (s := posted s r) (by simp) hp)
  · intro hacc hp hk hsp hlo hhi h4 hrsv hva hrsv'
    exact exec_answers (body := bodyLoadUpdate) rfl hacc (by decide)
      (bodyLoadUpdate_of_pending (s := posted s r) hk hsp hlo hhi h4 hrsv hva hrsv' hp)

/-! ### RUN and PHASE_EXPORT -/

section
variable {s : State} {n c : CtxId} {p : List Byte}

theorem run_pass (h1 : pf p 0 1 ≤ 1) (hrsv : pf p 1 7 = 0) : ∀ x ∈ [bad 0 (decide (pf p 0 1 > 1)), rsv p 1 8], x.2.1 = false := by
  simp [bad, rsv, h1, hrsv]

/-- RUN with an active program starts the context, at ENTRY16 after a program swap. -/
theorem bodyRun_of_valid {x : Ctx} (h1 : pf p 0 1 ≤ 1) (hrsv : pf p 1 7 = 0) (hv : (getCtx s c).prog.act.valid = true)
    (hx : x = if (getCtx s c).is.fresh then restart (getCtx s c) else getCtx s c) :
    bodyRun s n c p
      = (setCtx s c { x with run := .running, is := { x.is with tickIrq := pf p 0 1 == 1, stopReq := false } }, .now .ok) := by
  rw [bodyRun, checked_ok (run_pass h1 hrsv), hv, hx]
  rfl

theorem bodyRun_of_no_program (h1 : pf p 0 1 ≤ 1) (hrsv : pf p 1 7 = 0) (hv : (getCtx s c).prog.act.valid = false) :
    bodyRun s n c p = (s, .now (.fail stCtxState noField)) := by
  rw [bodyRun, checked_ok (run_pass h1 hrsv), hv]
  rfl

/-- PHASE_EXPORT to a range of writable local HBM pages, or to none. -/
theorem bodyPhaseExport_of_valid (hrsv : pf p 12 4 = 0)
    (hn : pf p 8 4 ≠ 0 → pf p 0 8 % 64 = 0 ∧ pf p 0 8 + 576 * pf p 8 4 ≤ 2 ^ 48
      ∧ rangeOk s (getCtx s c) (getCtx s c).ret.act false false (pf p 0 8) (576 * pf p 8 4) = true
      ∧ hbmWritable s (getCtx s c) (pf p 0 8) (576 * pf p 8 4) = true) :
    bodyPhaseExport s n c p = (setCtx s c { getCtx s c with
      expVa := BitVec.ofNat 64 (pf p 0 8), expN := BitVec.ofNat 32 (pf p 8 4) }, .now .ok) := by
  refine checked_ok ?_
  by_cases h0 : pf p 8 4 = 0
  · simp [bad, rsv, hrsv, h0]
  · obtain ⟨halign, hend, hok, hhbm⟩ := hn h0
    simpa [bad, rsv, hrsv, h0, halign, hok, hhbm] using hend

end

theorem pins_posted (s : State) (r : Req) : (posted s r).pins = s.pins := rfl

theorem hbmWritable_posted (s : State) (r : Req) (x : Ctx) (va n : Nat) : hbmWritable (posted s r) x va n = hbmWritable s x va n := by
  simp only [hbmWritable, rangeOk_pins (pins_posted s r), xlate_pins (pins_posted s r)]

/-- Settles O11. -/
theorem runAndPhaseExport : Obligations.RunAndPhaseExport := by
  rintro s r c rfl
  refine ⟨fun hacc h1 hrsv hv => ?_, fun hacc h1 hrsv hv => ?_, ?_⟩
  · exact exec_answers (body := bodyRun) rfl hacc (by decide) (bodyRun_of_valid (s := posted s r) h1 hrsv hv rfl)
  · exact exec_answers (body := bodyRun) rfl hacc (by decide) (bodyRun_of_no_program (s := posted s r) h1 hrsv hv)
  · rintro va n rfl rfl hacc hrsv hn
    exact exec_answers (body := bodyPhaseExport) rfl hacc (by decide) (bodyPhaseExport_of_valid (s := posted s r) hrsv (by
      rwa [rangeOk_pins (pins_posted s r), hbmWritable_posted]))

end Sys2Proof.Machine

/-! PROOF. The commands of the plan (O12), of the policies (O13), and of fences, leases and event rings (O14). -/

namespace Sys2Proof.Machine

/-! ### The plan -/

section
variable {s : State} {n c : CtxId} {p : List Byte}

theorem planWrite_pass (hlen : pf p 4 4 ≠ 0) (hend : pf p 0 4 + pf p 4 4 ≤ planSize) :
    ∀ k ∈ [bad 4 (pf p 4 4 == 0 || decide (pf p 0 4 + pf p 4 4 > planSize))], k.2.1 = false := by
  simp [bad, hlen, hend]

/-- PLAN_WRITE lays the host's bytes into the shadow image, if the host gives them. -/
theorem bodyPlanWrite_of_free (hlen : pf p 4 4 ≠ 0) (hend : pf p 0 4 + pf p 4 4 ≤ planSize) (hp : s.fab.pendT = none) :
    bodyPlanWrite s n c p
      = if hostOk s (pf p 8 8) (pf p 4 4) then
          (modFab s fun f => { f with planS := cwrite f.planS (pf p 0 4) (creadD Config.hostByte s.host (pf p 8 8) (pf p 4 4)) }, .now .ok)
        else (s, .now (.fail stHostDma noField)) := by
  refine (checked_ok (planWrite_pass hlen hend)).trans ?_
  rw [hp, hostRead]
  by_cases h : hostOk s (pf p 8 8) (pf p 4 4) = true
  · simp only [h, if_true]
    rfl
  · simp only [h]
    rfl

theorem bodyPlanWrite_of_pending (hlen : pf p 4 4 ≠ 0) (hend : pf p 0 4 + pf p 4 4 ≤ planSize) (hp : s.fab.pendT ≠ none) :
    bodyPlanWrite s n c p = (s, .now (.fail stSwapPending noField)) := by
  refine (checked_ok (planWrite_pass hlen hend)).trans ?_
  rw [if_pos (Option.isSome_iff_ne_none.2 hp)]

theorem bodySetpointWrite_of_free (hp : s.fab.pendT = none) :
    bodySetpointWrite s n c p = (modOpt s fun o => { o with sp := { o.sp with sha := recList 64 24 p } }, .now .ok) := by
  rw [bodySetpointWrite, hp]
  rfl

theorem bodySetpointWrite_of_pending (hp : s.fab.pendT ≠ none) :
    bodySetpointWrite s n c p = (s, .now (.fail stSwapPending noField)) := if_pos (Option.isSome_iff_ne_none.2 hp)

theorem planSwap_pass (ht : pf p 0 8 < 2 ^ 48) (hlate : s.clk.planSlot.toNat + 1953125 ≤ pf p 0 8) :
    ∀ k ∈ [bad 0 (decide (pf p 0 8 ≥ 2 ^ 48)), (0, decide (pf p 0 8 < s.clk.planSlot.toNat + 1953125), stEpochLate)],
      k.2.1 = false := by
  intro k hk
  simp only [List.mem_cons, List.not_mem_nil, or_false] at hk
  rcases hk with rfl | rfl
  · exact decide_eq_false (by omega)
  · exact decide_eq_false (by omega)

/-- PLAN_SWAP answers the first check of Table 8.6 that the shadow images fail. -/
theorem bodyPlanSwap_of_bad {staged : Bool} {b : BankBad} (ht : pf p 0 8 < 2 ^ 48)
    (hlate : s.clk.planSlot.toNat + 1953125 ≤ pf p 0 8) (hp : s.fab.pendT = none)
    (hb : planChecks s (planShadow s) s.optics.sp.sha = some b) : bodyPlanSwap staged s n c p = (s, .now b.ans) := by
  refine (checked_ok (planSwap_pass ht hlate)).trans ?_
  rw [hp]
  simp only [Option.isSome_none, Bool.false_eq_true, if_false, hb]

/-- With the images in order PLAN_SWAP leaves the swap to its slot, once its staging is complete. -/
theorem bodyPlanSwap_of_ok {staged : Bool} (ht : pf p 0 8 < 2 ^ 48)
    (hlate : s.clk.planSlot.toNat + 1953125 ≤ pf p 0 8) (hp : s.fab.pendT = none)
    (hb : planChecks s (planShadow s) s.optics.sp.sha = none) :
    bodyPlanSwap staged s n c p
      = if newlyOn s s.optics.sp.sha ≠ [] ∧ ¬(staged = true ∧ s.pins.lcPwrEn = true) then (s, .now (.fail stOpticsNot noField))
        else (retime (modFab (stage s s.optics.sp.sha) fun f => { f with
          pendT := some (pf p 0 8), nextPlan := some (planShadow s), told := false }), .now .ok) := by
  refine (checked_ok (planSwap_pass ht hlate)).trans ?_
  rw [hp]
  simp only [Option.isSome_none, Bool.false_eq_true, if_false, hb]
  refine if_congr ?_ rfl rfl
  cases staged <;> cases s.pins.lcPwrEn <;> simp

theorem bodyPlanSwap_of_pending {staged : Bool} (ht : pf p 0 8 < 2 ^ 48) (hlate : s.clk.planSlot.toNat + 1953125 ≤ pf p 0 8)
    (hp : s.fab.pendT ≠ none) : bodyPlanSwap staged s n c p = (s, .now (.fail stSwapPending noField)) := by
  refine (checked_ok (planSwap_pass ht hlate)).trans ?_
  rw [if_pos (Option.isSome_iff_ne_none.2 hp)]

/-- PLAN_WITHDRAW before slot T − 1 takes the pending swap back. -/
theorem bodyPlanWithdraw_of_early {t : Nat} (hp : s.fab.pendT = some t) (ht : s.clk.planSlot.toNat + 1 < t)
    (ha : s.fab.applied = false) :
    bodyPlanWithdraw s n c p
      = (retime (modOpt (modFab s fun f => { f with pendT := none, nextPlan := none, applied := false, told := f.told })
          fun o => { o with due := [] }), .now (.pay_ (leBytes 8 0))) := by
  have hlate : ¬ t ≤ s.clk.planSlot.toNat + 1 := by omega
  simp [bodyPlanWithdraw, hp, ht, hlate, ha, Ans.pay_, b2n]

/-- From slot T − 1 on the swap counts as having taken effect, and one answer says so. -/
theorem bodyPlanWithdraw_of_late {t : Nat} (hp : s.fab.pendT = some t) (ht : t ≤ s.clk.planSlot.toNat + 1) :
    bodyPlanWithdraw s n c p
      = (modFab s fun f => { f with applied := false, told := true },
        .now (if s.fab.applied = true ∨ s.fab.told = false then ⟨stSwapTook, noField, leBytes 8 1⟩ else .pay_ (leBytes 8 0))) := by
  have hearly : ¬ s.clk.planSlot.toNat + 1 < t := by omega
  cases ha : s.fab.applied <;> cases htold : s.fab.told <;>
    simp [bodyPlanWithdraw, hp, ht, hearly, ha, htold, Ans.pay_, b2n]

theorem bodyPlanWithdraw_of_none (hp : s.fab.pendT = none) :
    bodyPlanWithdraw s n c p
      = (modFab s fun f => { f with nextPlan := f.nextPlan, applied := false },
        .now (if s.fab.applied = true then ⟨stSwapTook, noField, leBytes 8 1⟩ else .pay_ (leBytes 8 0))) := by
  cases ha : s.fab.applied <;> simp [bodyPlanWithdraw, hp, ha, Ans.pay_, b2n]

end

/-- The images are checked against a state in which the request stands as against the one before. -/
theorem planChecks_posted (s : State) (r : Req) (pl : List Byte) (sp : List (BitVec 64)) :
    planChecks (posted s r) pl sp = planChecks s pl sp := rfl

/-- Settles O12. -/
theorem planCommands : Obligations.PlanCommands := by
  refine fun s r => ⟨?_, fun hacc hp => ?_, ?_, ?_, fun hacc hp => ?_, ?_, fun t hacc hp ht ha => ?_, fun t hacc hp ht => ?_,
    fun hacc hp => ?_⟩
  · rintro off len rfl rfl hacc hlen hend hp
    have hb := bodyPlanWrite_of_free (s := posted s r) (n := r.fn) (c := reqCtx r) hlen hend hp
    split
    · next h => exact exec_answers (body := bodyPlanWrite) rfl hacc (by decide) (hb.trans (if_pos h))
    · next h => exact exec_answers (body := bodyPlanWrite) rfl hacc (by decide) (hb.trans (if_neg h))
  · exact exec_answers (body := bodySetpointWrite) rfl hacc (by decide) (bodySetpointWrite_of_free (s := posted s r) hp)
  · rintro t staged rfl hacc ht hlate hp
    have hbad {b} := bodyPlanSwap_of_bad (s := posted s r) (n := r.fn) (c := reqCtx r) (staged := staged) (b := b) ht hlate hp
    have hok := bodyPlanSwap_of_ok (s := posted s r) (n := r.fn) (c := reqCtx r) (staged := staged) ht hlate hp
    rw [planChecks_posted] at hbad hok
    split
    · next b hb => exact exec_answers (body := bodyPlanSwap staged) rfl hacc (by decide) (hbad hb)
    · next hb =>
      split
      · next h => exact exec_answers (body := bodyPlanSwap staged) rfl hacc (by decide) ((hok hb).trans (if_pos h))
      · next h => exact exec_answers (body := bodyPlanSwap staged) rfl hacc (by decide) ((hok hb).trans (if_neg h))
  · rintro off len rfl rfl hacc hlen hend hp
    exact exec_answers (body := bodyPlanWrite) rfl hacc (by decide) (bodyPlanWrite_of_pending (s := posted s r) hlen hend hp)
  · exact exec_answers (body := bodySetpointWrite) rfl hacc (by decide) (bodySetpointWrite_of_pending (s := posted s r) hp)
  · rintro t staged rfl hacc ht hlate hp
    exact exec_answers (body := bodyPlanSwap staged) rfl hacc (by decide) (bodyPlanSwap_of_pending (s := posted s r) ht hlate hp)
  · exact exec_answers (body := bodyPlanWithdraw) rfl hacc (by decide) (bodyPlanWithdraw_of_early (s := posted s r) hp ht ha)
  · exact exec_answers (body := bodyPlanWithdraw) rfl hacc (by decide) (bodyPlanWithdraw_of_late (s := posted s r) hp ht)
  · exact exec_answers (body := bodyPlanWithdraw) rfl hacc (by decide) (bodyPlanWithdraw_of_none (s := posted s r) hp)

/-! ### The policies -/

section
variable {s : State}

theorem reefWrite_of_free (v : BitVec 128) (hp : s.reef.polPend = false) :
    reefWrite s v = (modReef s fun f => { f with pol := { f.pol with sha := v } }, .ok) := by
  rw [reefWrite, hp]
  rfl

theorem reefWrite_of_pending (v : BitVec 128) (hp : s.reef.polPend = true) :
    reefWrite s v = (s, .fail stSwapPending noField) := if_pos hp

/-- REEF_SWAP with a shadow that passes its checks leaves the swap to the next interval boundary. -/
theorem reefSwap_of_ok (hp : s.reef.polPend = false) (hk : ∀ k ∈ reefPolChecks s.reef.pol.sha, k.2.1 = false) :
    reefSwap s = (modReef s fun f => { f with polPend := true }, .ok) := by
  have hnone : (reefPolChecks s.reef.pol.sha).find? (fun k => k.2.1) = none := by
    simpa [List.find?_eq_none] using hk
  simp [reefSwap, hp, recBad, hnone]

theorem reefSwap_of_bad {k : Chk} (hp : s.reef.polPend = false)
    (hk : (reefPolChecks s.reef.pol.sha).find? (fun k => k.2.1) = some k) : reefSwap s = (s, .failRec k.2.2 k.1) := by
  simp [reefSwap, hp, recBad, hk, BankBad.ans]

theorem reefSwap_of_pending (hp : s.reef.polPend = true) : reefSwap s = (s, .fail stSwapPending noField) := if_pos hp

end

section
variable {s : State} {n c : CtxId} {p : List Byte}

theorem bodyReefWrite_eq {u : State} {a : Ans} (h : reefWrite s (recAt 128 p 0) = (u, a)) : bodyReefWrite s n c p = (u, .now a) := by
  rw [bodyReefWrite, h]

theorem bodyReefSwap_eq {u : State} {a : Ans} (h : reefSwap s = (u, a)) : bodyReefSwap s n c p = (u, .now a) := by
  rw [bodyReefSwap, h]

theorem bodyReefFloor_of_valid (hl : pf p 0 1 ≤ 15) (h1 : 1 ≤ pf p 2 2) (hms : pf p 2 2 ≤ 60000) (hrsv : pf p 1 1 = 0)
    (hrsv' : pf p 4 4 = 0) : bodyReefFloor s n c p = (setPartFloor s (pf p 0 1) (pf p 2 2), .now .ok) := by
  have h0 : pf p 2 2 ≠ 0 := by omega
  refine checked_ok ?_
  simp [bad, rsv, hl, h0, hms, hrsv, hrsv']

theorem bodyEscWrite_of_valid (hrsv : pf p 0 4 % 2 ^ 16 = 0) (hlo : 1 ≤ pf p 0 4 / 2 ^ 16 % 2 ^ 12)
    (hhi : pf p 0 4 / 2 ^ 16 % 2 ^ 12 ≤ 3600) (hn : 1 ≤ pf p 0 4 / 2 ^ 28) :
    bodyEscWrite s n c p = (modHal s fun h => { h with escPol := BitVec.ofNat 32 (pf p 0 4) }, .now .ok) := by
  refine checked_ok fun k hk => ?_
  simp only [List.mem_cons, List.not_mem_nil, or_false] at hk
  rcases hk with rfl | rfl | rfl
  · simpa using hrsv
  · simp only [Bool.or_eq_false_iff, beq_eq_false_iff_ne, decide_eq_false_iff_not]
    omega
  · simp only [beq_eq_false_iff_ne]
    omega

end

/-- Settles O13. -/
theorem policyCommands : Obligations.PolicyCommands := by
  refine fun s r => ⟨fun hacc hp => ?_, fun hacc hp hk => ?_, fun k hacc hp hk => ?_, fun hacc hp => ?_, fun hacc hp => ?_, ?_, ?_⟩
  · exact exec_answers (body := bodyReefWrite) rfl hacc (by decide) (bodyReefWrite_eq (reefWrite_of_free (s := posted s r) _ hp))
  · exact exec_answers (body := bodyReefSwap) rfl hacc (by decide) (bodyReefSwap_eq (reefSwap_of_ok (s := posted s r) hp hk))
  · exact exec_answers (body := bodyReefSwap) rfl hacc (by decide) (bodyReefSwap_eq (reefSwap_of_bad (s := posted s r) hp hk))
  · exact exec_answers (body := bodyReefWrite) rfl hacc (by decide) (bodyReefWrite_eq (reefWrite_of_pending (s := posted s r) _ hp))
  · exact exec_answers (body := bodyReefSwap) rfl hacc (by decide) (bodyReefSwap_eq (reefSwap_of_pending (s := posted s r) hp))
  · rintro level ms rfl rfl hacc hl h1 hms hrsv hrsv'
    exact exec_answers (body := bodyReefFloor) rfl hacc (by decide) (bodyReefFloor_of_valid (s := posted s r) hl h1 hms hrsv hrsv')
  · rintro v rfl hacc hrsv hlo hhi hn
    exact exec_answers (body := bodyEscWrite) rfl hacc (by decide) (bodyEscWrite_of_valid (s := posted s r) hrsv hlo hhi hn)

/-! ### Fences, leases and event rings -/

section
variable {s : State} {n c : CtxId} {p : List Byte}

/-- A lease record is taken if it passes its checks, and else counted. -/
theorem leaseIn_eq (r : BitVec 256) :
    leaseIn s r = if ∀ k ∈ leaseChecks s r, k.2.1 = false then leaseTake s r
      else modFab s fun f => { f with leaseBad := f.leaseBad + 1 } := by
  unfold leaseIn firstSt
  by_cases h : ∀ k ∈ leaseChecks s r, k.2.1 = false
  · have hnone : (leaseChecks s r).find? (fun k => k.2.1) = none := by simpa [List.find?_eq_none] using h
    rw [if_pos h, hnone]
    rfl
  · have hsome : ((leaseChecks s r).find? fun k => k.2.1).isSome = true := by simpa [List.find?_isSome] using h
    rw [if_neg h, Option.isSome_map, if_pos hsome]
    rfl

theorem bodyLease_of_valid (h : fld (recAt 256 p 0) 99 0 = 0) : bodyLease s n c p = (leaseIn s (recAt 256 p 0), .now .ok) := by
  refine checked_ok ?_
  simp [h]

theorem bodyUnfence_of_ok (h : ∀ k ∈ leaseChecks s (recAt 256 p 0), k.2.1 = false) :
    bodyUnfence s n c p = (unfence (leaseTake s (recAt 256 p 0)), .now .ok) := by
  simp only [bodyUnfence, firstBad_none h]

theorem bodyUnfence_of_bad {k : Chk} (h : (leaseChecks s (recAt 256 p 0)).find? (fun k => k.2.1) = some k) :
    bodyUnfence s n c p = (if k.2.2 = stLease then leaseCount s else s, .now (.fail k.2.2 k.1)) := by
  simp only [bodyUnfence, firstBad, h, Option.map_some]
  rfl

/-- EVENT_RING sets up an empty ring. -/
theorem bodyEventRing_of_valid (ha : pf p 0 8 % 4096 = 0) (hn : pf p 8 4 = 0 ∨ 64 ≤ pf p 8 4 ∧ pf p 8 4 ≤ 65536)
    (hs : pf p 14 1 ≤ 3) (hpf : c = 0 ∨ pf p 14 1 = 0) (hrsv : pf p 15 1 = 0) :
    bodyEventRing s n c p = (modFn s c fun f => { f with
      ringAddr := BitVec.ofNat 64 (pf p 0 8), nent := BitVec.ofNat 32 (pf p 8 4), modUs := BitVec.ofNat 16 (pf p 12 2),
      scope := BitVec.ofNat 8 (pf p 14 1), evtHead := 0, evtTail := 0, evSeq := 0, lost := 0, annDue := false }, .now .ok) := by
  refine checked_ok fun k hk => ?_
  simp only [List.mem_cons, List.not_mem_nil, or_false] at hk
  rcases hk with rfl | rfl | rfl | rfl | rfl
  · simp [bad, ha]
  · rcases hn with hn | ⟨hlo, hhi⟩
    · simp [bad, hn]
    · simp [bad, hlo, hhi]
  · simp [bad, hs]
  · rcases hpf with rfl | hpf
    · simp
    · simp [hpf]
  · simp [rsv, hrsv]

end

/-- Settles O14. -/
theorem fenceLeaseRing : Obligations.FenceLeaseRing := by
  refine fun s r => ⟨fun hacc => ?_, fun hacc hrsv => ?_, fun hacc hk => ?_, fun k hacc hk => ?_, ?_⟩
  · exact exec_answers (body := bodyFence) rfl hacc (by decide) rfl
  · have hb := bodyLease_of_valid (s := posted s r) (n := r.fn) (c := reqCtx r) hrsv
    rw [leaseIn_eq] at hb
    exact exec_answers (body := bodyLease) rfl hacc (by decide) hb
  · exact exec_answers (body := bodyUnfence) rfl hacc (by decide) (bodyUnfence_of_ok (s := posted s r) hk)
  · exact exec_answers (body := bodyUnfence) rfl hacc (by decide) (bodyUnfence_of_bad (s := posted s r) hk)
  · rintro addr nent scope rfl rfl rfl hacc ha hn hs hpf hrsv
    exact exec_answers (body := bodyEventRing) rfl hacc (by decide) (bodyEventRing_of_valid (s := posted s r) ha hn hs hpf hrsv)

end Sys2Proof.Machine

/-! PROOF. The diagnostic commands (O15) and those of the compute reset (O16). -/

namespace Sys2Proof.Machine

section
variable {s : State} {n c : CtxId} {p : List Byte}

/-- A host write that the host takes. -/
theorem hostWriteTo_of_ok {a : Nat} {bs : List Byte} (h : hostOk s a bs.length = true) :
    hostWriteTo s a bs = some { s with host := hwrite s.host a bs } := if_pos h

theorem hostWriteTo_of_refused {a : Nat} {bs : List Byte} (h : hostOk s a bs.length = false) : hostWriteTo s a bs = none := by
  rw [hostWriteTo, h]
  rfl

theorem bodyDumpRelease_of_valid (h3 : pf p 0 1 ≤ 3) (hrsv : pf p 1 7 = 0) :
    bodyDumpRelease s n c p = (modHal s fun h => { h with dumps := h.dumps.filter fun d => d.1 != pf p 0 1 }, .now .ok) := by
  refine checked_ok ?_
  simp [bad, rsv, h3, hrsv]

theorem bodyTrace_of_valid (hva : pf p 0 8 % 64 = 0) (hlen : pf p 8 8 ≠ 0) (hlen' : pf p 8 8 % 64 = 0)
    (hw : hbmWritable s (getCtx s c) (pf p 0 8) (pf p 8 8) = true) (hle : pf p 16 8 ≤ pf p 24 8) (hlast : pf p 24 8 < 2 ^ 48)
    (hflag : pf p 32 1 ≤ 1) (hrsv : pf p 33 7 = 0) :
    bodyTrace s n c p = (setCtx s c { getCtx s c with
      trace := ⟨true, pf p 0 8, pf p 8 8, pf p 16 8, pf p 24 8, pf p 32 1 == 1, 0, false⟩ }, .now .ok) := by
  refine checked_ok ?_
  simpa [bad, rsv, hva, hlen, hlen', hw, hle, hflag, hrsv] using hlast

section
variable (hn : pf p 4 4 ≠ 0) (hend : pf p 0 4 + pf p 4 4 ≤ 32768)
include hn hend

theorem bodyFbCopy_eq :
    bodyFbCopy s n c p
      = if hostOk s (pf p 8 8) (cread (fbSeen s.hal) (64 * pf p 0 4) (64 * pf p 4 4)).length then
          ({ s with host := hwrite s.host (pf p 8 8) (cread (fbSeen s.hal) (64 * pf p 0 4) (64 * pf p 4 4)) }, .now .ok)
        else (s, .now (.fail stHostDma noField)) := by
  have hpass : ∀ k ∈ [bad 4 (pf p 4 4 == 0 || decide (32768 < pf p 0 4 + pf p 4 4))], k.2.1 = false := by simp [bad, hn, hend]
  refine (checked_ok hpass).trans ?_
  by_cases h : hostOk s (pf p 8 8) (cread (fbSeen s.hal) (64 * pf p 0 4) (64 * pf p 4 4)).length = true
  · rw [if_pos h, hostWriteTo_of_ok h]
  · rw [if_neg h, hostWriteTo_of_refused (by simpa using h)]

end

section
variable {d : Nat × Nat × Nat} (h3 : pf p 0 1 ≤ 3) (hd : s.hal.dumps.find? (fun d => d.1 == pf p 0 1) = some d) (hd0 : d.2.2 ≠ 0)
  (hlen : pf p 8 4 ≠ 0) (hend : pf p 4 4 + pf p 8 4 ≤ d.2.2) (hrsv : pf p 1 3 = 0) (hrsv' : pf p 12 4 = 0)
include h3 hd hd0 hlen hend hrsv hrsv'

/-- DUMP_COPY reads the slot and writes to the host what it reads. -/
theorem bodyDumpCopy_of_read {u : State} {bs : List Byte}
    (hr : memRead s ⟨0, none⟩ (dumpBase (pf p 0 1) + pf p 4 4) (pf p 8 4) = (u, .ok bs)) :
    bodyDumpCopy s n c p
      = if hostOk u (pf p 16 8) bs.length then ({ u with host := hwrite u.host (pf p 16 8) bs }, .now .ok)
        else (u, .now (.fail stHostDma noField)) := by
  rw [bodyDumpCopy, hd, hr, checked_ok]
  · by_cases h : hostOk u (pf p 16 8) bs.length = true
    · simp only [if_pos h, hostWriteTo_of_ok h]
    · simp only [if_neg h, hostWriteTo_of_refused (show hostOk u (pf p 16 8) bs.length = false by simpa using h)]
  · simp [bad, rsv, h3, hd0, hlen, hend, hrsv, hrsv']

theorem bodyDumpCopy_of_unread {u : State} {e : MemBad}
    (hr : memRead s ⟨0, none⟩ (dumpBase (pf p 0 1) + pf p 4 4) (pf p 8 4) = (u, .error e)) :
    bodyDumpCopy s n c p = (u, .now (.fail stMemUe noField)) := by
  rw [bodyDumpCopy, hd, hr, checked_ok]
  simp [bad, rsv, h3, hd0, hlen, hend, hrsv, hrsv']

end

theorem bodyLoopReset_of_fault (hdie : pf p 0 1 ≤ 1) (hm : pf p 2 2 < if pf p 0 1 = 0 then 232 else 64) (hrsv : pf p 1 1 = 0)
    (hrsv' : pf p 4 4 = 0) (hst : (getLoop s (1024 * pf p 0 1 + pf p 2 2)).st = .fault) :
    bodyLoopReset s n c p = (moveLoop s (1024 * pf p 0 1 + pf p 2 2)
      { getLoop s (1024 * pf p 0 1 + pf p 2 2) with st := .sweep, fails := 0 }, .now .ok) := by
  rw [bodyLoopReset]
  dsimp only
  rw [if_pos hst, checked_ok]
  simpa [bad, rsv, hdie, hrsv, hrsv'] using hm

end

/-- Settles O15. -/
theorem diagnosticCommands : Obligations.DiagnosticCommands := by
  rintro s r p rfl
  refine ⟨fun hacc => ?_, fun hacc h3 hrsv => ?_, fun hacc hva hlen hlen' hw hle hlast hflag hrsv => ?_, ?_, ?_, ?_, ?_⟩
  · exact exec_answers (body := bodyDump) rfl hacc (by decide) rfl
  · exact exec_answers (body := bodyDumpRelease) rfl hacc (by decide) (bodyDumpRelease_of_valid (s := posted s r) h3 hrsv)
  · refine exec_answers (body := bodyTrace) rfl hacc (by decide)
      (bodyTrace_of_valid (s := posted s r) hva hlen hlen' ?_ hle hlast hflag hrsv)
    rwa [hbmWritable_posted]
  · rintro row n rfl rfl hacc hn hend bs
    have hb := bodyFbCopy_eq (s := posted s r) (n := r.fn) (c := reqCtx r) hn hend
    split
    · next h => exact exec_answers (body := bodyFbCopy) rfl hacc (by decide) (hb.trans (if_pos h))
    · next h => exact exec_answers (body := bodyFbCopy) rfl hacc (by decide) (hb.trans (if_neg h))
  · rintro slot off len d u bs rfl rfl rfl hacc h3 hd hd0 hlen hend hrsv hrsv' hr
    have hb := bodyDumpCopy_of_read (s := posted s r) (n := r.fn) (c := reqCtx r) h3 hd hd0 hlen hend hrsv hrsv' hr
    split
    · next h => exact exec_answers (body := bodyDumpCopy) rfl hacc (by decide) (hb.trans (if_pos h))
    · next h => exact exec_answers (body := bodyDumpCopy) rfl hacc (by decide) (hb.trans (if_neg h))
  · rintro slot off len d u e rfl rfl rfl hacc h3 hd hd0 hlen hend hrsv hrsv' hr
    exact exec_answers (body := bodyDumpCopy) rfl hacc (by decide)
      (bodyDumpCopy_of_unread (s := posted s r) h3 hd hd0 hlen hend hrsv hrsv' hr)
  · rintro die m rfl rfl hacc hdie hm hrsv hrsv' hst
    exact exec_answers (body := bodyLoopReset) rfl hacc (by decide)
      (bodyLoopReset_of_fault (s := posted s r) hdie hm hrsv hrsv' hst)

/-! ### COMPUTE_RESET and RETURN_TO_SERVICE -/

theorem heldInReset_iff (s : State) : heldInReset s = true ↔ s.pkg.state = 3 ∨ s.pkg.state = 0 := by simp [heldInReset]

/-- Settles O16. -/
theorem computeResetCommands : Obligations.ComputeResetCommands := by
  refine fun s r => ⟨fun hacc => ?_, fun hacc h3 => ?_, fun hacc h3 => ?_⟩
  · split
    · next h =>
      exact exec_answers (body := bodyComputeReset) rfl hacc (by decide) (if_pos ((heldInReset_iff (posted s r)).2 h))
    · next h =>
      exact exec_waits (body := bodyComputeReset) rfl hacc (by decide) (if_neg (mt (heldInReset_iff (posted s r)).1 h))
  · exact exec_waits (body := bodyReturn) rfl hacc (by decide) (if_neg (not_not.2 h3))
  · exact exec_answers (body := bodyReturn) rfl hacc (by decide) (if_pos h3)

end Sys2Proof.Machine

/-! PROOF. Firmware (O17), retrieval to host memory (O18) and the cartridge's commands (O19). -/

namespace Sys2Proof.Machine

/-! ### Firmware -/

section
variable {s : State} {n c : CtxId} {p : List Byte}

theorem bodyFwWrite_of_free (hlen : pf p 4 4 ≠ 0) (hend : pf p 0 4 + pf p 4 4 ≤ 16777216) (hw : s.boot.writing = none) :
    bodyFwWrite s n c p
      = if hostOk s (pf p 8 8) (pf p 4 4) then
          (if s.pkg.romService then recoveryWrite s (pf p 0 4) (creadD Config.hostByte s.host (pf p 8 8) (pf p 4 4))
           else modBoot s fun b => { b with
             staging := cwrite b.staging (pf p 0 4) (creadD Config.hostByte s.host (pf p 8 8) (pf p 4 4)) }, .now .ok)
        else (s, .now (.fail stHostDma noField)) := by
  have hpass : ∀ k ∈ [bad 4 (pf p 4 4 == 0 || decide (stagingSize < pf p 0 4 + pf p 4 4))], k.2.1 = false := by
    simp [bad, hlen, Nat.not_lt.2 (show pf p 0 4 + pf p 4 4 ≤ stagingSize from hend)]
  refine (checked_ok hpass).trans ?_
  rw [hw, hostRead]
  by_cases h : hostOk s (pf p 8 8) (pf p 4 4) = true
  · simp only [h, if_true]
    rfl
  · simp only [h]
    rfl

section
variable (hlen : pf p 0 4 ≠ 0) (hend : pf p 0 4 ≤ 16777216) (hrsv : pf p 4 4 = 0) (hw : s.boot.writing = none)
include hlen hend hrsv hw

omit hw in
theorem fwCommit_pass : ∀ k ∈ [bad 0 (pf p 0 4 == 0 || decide (stagingSize < pf p 0 4)), rsv p 4 8], k.2.1 = false := by
  simp [bad, rsv, hlen, hrsv, Nat.not_lt.2 (show pf p 0 4 ≤ stagingSize from hend)]

section
variable (hrom : s.pkg.romService = false)
include hrom

/-- FW_COMMIT of an image that fails answers its first failing check. -/
theorem bodyFwCommit_of_bad {e : Status × Nat} (he : imageCheck s (cread s.boot.staging 0) (some (pf p 0 4)) = .error e) :
    bodyFwCommit s n c p = (s, .now (.failRec e.1 e.2)) := by
  refine (checked_ok (fwCommit_pass hlen hend hrsv)).trans ?_
  simp only [hw, hrom, he, Option.isSome_none, Bool.false_eq_true, if_false]

/-- FW_COMMIT of an image in order begins the write of the other slot, whose VALID bit is first cleared. -/
theorem bodyFwCommit_of_ok {img : List Byte} (he : imageCheck s (cread s.boot.staging 0) (some (pf p 0 4)) = .ok img) :
    bodyFwCommit s n c p = (modBoot (dirUpdate s fun d => setOk d (1 - s.boot.slot) false) fun b => { b with
      writing := some (1 - s.boot.slot, pf p 0 4) }, .now .ok) := by
  refine (checked_ok (fwCommit_pass hlen hend hrsv)).trans ?_
  simp only [hw, hrom, he, Option.isSome_none, Bool.false_eq_true, if_false]

end

section
variable (hrom : s.pkg.romService = true)
include hrom

/-- In recovery FW_COMMIT checks slot A as stored. -/
theorem bodyFwCommit_recovery_of_bad {e : Status × Nat} (he : slotImage s 0 (some (pf p 0 4)) = .error e) :
    bodyFwCommit s n c p = (s, .now (.failRec e.1 e.2)) := by
  refine (checked_ok (fwCommit_pass hlen hend hrsv)).trans ?_
  simp only [hw, hrom, he, Option.isSome_none, Bool.false_eq_true, if_false, if_true]

theorem bodyFwCommit_recovery_of_ok {img : List Byte} (he : slotImage s 0 (some (pf p 0 4)) = .ok img) :
    bodyFwCommit s n c p = (dirUpdate s fun d => setFld (setOk (setTries d 0 0) 0 true) 447 447 0, .now .ok) := by
  refine (checked_ok (fwCommit_pass hlen hend hrsv)).trans ?_
  simp only [hw, hrom, he, Option.isSome_none, Bool.false_eq_true, if_false, if_true]

end
end
end

/-- Erasing sectors leaves the staging buffer. -/
theorem staging_eraseSectors (s : State) (slot : Nat) (ks : List Nat) :
    (ks.foldl (fun s k => eraseSector s slot k) s).boot.staging = s.boot.staging := by
  induction ks generalizing s with
  | nil => rfl
  | cons k ks ih => exact ih (eraseSector s slot k)

/-- Settles O17. -/
theorem firmwareCommands : Obligations.FirmwareCommands := by
  rintro s r p rfl
  refine ⟨?_, ?_, ?_, fun slot len hw => ?_, fun hacc hi => ?_, fun hacc hi => ?_⟩
  · rintro off len rfl rfl hacc hlen hend hw bs
    have hb := bodyFwWrite_of_free (s := posted s r) (n := r.fn) (c := reqCtx r) hlen hend hw
    split
    · next h => exact exec_answers (body := bodyFwWrite) rfl hacc (by decide) (hb.trans (if_pos h))
    · next h => exact exec_answers (body := bodyFwWrite) rfl hacc (by decide) (hb.trans (if_neg h))
  · rintro len rfl hacc hlen hend hrsv hw hrom
    split
    · next e he =>
      exact exec_answers (body := bodyFwCommit) rfl hacc (by decide) (bodyFwCommit_of_bad (s := posted s r) hlen hend hrsv hw hrom he)
    · next img he =>
      exact exec_answers (body := bodyFwCommit) rfl hacc (by decide) (bodyFwCommit_of_ok (s := posted s r) hlen hend hrsv hw hrom he)
  · rintro len rfl hacc hlen hend hrsv hw hrom
    split
    · next e he =>
      exact exec_answers (body := bodyFwCommit) rfl hacc (by decide)
        (bodyFwCommit_recovery_of_bad (s := posted s r) hlen hend hrsv hw hrom he)
    · next img he =>
      exact exec_answers (body := bodyFwCommit) rfl hacc (by decide)
        (bodyFwCommit_recovery_of_ok (s := posted s r) hlen hend hrsv hw hrom he)
  · change Host.Outcome.next (fwCommitted s) = _
    rw [fwCommitted, hw]
    dsimp only
    rw [staging_eraseSectors]
  · exact exec_answers (body := bodyFwStatus) rfl hacc (by decide) (by
      rw [bodyFwStatus, show (posted s r).boot.hasImage = true from hi]
      rfl)
  · exact exec_answers (body := bodyFwStatus) rfl hacc (by decide) (by
      rw [bodyFwStatus, show (posted s r).boot.hasImage = false from hi]
      rfl)

/-! ### Retrieval to host memory -/

section
variable {s : State} {addr win off : Nat} {bs : List Byte}

theorem toWindow_of_ok (hw : bs.length ≤ win) (h : hostOk s addr bs.length = true) :
    toWindow s addr win off bs = ({ s with host := hwrite s.host addr bs }, .now (.pay_ (leBytes 8 bs.length))) := by
  rw [toWindow, if_neg (Nat.not_lt.2 hw), hostWriteTo_of_ok h]

theorem toWindow_of_refused (hw : bs.length ≤ win) (h : hostOk s addr bs.length = false) :
    toWindow s addr win off bs = (s, .now (.fail stHostDma noField)) := by
  rw [toWindow, if_neg (Nat.not_lt.2 hw), hostWriteTo_of_refused h]

theorem toWindow_of_small (hw : win < bs.length) : toWindow s addr win off bs = (s, .now (.fail stWindow (8 * off))) := if_pos hw

end

section
variable {s : State} {n c : CtxId} {p : List Byte}

theorem rsv_pass {a b : Nat} (h : pf p a (b - a) = 0) : ∀ k ∈ [rsv p a b], k.2.1 = false := by simp [rsv, h]

/-- ATTEST draws a fresh signature and writes its report to the window. -/
theorem bodyAttest_of_valid (h : pf p 44 4 = 0) :
    bodyAttest s n c p = toWindow { s with freeCtr := s.freeCtr + 1 } (pf p 32 8) (pf p 40 4) 40
      (attBody s c (pf p 0 32) ++ leBytes 64 (Config.deviceSign s.freeCtr (shaRec (attBody s c (pf p 0 32)))).toNat) :=
  checked_ok (rsv_pass h)

theorem bodyCertRead_of_valid (h : pf p 12 4 = 0) :
    bodyCertRead s n c p = toWindow s (pf p 0 8) (pf p 8 4) 8 Config.certificates := checked_ok (rsv_pass h)

theorem attBody_posted (s : State) (r : Req) (c : CtxId) (nonce : Nat) : attBody (posted s r) c nonce = attBody s c nonce := rfl

/-- The life record of the cartridge with its signature, as LC_LIFE_READ writes them. -/
def lifeRead (s : State) : List Byte :=
  (s.optics.cartLife ++ List.replicate 544 0).take 544
    ++ (Config.cartridgeSign ((s.optics.cartLife ++ List.replicate 544 0).take 544) ++ List.replicate 64 0).take 64

theorem lifeRead_length (s : State) : (lifeRead s).length = 608 := by
  simp only [lifeRead, List.length_append, List.length_take, List.length_replicate]
  omega

section
variable (hcart : s.pkg.cartOk = true)
include hcart

theorem bodyLifeRead_of_fits (hw : 608 ≤ pf p 8 4) (hrsv : pf p 12 4 = 0) :
    bodyLifeRead s n c p
      = if hostOk s (pf p 0 8) 608 then ({ s with host := hwrite s.host (pf p 0 8) (lifeRead s) }, .now (.pay_ (leBytes 8 608)))
        else (s, .now (.fail stHostDma noField)) := by
  have hpass : ∀ k ∈ [(64, decide (pf p 8 4 < 608), stWindow), rsv p 12 16], k.2.1 = false := by
    simp [rsv, hrsv, hw]
  refine (if_neg (by simp [cartAbsent, hcart])).trans ((checked_ok hpass).trans ?_)
  have hlen := lifeRead_length s
  change (match hostWriteTo s (pf p 0 8) (lifeRead s) with | none => _ | some s => _) = _
  by_cases h : hostOk s (pf p 0 8) 608 = true
  · rw [if_pos h, hostWriteTo_of_ok (by rwa [hlen])]
  · rw [if_neg h, hostWriteTo_of_refused (by rw [hlen]; simpa using h)]

theorem bodyLifeRead_of_small (hw : pf p 8 4 < 608) : bodyLifeRead s n c p = (s, .now (.fail stWindow 64)) := by
  refine (if_neg (by simp [cartAbsent, hcart])).trans (checked_of_firstBad ?_)
  simp [firstBad, hw]

end

theorem bodyLifeRead_of_absent (hcart : s.pkg.cartOk = false) :
    bodyLifeRead s n c p = (s, .now (.fail stCartAbsent noField)) := if_pos (by simp [cartAbsent, hcart])

end

/-- Settles O18. -/
theorem retrievalCommands : Obligations.RetrievalCommands := by
  rintro s r p rfl
  refine ⟨?_, ?_, ?_, fun hacc hcart => ?_⟩
  · rintro report n hacc hrsv rfl rfl
    have hb := bodyAttest_of_valid (s := posted s r) (n := r.fn) (c := reqCtx r) hrsv
    rw [attBody_posted] at hb
    refine ⟨fun hw h => ?_, fun hw h => ?_, fun hw => ?_⟩
    · exact exec_answers (body := bodyAttest) rfl hacc (by decide) (hb.trans (toWindow_of_ok hw h))
    · exact exec_answers (body := bodyAttest) rfl hacc (by decide) (hb.trans (toWindow_of_refused hw h))
    · exact exec_answers (body := bodyAttest) rfl hacc (by decide) (hb.trans (toWindow_of_small hw))
  · rintro certs n hacc hrsv rfl rfl
    have hb := bodyCertRead_of_valid (s := posted s r) (n := r.fn) (c := reqCtx r) hrsv
    refine ⟨fun hw h => ?_, fun hw h => ?_, fun hw => ?_⟩
    · exact exec_answers (body := bodyCertRead) rfl hacc (by decide) (hb.trans (toWindow_of_ok hw h))
    · exact exec_answers (body := bodyCertRead) rfl hacc (by decide) (hb.trans (toWindow_of_refused hw h))
    · exact exec_answers (body := bodyCertRead) rfl hacc (by decide) (hb.trans (toWindow_of_small hw))
  · rintro life n hacc hcart hrsv rfl rfl
    refine ⟨fun hw h => ?_, fun hw h => ?_, fun hw => ?_⟩
    · have hb := bodyLifeRead_of_fits (s := posted s r) (n := r.fn) (c := reqCtx r) hcart hw hrsv
      exact exec_answers (body := bodyLifeRead) rfl hacc (by decide) (hb.trans (if_pos h))
    · have hb := bodyLifeRead_of_fits (s := posted s r) (n := r.fn) (c := reqCtx r) hcart hw hrsv
      exact exec_answers (body := bodyLifeRead) rfl hacc (by decide) (hb.trans (if_neg (ne_true_of_eq_false h)))
    · exact exec_answers (body := bodyLifeRead) rfl hacc (by decide) (bodyLifeRead_of_small (s := posted s r) hcart hw)
  · exact exec_answers (body := bodyLifeRead) rfl hacc (by decide) (bodyLifeRead_of_absent (s := posted s r) hcart)

/-! ### The cartridge -/

section
variable {s : State} {n c : CtxId} {p : List Byte}

theorem bodyLcSwap_of_spare (hrole : pf p 0 1 ≤ 23) (hrsv : pf p 1 7 = 0) (hcart : s.pkg.cartOk = true)
    (hswaps : ∀ w ∈ s.optics.swaps, w.role ≠ pf p 0 1) (hspare : (freeSpare s).isSome = true) (hpwr : s.pins.lcPwrEn = true) :
    bodyLcSwap s n c p = (startSwap s (pf p 0 1) false 0 0, .now .ok) := by
  have hpass : ∀ k ∈ [bad 0 (decide (pf p 0 1 > 23)), rsv p 1 8], k.2.1 = false := by simp [bad, rsv, hrole, hrsv]
  have hnone : s.optics.swaps.any (fun w => w.role == pf p 0 1) = false := by simpa using hswaps
  refine (checked_ok hpass).trans ?_
  obtain ⟨k, hk⟩ := Option.isSome_iff_exists.1 hspare
  simp [cartAbsent, hcart, hnone, hk, hpwr]

theorem bodyRecommission_of_cart {taps : List (Nat × BitVec 16)} (hf : pf p 0 1 ≤ 5) (hrsv : pf p 1 7 = 0)
    (hcart : s.pkg.cartOk = true) :
    bodyRecommission taps s n c p
      = (modOpt (((List.range 32).filter fun n => lcState (getLine s n) == 3 && lcFibre (getLine s n) == pf p 0 1).foldl (fun s n =>
          commission s n (match taps.find? fun t => t.1 == n with | some t => t.2 | none => BitVec.ofNat 16 (lcTap (getLine s n)))) s)
          fun o => { o with fibreFade := o.fibreFade.filter (· != pf p 0 1) }, .now .ok) := by
  have hpass : ∀ k ∈ [bad 0 (decide (pf p 0 1 > 5)), rsv p 1 8], k.2.1 = false := by simp [bad, rsv, hf, hrsv]
  exact (checked_ok hpass).trans (if_neg (by simp [cartAbsent, hcart]))

theorem bodyPowerRetry_of_not_held {fail : Nat} {faults : List (Nat × Nat)} (hpres : s.pins.lcPresN = false)
    (hfault : s.pins.lcFaultN = true) (hhold : s.optics.lcHold = false) : bodyPowerRetry fail faults s n c p = (s, .now .ok) := by
  simp only [bodyPowerRetry, hpres, hfault, hhold]
  rfl

theorem bodyPowerRetry_of_held {fail : Nat} {faults : List (Nat × Nat)} (hpres : s.pins.lcPresN = false)
    (hfault : s.pins.lcFaultN = true) (hhold : s.optics.lcHold = true) :
    bodyPowerRetry fail faults s n c p
      = (restoreCart s fail faults, .now (if fail = 0 then .ok else .fail stCartAbsent noField)) := by
  simp only [bodyPowerRetry, hpres, hfault, hhold, ne_eq, ite_not]
  rfl

end

/-- Settles O19. -/
theorem cartridgeCommands : Obligations.CartridgeCommands := by
  rintro s r p rfl
  refine ⟨fun hacc hrole hrsv hcart hswaps hspare hpwr => ?_, fun taps hacc hf hrsv hcart => ?_,
    fun hacc hpres hfault hhold fail faults => ?_, fun hacc hpres hfault hhold fail faults => ?_⟩
  · exact exec_answers (body := bodyLcSwap) rfl hacc (by decide)
      (bodyLcSwap_of_spare (s := posted s r) hrole hrsv hcart hswaps hspare hpwr)
  · exact exec_answers (body := bodyRecommission taps) rfl hacc (by decide)
      (bodyRecommission_of_cart (s := posted s r) hf hrsv hcart)
  · exact exec_answers (body := bodyPowerRetry fail faults) rfl hacc (by decide)
      (bodyPowerRetry_of_held (s := posted s r) hpres hfault hhold)
  · exact exec_answers (body := bodyPowerRetry fail faults) rfl hacc (by decide)
      (bodyPowerRetry_of_not_held (s := posted s r) hpres hfault hhold)

end Sys2Proof.Machine

/-! PROOF. The mailbox protocol: refusals (O20) and answers (O22). -/

namespace Sys2Proof.Machine

/-! ### Refusals -/

/-- The row of every mailbox command is one of Table 12.10. -/
theorem known_of_mailRow {i : Instr} {cmd : Cmd} {r : Req} (h : mailRow i = some (cmd, r)) : knownOps.contains cmd.op = true := by
  unfold mailRow at h
  split at h <;> cases h <;> decide

theorem mbxReached_of_served {s : State} {n : CtxId} (h : mbxServed s n = true) : mbxReached s n = true := by
  simp only [mbxServed, Bool.and_eq_true] at h
  exact h.1

/-- A whole post of a served function comes to the checks of its request. -/
theorem mailbox_of_posts {cmd : Cmd} {r : Req} {s : State} (body : Body) (h : Posts s r cmd.op)
    (hk : knownOps.contains cmd.op = true) : mailbox cmd body r s = execReq cmd body (posted s r) r.fn := by
  obtain ⟨hserved, hfree, hnew, hop⟩ := h
  have hheader : recAt 128 (getFn (posted s r) r.fn).req 0 = r.header := by simp [posted, begunReq, recAt_overlay]
  have hbusy : (getFn (posted s r) r.fn).busy = some .posted := by simp [posted, begunReq]
  have hdone : ¬ r.post
      = (getFn (modFn s r.fn fun f => { f with req := overlay f.req (leBytes 16 r.header.toNat ++ r.payload) }) r.fn).done := by
    rw [getFn_modFn_self]
    exact hnew
  have hserved' : mbxServed (posted s r) r.fn = true := hserved
  simp only [mailbox, mbxReached_of_served hserved, hfree, Bool.not_true, Bool.false_eq_true, if_false, if_neg hdone,
    begunReq_eq s r cmd.op hop hk, beginReq, hbusy, hserved', hheader, hop, and_self, if_true]

/-- The checks of steps 1 to 7 on the posted request are those of the request. -/
theorem checkReq_posted (s : State) (cmd : Cmd) (r : Req) : checkReq (posted s r) r.fn cmd r.header = refusal s cmd r := by
  have hpost : (getFn (posted s r) r.fn).post = r.post := by simp [posted, begunReq]
  have hserved : opServed (posted s r) cmd.op = opServed s cmd.op := rfl
  have hctx : getCtx (posted s r) (hdrCtx r.fn r.header) = getCtx s (reqCtx r) := rfl
  simp only [checkReq, refusal, hpost, hserved, hctx, Bool.not_eq_true']

theorem execReq_of_bad {cmd : Cmd} {body : Body} {s : State} {n : CtxId} {st : Status}
    (h : checkReq s n cmd (recAt 128 (getFn s n).req 0) = some st) :
    execReq cmd body s n = answer s n (.fail st noField) := by
  simp only [execReq, h]

/-- Settles O20: a refused request runs no body, whether it is posted whole or stands in the buffer. -/
theorem mailboxRefuses : Obligations.MailboxRefuses := by
  intro i cmd s r st hrow
  obtain ⟨body, hexec⟩ := exec_eq_mailbox hrow
  refine ⟨fun hposts href => ?_, fun hserved hbusy hop hbad => ?_⟩
  · have hheader : recAt 128 (getFn (posted s r) r.fn).req 0 = r.header := by simp [posted, begunReq, recAt_overlay]
    rw [hexec, mailbox_of_posts body hposts (known_of_mailRow hrow), execReq_of_bad (st := st)]
    · exact congrArg Host.Outcome.next (answer_begunReq s r _)
    · rw [hheader, checkReq_posted, href]
  · rw [hexec, mailbox, mbxReached_of_served hserved, hbusy]
    simp only [Bool.not_true, Bool.false_eq_true, if_false, beginReq, hbusy, hserved, hop, and_self, if_true, execReq_of_bad hbad]

/-! ### Answers -/

theorem getFn_msixSignal_ne (s : State) {n m : CtxId} (v : Nat) (h : m ≠ n) : getFn (msixSignal s n v) m = getFn s m := by
  unfold msixSignal
  dsimp only
  split
  · exact getFn_setFn_ne _ _ _ _ h
  · rfl

/-- A signal changes nothing of its function but a pending bit. -/
theorem quiet_msixSignal (s : State) (n m : CtxId) (v : Nat) : (getFn (msixSignal s n v) m).quiet = (getFn s m).quiet :=
  (rec_msixSignal s n v).fns m

theorem msixSignal_rest (s : State) (n : CtxId) (v : Nat) : { msixSignal s n v with fns := s.fns, msix := s.msix } = s := by
  unfold msixSignal
  dsimp only
  split <;> rfl

/-- A header reads back from the first bytes of a response. -/
theorem recAt_leBytes_append (v : Nat) (bs : List Byte) : recAt 128 (leBytes 16 v ++ bs) 0 = BitVec.ofNat 128 v := by
  have ht : ((leBytes 16 v ++ bs).drop 0).take 16 = leBytes 16 v := by
    rw [List.drop_zero, List.take_append_of_le_length (leBytes_length 16 v).ge, List.take_of_length_le (leBytes_length 16 v).le]
  apply BitVec.eq_of_toNat_eq
  simp only [recAt, ht, leNat_leBytes]
  simp

theorem fld_lt {w : Nat} (x : BitVec w) (hi lo : Nat) : fld x hi lo < 2 ^ (hi + 1 - lo) := Nat.mod_lt _ (Nat.two_pow_pos _)

/-- A field of a record that was written as a number. -/
theorem fld_ofNat {w v : Nat} (hv : v < 2 ^ w) (hi lo : Nat) : fld (BitVec.ofNat w v) hi lo = v / 2 ^ lo % 2 ^ (hi + 1 - lo) := by
  rw [fld, BitVec.toNat_ofNat, Nat.mod_eq_of_lt hv, Nat.shiftRight_eq_div_pow]

/-- The fields of a response header, read back (Table 12.9). -/
theorem respHeader_fields {detail len seq st op v : Nat} (hd : detail < 2 ^ 32) (hl : len < 2 ^ 32) (hq : seq < 2 ^ 32)
    (hs : st < 2 ^ 16) (ho : op < 2 ^ 16) (hv : v = detail * 2 ^ 96 + len * 2 ^ 64 + seq * 2 ^ 32 + st * 2 ^ 16 + op) :
    fld (BitVec.ofNat 128 v) 15 0 = op ∧ fld (BitVec.ofNat 128 v) 31 16 = st ∧ fld (BitVec.ofNat 128 v) 63 32 = seq
      ∧ fld (BitVec.ofNat 128 v) 95 64 = len ∧ fld (BitVec.ofNat 128 v) 127 96 = detail := by
  have hlt : v < 2 ^ 128 := by omega
  refine ⟨?_, ?_, ?_, ?_, ?_⟩ <;> rw [fld_ofNat hlt] <;> omega

/-- The record of the answered function, but for its signal. -/
theorem getFn_replied_quiet (s : State) (r : Req) (st : Status) (detail : Nat) (pay : List Byte) :
    (getFn (replied s r st detail pay) r.fn).quiet = { getFn s r.fn with
      req := overlay (getFn s r.fn).req (leBytes 16 r.header.toNat ++ r.payload)
      post := r.post
      resp := leBytes 16 (detail * 2 ^ 96 + pay.length * 2 ^ 64 + hdrSeq r.header * 2 ^ 32 + st.toNat * 2 ^ 16 + hdrOp r.header) ++ pay
      done := r.post
      busy := none : Func }.quiet := by
  rw [replied, quiet_msixSignal, getFn_setFn_self]

/-- Settles O22: the answer is `replied`, whose record differs from the function's own in the mailbox and the signal. -/
theorem answersComplete : Obligations.AnswersComplete := by
  intro s r a
  have hans : answer (posted s r) r.fn a = replied s r a.st a.detail a.pay := answer_begunReq s r a
  have hquiet := getFn_replied_quiet s r a.st a.detail a.pay
  rw [hans]
  refine ⟨rfl, congrArg Func.done hquiet, congrArg Func.post hquiet, congrArg Func.busy hquiet, fun n hn => ?_, ?_, fun hlen hdetail => ?_⟩
  · rw [replied, getFn_msixSignal_ne _ _ hn, getFn_setFn_ne _ _ _ _ hn]
  · rw [replied]
    exact congrArg (fun t : State => { t with fns := s.fns, msix := s.msix }) (msixSignal_rest (setFn s r.fn _) r.fn 0)
  · have hresp := congrArg Func.resp hquiet
    intro h
    have hh : h = BitVec.ofNat 128 (a.detail * 2 ^ 96 + a.pay.length * 2 ^ 64 + hdrSeq r.header * 2 ^ 32 + a.st.toNat * 2 ^ 16
        + hdrOp r.header) := (congrArg (fun bs => recAt 128 bs 0) hresp).trans (recAt_leBytes_append _ _)
    rw [hh]
    exact respHeader_fields hdetail hlen (fld_lt ..) a.st.isLt (fld_lt ..) rfl

end Sys2Proof.Machine

/-! PROOF. BAR0 register writes (O23). -/

namespace Sys2Proof.Machine

section
variable {s : State} {n : CtxId}

theorem exec_registerWrite_refused {off : Nat} {data : List Byte} (hn : hostReaches s n = true) (hok : bar0Ok off data.length = false) :
    exec (.registerWrite n off data) s = .next (hostError s n off 0 true data.length 0 0) := by
  simp only [hostReaches, Bool.and_eq_true, decide_eq_true_eq] at hn
  obtain ⟨⟨hlink, hperst⟩, hvf⟩ := hn
  have hreach : ¬ (!s.pkg.linkUp || !s.pins.perstN || decide (n.val > s.pkg.numVfs.val)) = true := by
    simpa [hlink, hperst] using hvf
  change Host.Outcome.next (registerWrite s n off data) = _
  rw [registerWrite, if_neg hreach, hok]
  rfl

theorem exec_evtHeadWrite (hn : hostReaches s n = true) (v : BitVec 32) :
    exec (.evtHeadWrite n v) s = .next (evtHeadWrite s n v) := by
  change Host.Outcome.next (if hostReaches s n then evtHeadWrite s n v else s) = _
  rw [if_pos hn]

theorem evtHeadWrite_of_ge {v : BitVec 32} (h : (getFn s n).nent.toNat ≤ v.toNat) : evtHeadWrite s n v = s := if_pos h

theorem evtHeadWrite_of_lt {v : BitVec 32} (h : v.toNat < (getFn s n).nent.toNat) :
    evtHeadWrite s n v = setFn s n { getFn s n with evtHead := v } := if_neg (Nat.not_le.2 h)

/-- A new value of MBX_POST posts the request that stands in the buffer. -/
theorem mbxPost_of_new {v : BitVec 32} (hr : mbxReached s n = true) (hfree : (getFn s n).busy = none) (hv : v ≠ (getFn s n).done) :
    mbxPost s n v = answerUnknown (setFn s n { getFn s n with post := v, busy := some .posted }) n := by
  simp only [mbxPost, hr, hfree, Option.isSome_none, Bool.not_true, Bool.or_self, beq_eq_false_iff_ne.2 hv,
    Bool.false_eq_true, if_false, postSeq, modFn_eq]

theorem answerUnknown_of_known (h : knownOps.contains (hdrOp (recAt 128 (getFn s n).req 0)) = true) : answerUnknown s n = s :=
  if_pos (.inr (.inl h))

/-- An opcode that Table 12.10 lacks is answered so, once the sequence number and the reserved bits pass. -/
theorem answerUnknown_of_unknown {v : BitVec 32} {h : BitVec 128} (hserved : mbxServed s n = true) (hbusy : (getFn s n).busy = some .posted)
    (hh : h = recAt 128 (getFn s n).req 0) (hpost : (getFn s n).post = v) (hop : knownOps.contains (hdrOp h) = false)
    (hseq : hdrSeq h = v.toNat) (hrsv : hdrReserved h = false) : answerUnknown s n = answer s n (.fail stUnknownOp noField) := by
  subst hh
  simp only [answerUnknown, hbusy, hserved, hop, hpost, hseq, hrsv, ne_eq, not_true_eq_false, Bool.not_true, Bool.false_eq_true,
    or_self, if_false]

/-- Four bytes written at the place of EVT_HEAD are a write of EVT_HEAD. -/
theorem bar0Write_evtHead (v : BitVec 32) : bar0Write s n 0x102008 (leBytes 4 v.toNat) = evtHeadWrite s n v := by
  have hv : recAt 32 (leBytes 4 v.toNat) 0 = v := recAt_leBytes (k := 4) v
  have ht : (leBytes 4 v.toNat).take 4 = leBytes 4 v.toNat := List.take_of_length_le (leBytes_length 4 _).le
  simp [bar0Write, leBytes_length, List.range_one, mbxRegWrite, ht, hv]

/-- Bit 0 of a word is bit 0 of its first byte. -/
theorem bit_zero_firstByte (v : BitVec 32) : bit (recAt 8 (leBytes 4 v.toNat) 0) 0 = bit v 0 := by
  simp [recAt, leBytes, leNat, bit]

/-- A 1 written to GSTAT clears HOST_ERR. -/
theorem bar0Write_gstat {v : BitVec 32} (h : bit v 0 = true) :
    bar0Write s n 0x1004 (leBytes 4 v.toNat) = setFn s n { getFn s n with hostErr := false } := by
  simp [bar0Write, leBytes_length, bit_zero_firstByte, h]

/-- Bytes written at the start of the request buffer of a function with no command outstanding. -/
theorem bar0Write_req {bs : List Byte} (hbs : bs.length = 64) (hfree : (getFn s n).busy = none) (hreq : (getFn s n).req.length ≤ 4096) :
    bar0Write s n 0x100000 bs = setFn s n { getFn s n with
      req := bs ++ ((getFn s n).req ++ List.replicate (4096 - (getFn s n).req.length) 0).drop 64 } := by
  have hlen : (bs ++ ((getFn s n).req ++ List.replicate (4096 - (getFn s n).req.length) 0).drop 64).length = 4096 := by
    simp only [List.length_append, List.length_drop, List.length_replicate, hbs]
    omega
  have hgstat : ¬ ((0x1000 : Nat) ≤ 0x100000 ∧ 0x100000 < 0x1008) := by omega
  have hmsix : ¬ ((0x2000 : Nat) ≤ 0x100000 ∧ 0x100000 < 0x2400) := by omega
  have hreqBuf : (0x100000 : Nat) ≤ 0x100000 ∧ 0x100000 < 0x101000 := by omega
  rw [bar0Write, if_neg hgstat, if_neg hmsix, if_pos hreqBuf, if_neg (by simp [hfree])]
  refine congrArg (fun l => setFn s n { getFn s n with req := l }) ?_
  rw [Nat.sub_self, List.take_zero, List.nil_append, Nat.zero_add, hbs, List.take_of_length_le hlen.le]

end

/-- Settles O23. -/
theorem registerWrites : Obligations.RegisterWrites := by
  intro s n hn
  have h4 (v : BitVec 32) : (leBytes 4 v.toNat).length = 4 := leBytes_length 4 _
  refine ⟨fun off data hok => exec_registerWrite_refused hn hok, fun v hr hfree hv hknown => ?_,
    fun v h hserved hfree hv hh hop hseq hrsv => ?_, fun v hv => ?_, fun v hv => ⟨?_, ?_⟩, fun v hv => ?_, fun bs hbs hfree hreq => ?_⟩
  · rw [exec_registerWrite hn (by rw [h4]; decide), bar0Write_post, mbxPost_of_new hr hfree hv, answerUnknown_of_known]
    rwa [getFn_setFn_self]
  · rw [exec_registerWrite hn (by rw [h4]; decide), bar0Write_post, mbxPost_of_new (mbxReached_of_served hserved) hfree hv,
      answerUnknown_of_unknown (s := setFn s n _) (v := v) (h := h) hserved (by rw [getFn_setFn_self]) (by rw [getFn_setFn_self, hh])
        (by rw [getFn_setFn_self]) hop hseq hrsv]
  · rw [exec_evtHeadWrite hn, evtHeadWrite_of_ge hv]
  · rw [exec_registerWrite hn (by rw [h4]; decide), bar0Write_evtHead, evtHeadWrite_of_lt hv]
  · rw [exec_evtHeadWrite hn, evtHeadWrite_of_lt hv]
  · rw [exec_registerWrite hn (by rw [h4]; decide), bar0Write_gstat hv]
  · rw [exec_registerWrite hn (by rw [hbs]; decide), bar0Write_req hbs hfree hreq]

end Sys2Proof.Machine

/-! PROOF. BAR2 accesses (O24, O25). -/

namespace Sys2Proof.Machine

/-- Settles O24: the three outcomes of a read, as `bar2Parts` and `readParts` come out. -/
theorem bar2Reads : Obligations.Bar2Reads := by
  intro s n off len hn
  have hreach : ¬ (!hostReaches s n) = true := by simp [hn]
  have hexec : exec (.bar2Read n off len) s = .next (bar2Read s n off len) := rfl
  refine ⟨fun ps u bs hparts hread => ?_, fun k hparts => ?_, fun ps u e hparts hread => ?_⟩
  · rw [hexec, bar2Read, if_neg hreach, hparts]
    simp only [hread]
  · rw [hexec, bar2Read, if_neg hreach, hparts]
  · rw [hexec, bar2Read, if_neg hreach, hparts]
    simp only [hread]

/-! ### Ranges and lines -/

/-- A range that no 4 KiB boundary cuts is one part. -/
theorem parts_of_within {va k : Nat} (hk : 0 < k) (h : va % 4096 + k ≤ 4096) : parts va k = [(va, k)] := by
  have hlen : chunkLen va k = k := by
    unfold chunkLen
    omega
  have hrest (fuel b : Nat) : chunks (fuel + 1) b 0 = [] := rfl
  rw [parts, chunks, if_neg (by omega), hlen, Nat.sub_self, hrest]

/-- Bytes that no line boundary cuts are one piece. -/
theorem linePieces_of_within (fuel : Nat) {a : Nat} {bs : List Byte} (h0 : bs ≠ []) (h : a % 64 + bs.length ≤ 64) :
    linePieces (fuel + 2) a bs = [(a, bs)] := by
  have htake : bs.take (64 - a % 64) = bs := List.take_of_length_le (by omega)
  have hdrop : bs.drop (64 - a % 64) = [] := List.drop_of_length_le (by omega)
  have hrest (b : Nat) : linePieces (fuel + 1) b [] = [] := rfl
  rw [linePieces, if_neg (by simpa using h0)]
  dsimp only
  rw [htake, hdrop, hrest]

section
variable {s : State} {n : CtxId} {off a : Nat} {bs : List Byte}

/-- A write of bytes of one line that the window takes is one piece at the address that its address reaches. -/
theorem exec_bar2Write_of_part (hn : hostReaches s n = true) (hmode : (getFn s n).bar2Mode ≠ 0) (hbs : 0 < bs.length)
    (hva : ((getFn s n).bar2Base.toNat + off) % 4096 + bs.length ≤ 4096)
    (hpart : bar2Part s n true ((getFn s n).bar2Base.toNat + off) bs.length = .ok a) (ha : a % 64 + bs.length ≤ 64) :
    exec (.bar2Write n off bs) s = .next (hostPiece n off s (a, bs)) := by
  have hparts : bar2Parts s n true off bs.length = .ok [(a, bs.length)] := by
    simp only [bar2Parts, if_neg hmode, parts_of_within hbs hva, List.foldr_cons, List.foldr_nil, hpart]
  have hexec : exec (.bar2Write n off bs) s = .next (bar2Write s n off bs) := rfl
  rw [hexec, bar2Write, if_neg (by simp [hn]), hparts]
  simp only [dealBytes, List.take_length, List.flatMap_cons, List.flatMap_nil, List.append_nil,
    linePieces_of_within (bs.length / 64) (List.length_pos_iff.1 hbs) ha, List.foldl_cons, List.foldl_nil]

section
variable (hready : s.pkg.computeReset = false) (hstate : s.pkg.state = 1)
include hready hstate

/-- The PF's physical window takes an address of HBM below Halyard's. -/
theorem bar2Part_physical {len : Nat} (hmode : (getFn s n).bar2Mode = 2) (hlow : a < halyardBase) (hok : physOk a len = true) :
    bar2Part s n true a len = .ok a := by
  have hhal : ¬ (halyardBase ≤ a ∧ a < hbmEnd) := by omega
  simp [bar2Part, hready, hstate, hmode, hhal, hok]

/-- A virtual window takes an address that a writable local page maps. -/
theorem bar2Part_virtual {va len : Nat} {l : Xlat} (hmode : (getFn s n).bar2Mode = 1) (hctx : (getCtx s n).run ≠ .none)
    (hx : xlate s (getCtx s n) (getCtx s n).ret.act va = some l) (hlocal : isLocal s l.addr = true) (hwr : l.wr = true)
    (hok : physOk (localPart l.addr) len = true) : bar2Part s n true va len = .ok (localPart l.addr) := by
  simp [bar2Part, hready, hstate, hmode, hctx, hx, hlocal, hwr, hok]

end

/-- A whole line is written as it is. -/
theorem hostPiece_line (ha : a % 64 = 0) (hbs : bs.length = 64) : hostPiece n off s (a, bs) = memWrite s a bs := by
  simp [hostPiece, ha, hbs]

section
variable (hhbm : isHbm a = true) (hpart : a % 64 + bs.length < 64)
include hhbm hpart

/-- Part of an HBM line is merged with the line as read. -/
theorem hostPiece_merge {u : State} {old : List Byte} (hread : memRead s ⟨2, none⟩ (a - a % 64) 64 = (u, .ok old)) :
    hostPiece n off s (a, bs) = memWrite u (a - a % 64) (old.take (a % 64) ++ bs ++ old.drop (a % 64 + bs.length)) := by
  have hwhole : ¬ (a % 64 = 0 ∧ bs.length = 64) := by omega
  have hoff : a - (a - a % 64) = a % 64 := by omega
  simp only [hostPiece, hhbm, Bool.not_true, Bool.false_eq_true, if_false, if_neg hwhole, hread, hoff]

theorem hostPiece_mergeFailed {u : State} {e : MemBad} (hread : memRead s ⟨2, none⟩ (a - a % 64) 64 = (u, .error e)) :
    hostPiece n off s (a, bs) = raise u { code := evMergeFailed, kind := 8, subj := n.val, v0 := a - a % 64, v1 := off,
                                          status := stMemUe.toNat, fn := some n } := by
  have hwhole : ¬ (a % 64 = 0 ∧ bs.length = 64) := by omega
  simp only [hostPiece, hhbm, Bool.not_true, Bool.false_eq_true, if_false, if_neg hwhole, hread]

end
end

/-- A host error writes no memory. -/
theorem mem_hostError (s : State) (n : CtxId) (off bar : Nat) (write : Bool) (bytes : Nat) (st : Status) (cause : Nat) :
    (hostError s n off bar write bytes st cause).mem = s.mem := (rec_raise (modFn s n fun f => { f with hostErr := true }) _).mem

/-- Settles O25: each write is one piece of a line. -/
theorem bar2Writes : Obligations.Bar2Writes := by
  intro s off bs hreach
  refine ⟨?_, ?_, ?_, ?_⟩
  · rintro a rfl hmode hready hstate ha hbs hhbm hlow hok
    refine ⟨?_, fun k hk => ?_, fun x hx => ?_⟩
    · rw [exec_bar2Write_of_part hreach (by omega) (by omega) (by omega)
        (bar2Part_physical hready hstate hmode hlow (by rwa [hbs])) (by omega), hostPiece_line ha hbs]
    · exact byteAt_memWrite_in s _ bs k (by omega)
    · exact byteAt_memWrite_out s _ bs x (by omega)
  · rintro a u rfl hmode hready hstate hpos hpart hhbm hlow hok
    have hexec := exec_bar2Write_of_part hreach (by omega) hpos (by omega)
      (bar2Part_physical hready hstate hmode hlow hok) (by omega)
    refine ⟨fun old hread => ?_, fun e hread => ?_⟩
    · rw [hexec, hostPiece_merge hhbm hpart hread]
    · exact hexec.trans (congrArg Host.Outcome.next (hostPiece_mergeFailed hhbm hpart hread))
  · rintro n l a hn hmode hready hstate hctx hva hbs hx hlocal hwr rfl ha hok
    refine ⟨?_, fun x hx => byteAt_memWrite_out s _ bs x (by omega)⟩
    rw [exec_bar2Write_of_part hn (by omega) (by omega) (by omega)
      (bar2Part_virtual hready hstate hmode hctx hx hlocal hwr (by rwa [hbs])) (by omega), hostPiece_line ha hbs]
  · intro n k hn hparts
    refine ⟨?_, mem_hostError ..⟩
    have hexec : exec (.bar2Write n off bs) s = .next (bar2Write s n off bs) := rfl
    rw [hexec, bar2Write, if_neg (by simp [hn]), hparts]

end Sys2Proof.Machine

/-! PROOF. The SMBus target (O26) and the JTAG port (O27). -/

namespace Sys2Proof.Machine

section
variable {s : State} {k : Nat} {d : List Byte}

/-- A block write of its register's length with a right PEC is acknowledged and acts. -/
theorem smbWrite_of_ok (f : State → State) (hm : s.pins.pwrgdMast = true) (hd : d.length = k) :
    smbWrite s k d true f = { f s with cpl := some .ack } := by
  simp [smbWrite, hm, hd]

/-- With a wrong PEC it is discarded. -/
theorem smbWrite_of_pec (f : State → State) (hm : s.pins.pwrgdMast = true) (hd : d.length = k) : smbWrite s k d false f = s := by
  simp [smbWrite, hm, hd]

/-- Of another length, or without Mast power, it is not acknowledged. -/
theorem smbWrite_of_nack (f : State → State) {pec : Bool} (h : s.pins.pwrgdMast = false ∨ d.length ≠ k) :
    smbWrite s k d pec f = { s with cpl := some .nack } := by
  rw [smbWrite, if_pos]
  simpa using h

/-- While Halyard serves, a register command acts and leaves its status. -/
theorem smbServed_of_up {f : State → State × Ans} {u : State} {a : Ans} (hup : s.pkg.halyardUp = true) (hst : s.pkg.state ≠ 3)
    (hf : f s = (u, a)) : smbServed s f = modHal u fun h => { h with smb := a.st } := by
  simp only [smbServed, hup, hf, Bool.not_true, Bool.false_or, beq_eq_false_iff_ne.2 hst, Bool.false_eq_true, if_false]

theorem smbServed_of_down {f : State → State × Ans} (h : s.pkg.halyardUp = false ∨ s.pkg.state = 3) :
    smbServed s f = modHal s fun h => { h with smb := stOutOfService } := by
  rw [smbServed, if_pos]
  simpa using h

theorem smbBmcCap_of_range {v : BitVec 32} (hlo : 500 ≤ fld v 31 20) (hhi : fld v 31 20 ≤ 1400) :
    smbBmcCap s v = modReef s fun r => { r with
      bmcCap := BitVec.ofNat 32 (fld v 31 20 * 2 ^ 20 + b2n (bit r.bmcCap 1 && !bit v 1) * 2 + b2n (bit v 0)) } := if_pos ⟨hlo, hhi⟩

theorem smbBmcCap_of_other {v : BitVec 32} (h : fld v 31 20 < 500 ∨ 1400 < fld v 31 20) :
    smbBmcCap s v = modHal (modReef s fun r => { r with bmcCap := setFld r.bmcCap 1 1 1 }) fun h => { h with alert := h.alert ||| 8 } :=
  if_neg (by omega)

theorem smbAlertResponse_of_alert (hm : s.pins.pwrgdMast = true) (ha : s.hal.alert ≠ 0) :
    smbAlertResponse s = { s with cpl := some (.data [BitVec.ofNat 8 (0x58 + s.pins.plane.val)]) } := by
  rw [smbAlertResponse, hm, bne_iff_ne.2 ha]
  rfl

theorem smbAlertResponse_of_none (h : s.pins.pwrgdMast = false ∨ s.hal.alert = 0) :
    smbAlertResponse s = { s with cpl := some .nack } := by
  rcases h with h | h <;> simp [smbAlertResponse, h]

end

/-- Settles O26: each write is `smbWrite` around what its register does. -/
theorem smbusWrites : Obligations.SmbusWrites := by
  intro s d
  have cap (pec : Bool) : exec (.smbBmcCapWrite d pec) s = .next (smbWrite s 4 d pec fun s => smbBmcCap s (recAt 32 d 0)) := rfl
  have pol (pec : Bool) : exec (.smbReefPolWrite d pec) s
      = .next (smbWrite s 16 d pec fun s => smbServed s fun s => reefWrite s (recAt 128 d 0)) := rfl
  have swap (pec : Bool) : exec (.smbReefSwap d pec) s = .next (smbWrite s 1 d pec fun s => smbServed s reefSwap) := rfl
  have src (pec : Bool) : exec (.smbAlertSrcWrite d pec) s = .next (smbWrite s 4 d pec fun s => smbAlertSrc s (recAt 32 d 0)) := rfl
  have response : exec .smbAlertResponse s = .next (smbAlertResponse s) := rfl
  refine ⟨?_, ?_, fun hm hd => ⟨fun hup hst hp => ?_, fun hup hst hp => ?_, fun hdown => ?_⟩,
    fun hm hd => ⟨fun hup hst hp hk => ?_, fun k hup hst hp hk => ?_, fun hup hst hp => ?_, fun hdown => ?_⟩,
    fun hm hd => ?_, fun hm ha => ?_, fun h => ?_, fun pec h => ⟨?_, ?_⟩, fun pec h => ?_, fun pec h => ?_,
    fun hm => ⟨fun hd => ⟨?_, ?_⟩, fun hd => ?_, fun hd => ?_⟩⟩
  · rintro w err en hm hd hlo hhi rfl rfl rfl
    rw [cap, smbWrite_of_ok _ hm hd, smbBmcCap_of_range hlo hhi, modReef]
  · rintro w hm hd hw rfl
    rw [cap, smbWrite_of_ok _ hm hd, smbBmcCap_of_other hw]
    rfl
  · rw [pol, smbWrite_of_ok _ hm hd, smbServed_of_up hup hst (reefWrite_of_free _ hp)]
    rfl
  · rw [pol, smbWrite_of_ok _ hm hd, smbServed_of_up hup hst (reefWrite_of_pending _ hp)]
    rfl
  · rw [pol, smbWrite_of_ok _ hm hd, smbServed_of_down hdown]
    rfl
  · rw [swap, smbWrite_of_ok _ hm hd, smbServed_of_up hup hst (reefSwap_of_ok hp hk)]
    rfl
  · rw [swap, smbWrite_of_ok _ hm hd, smbServed_of_up hup hst (reefSwap_of_bad hp hk)]
    rfl
  · rw [swap, smbWrite_of_ok _ hm hd, smbServed_of_up hup hst (reefSwap_of_pending hp)]
    rfl
  · rw [swap, smbWrite_of_ok _ hm hd, smbServed_of_down hdown]
    rfl
  · rw [src, smbWrite_of_ok _ hm hd]
    rfl
  · rw [response, smbAlertResponse_of_alert hm ha]
  · rw [response, smbAlertResponse_of_none h]
  · rw [cap, smbWrite_of_nack _ h]
  · rw [src, smbWrite_of_nack _ h]
  · rw [pol, smbWrite_of_nack _ h]
  · rw [swap, smbWrite_of_nack _ h]
  · rw [cap, smbWrite_of_pec _ hm hd]
  · rw [src, smbWrite_of_pec _ hm hd]
  · rw [pol, smbWrite_of_pec _ hm hd]
  · rw [swap, smbWrite_of_pec _ hm hd]

/-! ### JTAG -/

theorem jtag_of_mast {s : State} (h : s.pins.pwrgdMast = true) (ins : Nat) (out : List Bool) :
    jtag s ins out = { s with boot := { s.boot with jtag := ins }, cpl := some (.jtag out) } := if_pos h

theorem jtag_of_no_mast {s : State} (h : s.pins.pwrgdMast = false) (ins : Nat) (out : List Bool) : jtag s ins out = s := by
  rw [jtag, h]
  rfl

/-- While PERST_N is asserted the two scan instructions take the lands. -/
theorem scan_of_perst {s : State} (hm : s.pins.pwrgdMast = true) (hp : s.pins.perstN = false) (ins : Nat) (lands : List Bool) :
    scan s ins lands = { s with boot := { s.boot with jtag := ins, lands := lands }, cpl := some (.jtag lands) } := by
  simp only [scan, hp, hm, Bool.false_eq_true, if_false, if_true]
  exact jtag_of_mast (s := modBoot s _) hm ins lands

/-- Otherwise they act as BYPASS. -/
theorem scan_of_no_perst {s : State} (hp : s.pins.perstN = true) (ins : Nat) (lands : List Bool) :
    scan s ins lands = jtag s 1 (bypassOut lands) := if_pos hp

theorem scan_of_no_mast {s : State} (hm : s.pins.pwrgdMast = false) (ins : Nat) (lands : List Bool) : scan s ins lands = s := by
  unfold scan
  split
  · exact jtag_of_no_mast hm ..
  · rw [hm]
    rfl

/-- Settles O27. -/
theorem jtagInstructions : Obligations.JtagInstructions := by
  intro s xs
  have idcode : exec .idcode s = .next (jtag s 0 (bitsLsb 32 idcodeVal)) := rfl
  have bypass : exec (.bypass xs) s = .next (jtag s 1 (bypassOut xs)) := rfl
  have sample : exec (.samplePreload xs) s = .next (scan s 2 xs) := rfl
  have extest : exec (.extest xs) s = .next (scan s 3 xs) := rfl
  refine ⟨fun hm => ⟨?_, ?_, fun hp => ⟨?_, ?_⟩, fun hp i hi => ?_⟩, fun hm i hi => ?_⟩
  · rw [idcode, jtag_of_mast hm]
    rfl
  · rw [bypass, jtag_of_mast hm]
    rfl
  · rw [sample, scan_of_perst hm hp]
  · rw [extest, scan_of_perst hm hp]
  · simp only [List.mem_cons, List.not_mem_nil, or_false] at hi
    rcases hi with rfl | rfl
    · rw [sample, scan_of_no_perst hp, jtag_of_mast hm]
      rfl
    · rw [extest, scan_of_no_perst hp, jtag_of_mast hm]
      rfl
  · simp only [List.mem_cons, List.not_mem_nil, or_false] at hi
    rcases hi with rfl | rfl | rfl | rfl
    · rw [idcode, jtag_of_no_mast hm]
    · rw [bypass, jtag_of_no_mast hm]
    · rw [sample, scan_of_no_mast hm]
    · rw [extest, scan_of_no_mast hm]

end Sys2Proof.Machine

/-! PROOF. The SPDM responder: what it answers a request that it takes, one before its turn, and each request by name. -/

namespace Sys2Proof.Machine

section Spdm

/-- The responder runs: Halyard serves and the PCIe link is up. -/
def spdmServes (s : State) : Prop :=
  s.pkg.linkUp = true ∧ s.pins.perstN = true ∧ s.pkg.halyardUp = true ∧ restarting s = false

theorem spdmReq_of_turn {s : State} {need : Nat} {f : State → State} (hs : spdmServes s) (h : need ≤ s.boot.spdm) :
    spdmReq s need f = f s := by
  obtain ⟨hl, hp, hh, hr⟩ := hs
  simp [spdmReq, hl, hp, hh, hr, Nat.not_lt.2 h]

theorem spdmReq_of_early {s : State} {need : Nat} {f : State → State} (hs : spdmServes s) (h : s.boot.spdm < need) :
    spdmReq s need f = { s with cpl := some (.spdm [0x12, 0x7F, 4, 0]) } := by
  obtain ⟨hl, hp, hh, hr⟩ := hs
  simp only [spdmReq, hl, hp, hh, hr, if_pos h, Bool.not_true, Bool.or_self, Bool.false_eq_true, if_false]
  rfl

theorem spdmErr_one (s : State) : spdmErr s 1 = { s with cpl := some (.spdm [0x12, 0x7F, 1, 0]) } := rfl

/-- A signed answer over a fresh nonce takes two free values: the nonce and the signature. -/
theorem spdmSigned_nonce (s : State) (nonce : BitVec 256) (bs : List Byte) :
    spdmSigned (spdmNonce s).2 nonce bs = { s with
      freeCtr := s.freeCtr + 2
      cpl := some (.spdm (bs ++ leBytes 64 (Config.deviceSign (s.freeCtr + 1) (shaRec (leBytes 32 nonce.toNat ++ bs))).toNat)) } := rfl

theorem getCertificate_of_slot {s : State} (hs : spdmServes s) (h3 : 3 ≤ s.boot.spdm) {k : Nat} (hk : k ≠ 0) (off len : Nat) :
    getCertificate s k off len = { s with cpl := some (.spdm [0x12, 0x7F, 1, 0]) } := by
  rw [getCertificate, spdmReq_of_turn hs h3, if_pos (Or.inl hk), spdmErr_one]

theorem challenge_of_slot {s : State} (hs : spdmServes s) (h3 : 3 ≤ s.boot.spdm) {k : Nat} (hk : k ≠ 0) (nonce : BitVec 256) :
    challenge s k nonce = { s with cpl := some (.spdm [0x12, 0x7F, 1, 0]) } := by
  rw [challenge, spdmReq_of_turn hs h3, if_pos hk, spdmErr_one]

theorem getMeasurements_of_index {s : State} (hs : spdmServes s) (h3 : 3 ≤ s.boot.spdm) {i : Nat} (h : 11 < i) (h' : i ≠ 255)
    (nonce : BitVec 256) : getMeasurements s i nonce = { s with cpl := some (.spdm [0x12, 0x7F, 1, 0]) } := by
  rw [getMeasurements, spdmReq_of_turn hs h3]
  simp only [if_neg (show i ≠ 0 by omega), if_neg h', if_neg (Nat.not_le.2 h), spdmErr_one]

/-- Settles O28. -/
theorem spdmResponder : Obligations.SpdmResponder := by
  intro s hl hp
  refine ⟨fun i => ?_, fun hh hr => ?_⟩
  · change Host.Outcome.next (doeDiscovery s i.toNat) = _
    have h0 : (i.toNat = 0) = (i = 0#8) := by
      rw [← BitVec.toNat_inj]
      rfl
    by_cases h : i = 0#8
    · simp [doeDiscovery, hl, hp, spdmOut, h]
    · simp [doeDiscovery, hl, hp, spdmOut, h0, h]
  have hs : spdmServes s := ⟨hl, hp, hh, hr⟩
  have early {need : Nat} (f : State → State) (h : s.boot.spdm < need) {t : State}
      (ht : t = { s with cpl := some (.spdm [0x12, 0x7F, 4, 0]) }) : Host.Outcome.next (spdmReq s need f) = (.next t : Res_) := by
    rw [spdmReq_of_early hs h, ht]
  refine ⟨?_, fun h => ?_, fun h => ?_, fun a b h hab => ?_, fun h => ⟨?_, fun off len => ?_, fun i nonce hi => ?_, ?_, fun nonce => ?_⟩, ?_⟩
  · exact congrArg Host.Outcome.next (spdmReq_of_turn hs (Nat.zero_le _))
  · exact congrArg Host.Outcome.next (spdmReq_of_turn hs h)
  · exact congrArg Host.Outcome.next (spdmReq_of_turn hs h)
  · change Host.Outcome.next (negotiate s a b) = _
    rw [negotiate, spdmReq_of_turn hs h, if_neg (by simp [hab]), spdmErr_one]
  · exact congrArg Host.Outcome.next (spdmReq_of_turn hs h)
  · change Host.Outcome.next (getCertificate s 0 off len) = _
    rw [getCertificate, spdmReq_of_turn hs h]
    by_cases ho : spdmChain.length ≤ off
    · rw [if_pos (Or.inr ho), spdmErr_one, if_pos ho]
    · rw [if_neg (by simpa using ho), if_neg ho]
      rfl
  · change Host.Outcome.next (getMeasurements s i nonce) = _
    rw [getMeasurements, spdmReq_of_turn hs h]
    by_cases h0 : i = 0
    · simp only [if_pos h0]
      exact congrArg _ (spdmSigned_nonce s nonce _)
    · by_cases h255 : i = 255
      · simp only [if_neg h0, if_pos h255]
        exact congrArg _ (spdmSigned_nonce s nonce _)
      · simp only [if_neg h0, if_neg h255, if_pos (show i ≤ 11 by omega)]
        exact congrArg _ (spdmSigned_nonce s nonce _)
  · rintro i k off len nonce hi hi' hk t rfl
    exact ⟨congrArg _ (getMeasurements_of_index hs h hi hi' nonce), congrArg _ (getCertificate_of_slot hs h hk off len),
      congrArg _ (challenge_of_slot hs h hk nonce)⟩
  · change Host.Outcome.next (challenge s 0 nonce) = _
    rw [challenge, spdmReq_of_turn hs h, if_neg (by simp)]
    exact congrArg _ (spdmSigned_nonce s nonce _)
  · intro k off len i nonce a b t ht
    exact ⟨fun h => early _ h ht, fun h => early _ h ht, fun h => ⟨early _ h ht, early _ h ht, early _ h ht, early _ h ht⟩⟩

end Spdm

end Sys2Proof.Machine

/-! PROOF. Functions and link: what an FLR marks late, the link's loss where no request uses the host, and the FLR of the PF. -/

namespace Sys2Proof.Machine

section FunctionsLink

/-- From s to t only contexts change, and none of them begins or ends. -/
structure SameRuns (s t : State) : Prop where
  rest : t = { s with ctxs := t.ctxs }
  run : ∀ c, (getCtx t c).run = (getCtx s c).run

theorem SameRuns.refl (s : State) : SameRuns s s := ⟨rfl, fun _ => rfl⟩

theorem SameRuns.trans {s t u : State} (h : SameRuns s t) (k : SameRuns t u) : SameRuns s u := by
  refine ⟨?_, fun c => (k.run c).trans (h.run c)⟩
  rw [k.rest, h.rest]

theorem SameRuns.foldl {α : Type} {f : State → α → State} (hf : ∀ s a, SameRuns s (f s a)) (l : List α) (s : State) :
    SameRuns s (l.foldl f s) := by
  induction l generalizing s with
  | nil => exact .refl s
  | cons a l ih => exact (hf s a).trans (ih _)

theorem sameRuns_modCtx (s : State) (c : CtxId) (f : Ctx → Ctx) (hf : ∀ x, (f x).run = x.run) : SameRuns s (modCtx s c f) := by
  refine ⟨rfl, fun d => ?_⟩
  by_cases hd : d = c
  · subst hd
    rw [getCtx_modCtx_self, hf]
  · rw [getCtx_modCtx_ne _ _ _ _ hd]

theorem SameRuns.existing {s t : State} (h : SameRuns s t) : existing t = existing s := by
  have he : ctxExists t = ctxExists s := funext fun c => by rw [ctxExists, ctxExists, h.run]
  rw [Machine.existing, Machine.existing, he]

theorem existing_setFn (s : State) (n : CtxId) (f : Func) : existing (setFn s n f) = existing s := rfl

theorem SameRuns.fns {s t : State} (h : SameRuns s t) : t.fns = s.fns := (congrArg State.fns h.rest :)

theorem SameRuns.setFn {s t : State} (h : SameRuns s t) (n : CtxId) (f : Func) :
    setFn t n f = { s with ctxs := (Machine.setFn t n f).ctxs, fns := (Machine.setFn t n f).fns } := by
  rw [h.rest]
  rfl

theorem sameRuns_lateDrains (s : State) (n : CtxId) : SameRuns s (lateDrains s n) := by
  refine .foldl (fun s c => ?_) _ s
  split
  · exact sameRuns_modCtx _ _ _ fun _ => rfl
  · exact .refl s

theorem lateDrains_of_none {s : State} (h : ∀ c, (getCtx s c).drains = []) (n : CtxId) : lateDrains s n = s :=
  List.foldlRecOn (motive := fun t => t = s) _ _ rfl fun t ht c _ => by simp [ht, h]

theorem getFn_lateDrains (s : State) (n m : CtxId) : getFn (lateDrains s n) m = getFn s m := by
  rw [getFn, (sameRuns_lateDrains s n).fns, getFn]

theorem getFn_flrFn (s : State) (n : CtxId) : getFn (flrFn s n) n = { Func.init with
    req := (getFn s n).req, resp := (getFn s n).resp, bar2Log := (getFn s n).bar2Log, hostErr := (getFn s n).hostErr } := by
  rw [flrFn, modFn, getFn_setFn_self, getFn_lateDrains]

theorem flrFn_of_no_drains {s : State} (h : ∀ c, (getCtx s c).drains = []) (n : CtxId) :
    flrFn s n = setFn s n { Func.init with
      req := (getFn s n).req, resp := (getFn s n).resp, bar2Log := (getFn s n).bar2Log, hostErr := (getFn s n).hostErr } := by
  rw [flrFn, lateDrains_of_none h, modFn]

theorem existing_flrFn (s : State) (n : CtxId) : existing (flrFn s n) = existing s := by
  rw [flrFn, modFn, existing_setFn, (sameRuns_lateDrains s n).existing]

/-- An FLR changes contexts and its function. -/
theorem flrFn_rest (s : State) (n : CtxId) : flrFn s n = { s with ctxs := (flrFn s n).ctxs, fns := (flrFn s n).fns } := by
  rw [flrFn, modFn]
  exact (sameRuns_lateDrains s n).setFn n _

theorem pkg_flrFn (s : State) (n : CtxId) : (flrFn s n).pkg = s.pkg := (congrArg State.pkg (flrFn_rest s n) :)

theorem mem_flrFn (s : State) (n : CtxId) : (flrFn s n).mem = s.mem := (congrArg State.mem (flrFn_rest s n) :)

theorem clk_flrFn (s : State) (n : CtxId) : (flrFn s n).clk = s.clk := (congrArg State.clk (flrFn_rest s n) :)

theorem requestReset_of_none {s : State} {c : CtxId} (h : (getCtx s c).run = .none) (info : ResetInfo) :
    requestReset s c info = s := by
  simp [requestReset, h]

theorem failAll_of_none {s : State} {c : CtxId} {hit : SrvReq → Bool} (h : ∀ q ∈ (getCtx s c).queue, hit q = false) (st : Status) :
    failAll s c hit st = s := by
  have hnil : (getCtx s c).queue.filter hit = [] := by
    simpa [List.filter_eq_nil_iff] using h
  simp [failAll, hnil]

/-- A compute reset that finds no context only enters. -/
theorem computeReset_of_no_ctx {s : State} (hb : s.pkg.crBusy = false) (h : existing s = []) (cause : Nat) (fn : Option CtxId) :
    computeReset s cause fn = modPkg s fun p => { p with
      state := 2
      computeReset := true
      hbmUp := false
      crBusy := true
      crCause := cause
      crStartNs := s.clk.mastNs
      crFn := fn
      crSelf := false } := by
  simp [computeReset, hb, h]

theorem pfFlr_of_held {s : State} (hp : s.pins.perstN = true) (h : s.pkg.state = 0 ∨ s.pkg.state = 3) :
    pfFlr s = modPkg (flrFn s 0) fun p => { p with crFn := none } := by
  have hh : heldInReset (modPkg (flrFn s 0) fun p => { p with crFn := none }) = true := by
    rcases h with h | h <;> simp [heldInReset, modPkg, pkg_flrFn, h]
  simp only [pfFlr, hp, Bool.not_true, Bool.false_eq_true, if_false, if_pos hh]

theorem pfFlr_of_not_held {s : State} (hp : s.pins.perstN = true) (h0 : s.pkg.state ≠ 0) (h3 : s.pkg.state ≠ 3) :
    pfFlr s = computeReset (modPkg (flrFn s 0) fun p => { p with crFn := none }) 2 none := by
  have hh : heldInReset (modPkg (flrFn s 0) fun p => { p with crFn := none }) = false := by
    simp only [heldInReset, modPkg, pkg_flrFn, beq_eq_false_iff_ne.2 h0, beq_eq_false_iff_ne.2 h3, Bool.or_self]
  simp [pfFlr, hp, hh]

/-- Settles O29. -/
theorem functionsAndLink : Obligations.FunctionsAndLink := by
  intro s
  have vf {n : CtxId} (h0 : n ≠ 0) (hn : n.val ≤ s.pkg.numVfs.val) : exec (.vfFlr n) s = .next (vfFlr s n) := by
    change Host.Outcome.next (if n ≠ 0 ∧ n.val ≤ s.pkg.numVfs.val then vfFlr s n else s) = _
    rw [if_pos ⟨h0, hn⟩]
  have vfs (n : CtxId) : exec (.numvfsChange n) s = .next (numVfsChange s n) := rfl
  have pf : exec .pfFlr s = .next (pfFlr s) := rfl
  refine ⟨fun n h0 hn => ?_, getFn_flrFn s, fun n h0 hn hr hd => ?_, fun n => ?_, fun n hn => ?_, fun n k hk hk' => ?_, rfl,
    fun h => ?_, fun hp => ?_, fun hp h => ?_, fun hp h0 h3 => ?_, fun hp h1 he hb => ?_⟩
  · rw [vf h0 hn, vfFlr]
  · rw [vf h0 hn, vfFlr, flrFn_of_no_drains hd, requestReset_of_none ((congrArg Ctx.run (getCtx_setFn s n _ n)).trans hr)]
  · have hflr : vfFlr = fun s c => requestReset (flrFn s c) c ⟨1, none, false, s.clk.mastNs, 0⟩ :=
      funext fun s => funext fun c => by rw [vfFlr]
    rw [vfs, numVfsChange, hflr]
  · have hnil : (allCtxs.filter fun c => decide (n.val < c.val) && decide (c.val ≤ s.pkg.numVfs.val)) = [] := by
      refine List.filter_eq_nil_iff.2 fun c _ => ?_
      simp only [Bool.and_eq_true, decide_eq_true_eq]
      omega
    rw [vfs, numVfsChange, hnil]
    rfl
  · change Host.Outcome.next (if 30 ≤ k ∧ k ≤ 40 then barResize s n k else s) = _
    rw [if_pos ⟨hk, hk'⟩, barResize, modFn]
  · change Host.Outcome.next ((existing s).foldl failHost (modPkg s fun p => { p with linkUp := false })) = _
    refine congrArg _ (List.foldlRecOn (motive := fun t => t = modPkg s fun p => { p with linkUp := false }) _ _ rfl ?_)
    rintro t rfl c hc
    refine failAll_of_none (fun q hq => ?_) _
    rcases h c hc q hq with hq | hu
    · simp [hq]
    · simp [hu]
  · change Host.Outcome.next (if s.pins.perstN then _ else s) = _
    rw [if_pos hp]
  · rw [pf, pfFlr_of_held hp h]
  · rw [pf, pfFlr_of_not_held hp h0 h3]
  · refine ⟨_, pf, ?_⟩
    have hex : existing (flrFn s 0) = [] := (existing_flrFn s 0).trans he
    have hpkg := pkg_flrFn s 0
    have hclk := clk_flrFn s 0
    have hmem := mem_flrFn s 0
    have hfn := getFn_flrFn s 0
    rw [pfFlr_of_not_held hp (by simp [h1]) (by simp [h1])]
    generalize flrFn s 0 = u at *
    rw [computeReset_of_no_ctx (s := modPkg u fun p => { p with crFn := none }) ((congrArg Pkg.crBusy hpkg).trans hb) hex, getFn_modPkg, getFn_modPkg, hfn]
    exact ⟨rfl, rfl, rfl, rfl, rfl, congrArg Clk.mastNs hclk, rfl, rfl, hmem⟩

end FunctionsLink

end Sys2Proof.Machine

/-! PROOF. Package reset: the Field book's writes and the pins that put the package in reset. -/

namespace Sys2Proof.Machine

section PackageReset

/-- From s to t only Halyard's stores change, and not the Field book's flash copy. -/
structure BookOnly (s t : State) : Prop where
  rest : t = { s with hal := t.hal }
  flash : t.hal.flash = s.hal.flash

theorem BookOnly.refl (s : State) : BookOnly s s := ⟨rfl, rfl⟩

theorem BookOnly.trans {s t u : State} (h : BookOnly s t) (k : BookOnly t u) : BookOnly s u := by
  refine ⟨?_, k.flash.trans h.flash⟩
  rw [k.rest, h.rest]

theorem BookOnly.foldl {α : Type} {f : State → α → State} (hf : ∀ s a, BookOnly s (f s a)) (l : List α) (s : State) :
    BookOnly s (l.foldl f s) := by
  induction l generalizing s with
  | nil => exact .refl s
  | cons a l ih => exact (hf s a).trans (ih _)

theorem bookOnly_modHal (s : State) (f : Hal → Hal) (hf : (f s.hal).flash = s.hal.flash) : BookOnly s (modHal s f) := ⟨rfl, hf⟩

theorem bookOnly_fbInPlace (s : State) (row typ rows : Nat) (body : List Byte) : BookOnly s (fbInPlace s row typ rows body) := by
  unfold fbInPlace
  exact bookOnly_modHal _ _ rfl

theorem bookOnly_fbAppend (s : State) (typ rows : Nat) (body : List Byte) : BookOnly s (fbAppend s typ rows body) := by
  unfold fbAppend
  extract_lets body' p s₁
  refine .trans (t := s₁) ?_ (bookOnly_modHal _ _ rfl)
  unfold s₁
  split
  · exact bookOnly_modHal _ _ rfl
  · exact .refl s

theorem bookOnly_resetRecord (s : State) (domain cause mask start esc : Nat) (oos abandoned : Bool) :
    BookOnly s (resetRecord s domain cause mask start esc oos abandoned) :=
  ((bookOnly_modHal s _ rfl).trans (bookOnly_fbAppend _ _ _ _)).trans (bookOnly_fbInPlace _ _ _ _ _)

theorem bookOnly_abandonResets (s : State) : BookOnly s (abandonResets s) := by
  unfold abandonResets
  extract_lets s₁
  have h₁ : BookOnly s s₁ := by
    unfold s₁
    split
    · exact bookOnly_resetRecord ..
    · exact .refl s
  split
  · exact h₁.trans (bookOnly_resetRecord ..)
  · refine h₁.trans (.foldl (fun t c => ?_) _ _)
    split
    · exact bookOnly_resetRecord ..
    · exact .refl t

/-- What package reset keeps, drops and sets: the resets it abandons only write the Field book. -/
theorem packageReset_keeps (s : State) : let t := packageReset s
    t.clk.mastNs = s.clk.mastNs ∧ t.clk.planSlot = 0 ∧ t.mem.bytes = s.mem.bytes ∧ t.host = s.host ∧ t.reef.vtab = s.reef.vtab
      ∧ t.boot.slots = s.boot.slots ∧ t.boot.dir = s.boot.dir ∧ t.ctxs = [] ∧ t.fns = [] ∧ t.pkg.state = 0 ∧ t.pkg.computeReset = true
      ∧ t.pins.perstN = false ∧ t.pins.qspiRstN = false ∧ t.pkg.crCause = 7 ∧ t.reef.pol = ⟨reefPolReset, reefPolReset⟩
      ∧ t.fab.planA = none ∧ t.pending = s.pending := by
  unfold packageReset
  extract_lets u r
  have hu : BookOnly s u := by
    unfold u
    split
    · exact bookOnly_abandonResets s
    · exact .refl s
  obtain ⟨h, hh⟩ : ∃ h, u = { s with hal := h } := ⟨_, hu.rest⟩
  clear_value u
  subst hh
  exact ⟨rfl, rfl, rfl, rfl, rfl, rfl, rfl, rfl, rfl, rfl, rfl, rfl, rfl, rfl, rfl, rfl, rfl⟩

theorem flash_packageReset (s : State) : (packageReset s).hal.flash = s.hal.flash := by
  unfold packageReset
  extract_lets u r
  have hu : BookOnly s u := by
    unfold u
    split
    · exact bookOnly_abandonResets s
    · exact .refl s
  exact hu.flash

/-- POWER_UP from the Mast's rail down. -/
theorem powerUp_of_off {s : State} (h : s.pins.pwrgdMast = false) : ∃ t, powerUp s = t ∧ t.clk.mastNs = 0 ∧ t.clk.planSlot = 0
    ∧ t.clk.boot = s.clk.boot + 1 ∧ t.pins.pwrgdMast = true ∧ t.hal.fb = s.hal.flash ∧ t.hal.flash = s.hal.flash
    ∧ t.pkg.crCause = 8 ∧ t.mem.bytes = s.mem.bytes ∧ t.boot = s.boot := by
  refine ⟨_, rfl, ?_⟩
  rw [powerUp, if_neg (by simp [h])]
  exact ⟨rfl, rfl, rfl, rfl, rfl, rfl, rfl, rfl, rfl⟩

/-- Settles O30. -/
theorem powerAndResetPins : Obligations.PowerAndResetPins := by
  intro s
  obtain ⟨hclk, hslot, hbytes, hhost, hvtab, hslots, hdir, hctxs, hrest⟩ := packageReset_keeps s
  refine ⟨packageReset_keeps s, fun hp => ?_, fun hp => ⟨?_, ?_⟩, fun hp => ?_, rfl, fun ht => ?_, fun ht => ?_, fun kept => ?_, fun h => ?_⟩
  · change Host.Outcome.next (if s.pins.perstN then _ else _) = _
    rw [if_pos hp]
  · change Host.Outcome.next (if s.pins.perstN then _ else _) = _
    rw [if_neg (by simp [hp])]
  · change Host.Outcome.next (modPins (if s.pins.perstN then _ else _) _) = _
    rw [if_neg (by simp [hp])]
  · change Host.Outcome.next (modPins (if s.pins.perstN then _ else _) _) = _
    rw [if_pos hp]
  · change Host.Outcome.next (coreLost s) = _
    simp only [coreLost, ht, if_true]
  · change Host.Outcome.next (coreLost s) = _
    simp only [coreLost, ht, Bool.false_eq_true, if_false]
  · refine ⟨mastLost s kept, rfl, rfl, rfl, rfl, hrest.2.2.2.1, rfl, rfl, hctxs, ?_, ?_, flash_packageReset s⟩
    · rintro rfl
      rfl
    · rintro rfl
      rfl
  · obtain ⟨t, ht, hall⟩ := powerUp_of_off h
    exact ⟨t, congrArg _ ht, hall⟩

end PackageReset

end Sys2Proof.Machine

/-! PROOF. What no row of the fabric, of the light, of power or of a reset's end touches: Mast time and plan slot, the pins PERST_N,
QSPI_RST_N and PWR_BRAKE_N, the link, Halyard and its restart, the policy, and the telemetry mirror. -/

namespace Sys2Proof.Machine

section Steady
variable {ref s : State}

/-- Policy, caps, calibration and the estimates so far. -/
def Reef.kept (r : Reef) : (Bank (BitVec 128) × Bool) × (BitVec 32 × BitVec 32) × Fp × List Nat :=
  ((r.pol, r.polPend), (r.bmcCap, r.bmcForce), r.k, r.estHist)

/-- Time, the reset and brake pins, the link, Halyard, recovery service, a Halyard restart, what the Reef controller takes at a boundary
only, and the telemetry mirror are as in a reference state. -/
structure Steady (ref s : State) : Prop where
  clk : s.clk = ref.clk
  perstN : s.pins.perstN = ref.pins.perstN
  qspiRstN : s.pins.qspiRstN = ref.pins.qspiRstN
  brakeN : s.pins.brakeN = ref.pins.brakeN
  linkUp : s.pkg.linkUp = ref.pkg.linkUp
  halyardUp : s.pkg.halyardUp = ref.pkg.halyardUp
  romService : s.pkg.romService = ref.pkg.romService
  restart : s.pkg.restart = ref.pkg.restart
  brakeLatch : s.pkg.brakeLatch = ref.pkg.brakeLatch
  reef : s.reef.kept = ref.reef.kept
  mirror : s.mirror = ref.mirror

theorem Steady.refl (s : State) : Steady s s := ⟨rfl, rfl, rfl, rfl, rfl, rfl, rfl, rfl, rfl, rfl, rfl⟩

theorem Steady.trans {s t u : State} (h : Steady s t) (k : Steady t u) : Steady s u :=
  ⟨k.clk.trans h.clk, k.perstN.trans h.perstN, k.qspiRstN.trans h.qspiRstN, k.brakeN.trans h.brakeN, k.linkUp.trans h.linkUp,
    k.halyardUp.trans h.halyardUp, k.romService.trans h.romService, k.restart.trans h.restart, k.brakeLatch.trans h.brakeLatch,
    k.reef.trans h.reef, k.mirror.trans h.mirror⟩

/-- A state with the same clock, pins, package registers, Reef controller and mirror is as steady. -/
theorem steady_of_eq {t : State} (h : Steady ref s) (hc : t.clk = s.clk) (hp : t.pins = s.pins) (hk : t.pkg = s.pkg)
    (hr : t.reef = s.reef) (hm : t.mirror = s.mirror) : Steady ref t :=
  h.trans ⟨hc, by rw [hp], by rw [hp], by rw [hp], by rw [hk], by rw [hk], by rw [hk], by rw [hk], by rw [hk], by rw [hr], hm⟩

theorem steady_setLoop (h : Steady ref s) (i x) : Steady ref (setLoop s i x) := steady_of_eq h rfl rfl rfl rfl rfl

theorem steady_modOpt (h : Steady ref s) (f) : Steady ref (modOpt s f) := steady_of_eq h rfl rfl rfl rfl rfl

theorem steady_moveLoop (h : Steady ref s) (i l) : Steady ref (moveLoop s i l) := by
  grind [moveLoop, steady_setLoop, steady_modOpt]

theorem steady_setPort (h : Steady ref s) (p x) : Steady ref (setPort s p x) := steady_of_eq h rfl rfl rfl rfl rfl

theorem steady_modFab (h : Steady ref s) (f) : Steady ref (modFab s f) := steady_of_eq h rfl rfl rfl rfl rfl

theorem steady_owe (h : Steady ref s) (port ch n) : Steady ref (owe s port ch n) := by
  grind [owe, steady_setPort]

theorem steady_release (h : Steady ref s) (o) : Steady ref (release s o) := by
  grind [release, steady_owe]

theorem steady_count (h : Steady ref s) (p i n) : Steady ref (count s p i n) := by
  grind [count, steady_setPort]

theorem steady_setCtx (h : Steady ref s) (c x) : Steady ref (setCtx s c x) := steady_of_eq h rfl rfl rfl rfl rfl

theorem steady_modCtx (h : Steady ref s) (c f) : Steady ref (modCtx s c f) := by
  grind [modCtx, steady_setCtx]

theorem steady_modHal (h : Steady ref s) (f) : Steady ref (modHal s f) := steady_of_eq h rfl rfl rfl rfl rfl

theorem steady_of_rec {t : State} (h : Steady ref s) (r : Rec s t) : Steady ref t := steady_of_eq h r.clk r.pins r.pkg r.reef r.mirror

theorem steady_raise (h : Steady ref s) (e) : Steady ref (raise s e) := steady_of_rec h (rec_raise ..)

theorem steady_stopEvent (h : Steady ref s) (c st why) : Steady ref (stopEvent s c st why) := by
  grind [stopEvent, steady_modHal, steady_raise]

theorem steady_foldl_by {α β : Type} (g : β → State) {f : β → α → β} (hf : ∀ r x, Steady ref (g r) → Steady ref (g (f r x))) (l : List α)
    {r : β} (h : Steady ref (g r)) : Steady ref (g (l.foldl f r)) := by
  induction l generalizing r with
  | nil => exact h
  | cons x l ih => exact ih (hf r x h)

theorem steady_foldl_fst {α β : Type} {f : State × β → α → State × β} (hf : ∀ (r : State × β) x, Steady ref r.1 → Steady ref (f r x).1)
    (l : List α) {r : State × β} (h : Steady ref r.1) : Steady ref (l.foldl f r).1 := steady_foldl_by Prod.fst hf l h

theorem steady_memWrite (h : Steady ref s) (a bs) : Steady ref (memWrite s a bs) := steady_of_eq h rfl rfl rfl rfl rfl

theorem steady_tileWrite (h : Steady ref s) (t addr bs) : Steady ref (tileWrite s t addr bs) := by
  grind [tileWrite, steady_memWrite]

theorem steady_setTile (h : Steady ref s) (t x) : Steady ref (setTile s t x) := steady_of_eq h rfl rfl rfl rfl rfl

theorem steady_nonfiniteEvent (h : Steady ref s) (c tile aset cause beats tag) :
    Steady ref (nonfiniteEvent s c tile aset cause beats tag) := by
  grind [nonfiniteEvent, steady_raise]

theorem steady_foldl {α : Type} {f : State → α → State} (hf : ∀ s x, Steady ref s → Steady ref (f s x)) (l : List α) (h : Steady ref s) :
    Steady ref (l.foldl f s) := steady_foldl_by id hf l h

theorem steady_landDrain (h : Steady ref s) (c d) : Steady ref (landDrain s c d) := by
  unfold landDrain
  dsimp only
  split
  · exact h
  · split
    · split
      · exact steady_modCtx (steady_setTile h ..) ..
      · exact steady_nonfiniteEvent (steady_modCtx (steady_foldl (fun _ _ hs => steady_tileWrite hs ..) _ (steady_setTile h ..)) ..) ..
    · refine steady_modCtx ?_ ..
      split
      · exact steady_setTile h ..
      · exact steady_foldl (fun _ _ hs => steady_tileWrite hs ..) _ (steady_setTile h ..)

theorem steady_landOne {r : State × List TWrite} (h : Steady ref r.1) (c l) : Steady ref (landOne c r l).1 := by
  unfold landOne
  split
  · split
    · exact h
    · exact steady_tileWrite h ..
  · exact steady_landDrain h ..

theorem steady_landUntil (h : Steady ref s) (c cycle) : Steady ref (landUntil s c cycle).1 := by
  unfold landUntil
  extract_lets x ms ds s₁ ls
  split
  · exact h
  · have h₁ : Steady ref s₁ := steady_modCtx h ..
    exact steady_foldl_fst (fun r l hr => steady_landOne hr c l) ls (r := (s₁, [])) h₁

theorem steady_dropReport (h : Steady ref s) (c r) : Steady ref (dropReport c s r) := by
  grind [dropReport, steady_tileWrite, steady_nonfiniteEvent, steady_foldl]

theorem steady_endIssue (h : Steady ref s) (c) : Steady ref (endIssue s c) := by
  grind [endIssue, steady_landUntil, steady_modCtx, steady_dropReport, steady_foldl]

theorem steady_post (h : Steady ref s) (cls c dst dstCtx xfer words bytes carries) :
    Steady ref (post s cls c dst dstCtx xfer words bytes carries) := by
  grind [post, steady_modFab]

theorem steady_postAck (h : Steady ref s) (c dst dstCtx xfer carries) : Steady ref (postAck s c dst dstCtx xfer carries) := by
  grind [postAck, steady_post]

theorem steady_closeRequests (h : Steady ref s) (c x) : Steady ref (closeRequests s c x) := by
  grind [closeRequests, steady_postAck, steady_foldl]

theorem steady_modMem (h : Steady ref s) (f) : Steady ref (modMem s f) := steady_of_eq h rfl rfl rfl rfl rfl

theorem steady_clearGrants (h : Steady ref s) (c) : Steady ref (clearGrants s c) := by
  grind [clearGrants, steady_modMem]

theorem steady_enterReset (h : Steady ref s) (c info) : Steady ref (enterReset s c info) :=
  steady_setCtx (steady_clearGrants (steady_closeRequests (steady_endIssue
    (steady_foldl (fun _ _ hs => steady_stopEvent hs ..) _ h) _) ..) _) ..

theorem steady_stopCtxW (h : Steady ref s) (c st why) : Steady ref (stopCtxW s c st why) := by
  unfold stopCtxW
  split
  · exact h
  · exact h
  · exact steady_stopEvent h ..
  · extract_lets due s₁ s₂
    have h₂ : Steady ref s₂ :=
      steady_endIssue (steady_foldl (fun _ _ hs => steady_stopEvent hs ..) _ (steady_modCtx (steady_stopEvent h ..) ..)) _
    split
    · exact steady_enterReset h₂ ..
    · exact h₂

theorem steady_dueStopW (h : Steady ref s) (c st why) : Steady ref (dueStopW s c st why) := by
  grind [dueStopW, steady_modCtx, steady_stopCtxW]

theorem steady_popHead (h : Steady ref s) (c q) : Steady ref (popHead s c q) := by
  grind [popHead, steady_modCtx]

theorem steady_drawNat (h : Steady ref s) : Steady ref (drawNat s).2 := steady_of_eq h rfl rfl rfl rfl rfl

theorem steady_virtWrite (h : Steady ref s) (x ret va bs) : Steady ref (virtWrite s x ret va bs) := by
  grind [virtWrite, steady_memWrite, steady_foldl]

theorem steady_traceWrite (h : Steady ref s) (c rec_) : Steady ref (traceWrite s c rec_) := by
  grind [traceWrite, steady_virtWrite, steady_setCtx, steady_raise]

theorem steady_traceSrv (h : Steady ref s) (c q st) : Steady ref (traceSrv s c q st) := by
  grind [traceSrv, steady_drawNat, steady_traceWrite, steady_foldl]

theorem steady_collNonfinite (h : Steady ref s) (c q) : Steady ref (collNonfinite s c q) := by
  grind [collNonfinite, steady_raise]

theorem steady_failHeadW (h : Steady ref s) (c q st why) : Steady ref (failHeadW s c q st why) := by
  grind [failHeadW, steady_dueStopW, steady_popHead, steady_traceSrv, steady_collNonfinite]

theorem steady_failHead (h : Steady ref s) (c q st) : Steady ref (failHead s c q st) := by
  grind [failHead, steady_failHeadW]

theorem steady_dueStop (h : Steady ref s) (c st) : Steady ref (dueStop s c st) := by
  grind [dueStop, steady_dueStopW]

theorem steady_returnCredit (h : Steady ref s) (c p n) : Steady ref (returnCredit s c p n) := by
  grind [returnCredit, steady_dueStop, steady_setCtx]

theorem steady_creditBack (h : Steady ref s) (c q) : Steady ref (creditBack s c q) := by
  grind [creditBack, steady_returnCredit]

theorem steady_xferFail (h : Steady ref s) (c xfer st) : Steady ref (xferFail s c xfer st) := by
  grind [xferFail, steady_failHead, steady_creditBack]

theorem steady_undeliverable (h : Steady ref s) (port o) : Steady ref (undeliverable s port o) := by
  grind [undeliverable, steady_release, steady_count, steady_xferFail, steady_failHead, steady_postAck]

theorem steady_dropWaiting (h : Steady ref s) (p held) : Steady ref (dropWaiting s p held) := by
  grind [dropWaiting, steady_modFab, steady_undeliverable, steady_foldl]

theorem steady_setLane (h : Steady ref s) (i x) : Steady ref (setLane s i x) := steady_of_eq h rfl rfl rfl rfl rfl

theorem steady_retime (h : Steady ref s) : Steady ref (retime s) := by
  grind [retime, steady_modFab, steady_raise]

theorem steady_setCirc (h : Steady ref s) (i x) : Steady ref (setCirc s i x) := steady_of_eq h rfl rfl rfl rfl rfl

theorem steady_holdCircuits (h : Steady ref s) (p) : Steady ref (holdCircuits s p) := by
  grind [holdCircuits, steady_setCirc, steady_foldl]

theorem steady_portDown (h : Steady ref s) (p v) : Steady ref (portDown s p v) := by
  grind [portDown, steady_setPort, steady_dropWaiting, steady_setLane, steady_retime, steady_holdCircuits, steady_raise, steady_foldl]

theorem steady_fbInPlace (h : Steady ref s) (row typ rows body0) : Steady ref (fbInPlace s row typ rows body0) := by
  grind [fbInPlace, steady_modHal]

theorem steady_fbCounters (h : Steady ref s) : Steady ref (fbCounters s) := by
  grind [fbCounters, steady_fbInPlace]

theorem steady_setReasons (h : Steady ref s) (reasons) : Steady ref (setReasons s reasons) := by
  grind [setReasons, steady_modHal, steady_fbCounters, steady_raise]

theorem steady_reasonOn (h : Steady ref s) (n) : Steady ref (reasonOn s n) := by
  grind [reasonOn, steady_modHal, steady_setReasons]

theorem steady_loopFault (h : Steady ref s) (i v) : Steady ref (loopFault s i v) := by
  grind [loopFault, steady_moveLoop, steady_portDown, steady_raise, steady_reasonOn]

theorem steady_dieFault (h : Steady ref s) (d) : Steady ref (dieFault s d) := by
  grind [dieFault, steady_loopFault, steady_foldl]

theorem steady_modReef (h : Steady ref s) (f : Reef → Reef) (hr : (f s.reef).kept = s.reef.kept) : Steady ref (modReef s f) :=
  h.trans ⟨rfl, rfl, rfl, rfl, rfl, rfl, rfl, rfl, rfl, hr, rfl⟩

theorem steady_fbAppend (h : Steady ref s) (typ rows body0) : Steady ref (fbAppend s typ rows body0) := by
  grind [fbAppend, steady_modHal]

theorem steady_bootTrim (h : Steady ref s) (e) : Steady ref (bootTrim s e) := by
  unfold bootTrim
  extract_lets unusable table t₀ t₁ s₁
  have h₁ : Steady ref s₁ := steady_modReef h _ rfl
  split
  · exact steady_fbAppend (s := { s₁ with freeCtr := s₁.freeCtr + 1 }) (steady_of_eq h₁ rfl rfl rfl rfl rfl) ..
  · exact h₁

theorem steady_modPkg (h : Steady ref s) (f : Pkg → Pkg) (hl : (f s.pkg).linkUp = s.pkg.linkUp)
    (hh : (f s.pkg).halyardUp = s.pkg.halyardUp) (hs : (f s.pkg).romService = s.pkg.romService)
    (hr : (f s.pkg).restart = s.pkg.restart) (hb : (f s.pkg).brakeLatch = s.pkg.brakeLatch) : Steady ref (modPkg s f) :=
  h.trans ⟨rfl, rfl, rfl, rfl, hl, hh, hs, hr, hb, rfl, rfl⟩

theorem steady_bootRecord (h : Steady ref s) (v0 v1 st) : Steady ref (bootRecord s v0 v1 st) := by
  grind [bootRecord, steady_fbAppend]

theorem steady_stopBoot (h : Steady ref s) (step) : Steady ref (stopBoot s step) :=
  steady_bootRecord (steady_modPkg h _ rfl rfl rfl rfl rfl) ..

theorem steady_memZero (h : Steady ref s) (a n) : Steady ref (memZero s a n) := steady_of_eq h rfl rfl rfl rfl rfl

theorem steady_zeroAll (h : Steady ref s) : Steady ref (zeroAll s) := by
  grind [zeroAll, steady_memZero]

theorem steady_modPins (h : Steady ref s) (f : Pins → Pins) (hp : (f s.pins).perstN = s.pins.perstN)
    (hq : (f s.pins).qspiRstN = s.pins.qspiRstN) (hb : (f s.pins).brakeN = s.pins.brakeN) : Steady ref (modPins s f) :=
  h.trans ⟨rfl, hp, hq, hb, rfl, rfl, rfl, rfl, rfl, rfl, rfl⟩

theorem steady_adoptMap (h : Steady ref s) : Steady ref (adoptMap s) := by
  grind [adoptMap, steady_modOpt]

theorem steady_setLine (h : Steady ref s) (i x) : Steady ref (setLine s i x) := steady_of_eq h rfl rfl rfl rfl rfl

theorem steady_setLinePower (h : Steady ref s) (role on freq) : Steady ref (setLinePower s role on freq) := by
  grind [setLinePower, steady_setLine]

theorem steady_powerLines (h : Steady ref s) : Steady ref (powerLines s) := by
  grind [powerLines, steady_setLane, steady_setLinePower, steady_foldl]

theorem steady_calibrateLoop (h : Steady ref s) (faults n i) : Steady ref (calibrateLoop faults n s i) := by
  grind [calibrateLoop, steady_loopFault, steady_drawNat, steady_moveLoop]

theorem steady_calibrate (h : Steady ref s) (lanes faults) : Steady ref (calibrate s lanes faults) := by
  grind [calibrate, steady_calibrateLoop, steady_foldl]

theorem steady_calibrateCart (h : Steady ref s) (faults) : Steady ref (calibrateCart s faults) := by
   grind [calibrateCart, steady_modPins, steady_modOpt, steady_adoptMap, steady_setLane, steady_powerLines, steady_calibrate,
      steady_foldl]

theorem steady_holdLoops (h : Steady ref s) : Steady ref (holdLoops s) := by
  grind [holdLoops, steady_setLoop, steady_foldl]

theorem steady_authFailed (h : Steady ref s) (step) : Steady ref (authFailed s step) := by
  unfold authFailed
  extract_lets s₁ s₂
  have h₂ : Steady ref s₂ := steady_holdLoops (steady_modOpt (steady_modPins h _ rfl rfl rfl) _)
  clear_value s₂
  exact steady_bootRecord (steady_modPkg h₂ _ rfl rfl rfl rfl rfl) ..

theorem steady_lightOn (h : Steady ref s) : Steady ref (lightOn s) := by
  grind [lightOn, steady_modOpt, steady_setLane, steady_foldl]

theorem steady_firstSeen (h : Steady ref s) : Steady ref (firstSeen s) := by
  grind [firstSeen, steady_modOpt]

theorem steady_cartWrite (h : Steady ref s) (f) : Steady ref (cartWrite s f) := by
  grind [cartWrite, steady_modOpt]

theorem steady_sparesExhausted (h : Steady ref s) (role v0 v1) : Steady ref (sparesExhausted s role v0 v1) := by
  grind [sparesExhausted, steady_modOpt, steady_reasonOn, steady_raise]

theorem steady_spareHealth (h : Steady ref s) : Steady ref (spareHealth s) := by
  grind [spareHealth, steady_reasonOn, steady_modHal]

theorem steady_tuneSpare (h : Steady ref s) (w) : Steady ref (tuneSpare s w) := by
  grind [tuneSpare, steady_setLine, steady_spareHealth, steady_modOpt]

theorem steady_tuneNext (h : Steady ref s) (die) : Steady ref (tuneNext s die) := by
  grind [tuneNext, steady_tuneSpare]

theorem steady_startSwap (h : Steady ref s) (role now v0 v1) : Steady ref (startSwap s role now v0 v1) := by
  grind [startSwap, steady_sparesExhausted, steady_raise, steady_tuneNext, steady_modOpt]

theorem steady_swapsDue (h : Steady ref s) : Steady ref (swapsDue s) := by
  grind [swapsDue, steady_startSwap, steady_modOpt, steady_foldl]

theorem steady_authPassed (h : Steady ref s) (insertion) : Steady ref (authPassed s insertion) :=
  steady_swapsDue (steady_spareHealth (steady_cartWrite (steady_firstSeen (steady_modPkg h _ rfl rfl rfl rfl rfl)) _))

theorem steady_bootCart (h : Steady ref s) (e) : Steady ref (bootCart s e) := by
  grind [bootCart, steady_modOpt, steady_calibrateCart, steady_authFailed, steady_lightOn, steady_authPassed]

theorem steady_holdUnseen (h : Steady ref s) (r) : Steady ref (holdUnseen s r) := by
  grind [holdUnseen, steady_moveLoop, steady_foldl]

theorem steady_rotationRound (h : Steady ref s) : Steady ref (rotationRound s) := by
  grind [rotationRound, steady_setLane, steady_modOpt, steady_holdUnseen, steady_foldl]

theorem steady_bootRotation (h : Steady ref s) (faults) : Steady ref (bootRotation s faults) := by
  grind [bootRotation, steady_loopFault, steady_drawNat, steady_moveLoop, steady_rotationRound, steady_modOpt, steady_foldl]

theorem steady_modBoot (h : Steady ref s) (f) : Steady ref (modBoot s f) := steady_of_eq h rfl rfl rfl rfl rfl

theorem steady_dirUpdate (h : Steady ref s) (f) : Steady ref (dirUpdate s f) := by
  grind [dirUpdate, steady_modBoot]

theorem steady_firstReady (h : Steady ref s) : Steady ref (firstReady s) := by
  grind [firstReady, steady_modBoot, steady_dirUpdate]

theorem steady_setStep (h : Steady ref s) (want) : Steady ref (setStep s want) := by
  grind [setStep, steady_modReef, Reef.kept, steady_reasonOn, steady_raise]

theorem steady_computeStart (h : Steady ref s) : Steady ref (computeStart s) := by
  unfold computeStart
  extract_lets s₁ s₂
  have h₂ : Steady ref s₂ := steady_memZero (steady_memZero (steady_setStep h _) ..) ..
  exact steady_memZero (s := { s₂ with tiles := [], units := [] }) (h₂.trans ⟨rfl, rfl, rfl, rfl, rfl, rfl, rfl, rfl, rfl, rfl, rfl⟩) ..

theorem steady_resetRecord (h : Steady ref s) (domain cause ctxMask startNs escCount oos abandoned) :
    Steady ref (resetRecord s domain cause ctxMask startNs escCount oos abandoned) := by
  grind [resetRecord, steady_modHal, steady_fbCounters, steady_fbAppend]

theorem steady_bootRest (h : Steady ref s) (e) : Steady ref (bootRest s e) := by
  unfold bootRest
  extract_lets s₁ s₂ s₃ s₄ s₅ s₆ s₇ cause s₈ s₉
  have h₂ : Steady ref s₂ := steady_bootTrim (steady_foldl (fun _ _ hs => by split; exacts [hs, steady_dieFault hs _]) _ h) _
  split
  · exact steady_stopBoot h₂ _
  · split
    · exact steady_stopBoot h₂ _
    · have h₇ : Steady ref s₇ :=
        steady_computeStart (steady_firstReady (steady_bootRotation (steady_bootCart (steady_zeroAll h₂) _) _))
      exact steady_bootRecord (steady_resetRecord (steady_modPkg h₇ _ rfl rfl rfl rfl rfl) ..) ..

theorem steady_startSlot (h : Steady ref s) (slot) : ∀ t, startSlot s slot = some t → Steady ref t := by
  grind [startSlot, steady_modBoot]

theorem steady_bootSelect (h : Steady ref s) : Steady ref (bootSelect s).1 := by
  have hd (f) := steady_dirUpdate h f
  have hs (t) (ht : Steady ref t) := steady_startSlot ht
  unfold bootSelect
  extract_lets d blank a may b₀ other
  have ho (t) (ht : Steady ref t) : Steady ref (other t).1 := by
    unfold other
    grind [steady_dirUpdate, steady_startSlot]
  grind

theorem steady_eventMgt (h : Steady ref s) (e) : Steady ref (eventMgt s e) := by
  grind [eventMgt, steady_post]

theorem steady_setFn (h : Steady ref s) (n x) : Steady ref (setFn s n x) := steady_of_eq h rfl rfl rfl rfl rfl

theorem steady_msixSignal (h : Steady ref s) (n v) : Steady ref (msixSignal s n v) := by
  grind [msixSignal, steady_setFn, Steady]

theorem steady_announce (h : Steady ref s) (n) : Steady ref (announce s n) := by
  grind [announce, steady_msixSignal, steady_setFn]

theorem steady_ringWrite (h : Steady ref s) (n e) : Steady ref (ringWrite s n e) := by
  grind [ringWrite, steady_setFn, steady_announce, steady_msixSignal, Steady]

theorem steady_eventOut (h : Steady ref s) (e) : Steady ref (eventOut s e) := by
  grind [eventOut, steady_modHal, steady_ringWrite, steady_foldl]

theorem steady_noteOnce (h : Steady ref s) (code subj lenNs) : Steady ref (noteOnce s code subj lenNs) := by
  grind [noteOnce, steady_modHal]

theorem steady_eventLog (h : Steady ref s) (e) : Steady ref (eventLog s e) := by
  grind [eventLog, steady_fbAppend, steady_fbCounters, steady_modHal, steady_noteOnce]

theorem steady_takeEvent (h : Steady ref s) (e) : Steady ref (takeEvent s e) := by
  grind [takeEvent, steady_eventMgt, steady_eventOut, steady_eventLog]

theorem steady_escAdd (h : Steady ref s) (cause) : Steady ref (escAdd s cause) := by
  grind [escAdd, steady_modHal]

theorem steady_escalate (h : Steady ref s) (cause) : Steady ref (escalate s cause).1 := by
  grind [escalate, steady_escAdd, steady_raise]

theorem steady_tallyAdd (h : Steady ref s) (n lenNs limit item distinct) : Steady ref (tallyAdd s n lenNs limit item distinct) := by
  grind [tallyAdd, steady_modHal, steady_reasonOn]

theorem steady_answerHdr (h : Steady ref s) (n hd a) : Steady ref (answerHdr s n hd a) := by
  grind [answerHdr, steady_msixSignal, steady_setFn]

theorem steady_answer (h : Steady ref s) (n a) : Steady ref (answer s n a) := by
  grind [answer, steady_answerHdr]

theorem steady_answerUnknown (h : Steady ref s) (n) : Steady ref (answerUnknown s n) := by
  grind [answerUnknown, steady_answer]

theorem steady_lineIn (h : Steady ref s) (c q va bs) : Steady ref (lineIn s c q va bs).1 := by
  grind [lineIn, steady_virtWrite]

theorem steady_runIn {r : State × SrvReq} (h : Steady ref r.1) (c p) : Steady ref (runIn c r p).1 :=
  steady_foldl_fst (fun _ _ hr => steady_lineIn hr ..) _ h

theorem steady_ceCount (h : Steady ref s) (a p) : Steady ref (ceCount s a p).1 := steady_of_eq h rfl rfl rfl rfl rfl

theorem steady_remapEnq (h : Steady ref s) (row) : Steady ref (remapEnq s row).1 := by
  grind [remapEnq, steady_reasonOn, steady_modMem]

theorem steady_logErr (h : Steady ref s) (rd a cls pos syn pass) : Steady ref (logErr s rd a cls pos syn pass) := by
  unfold logErr
  split
  next source unit sec _ =>
  extract_lets c c' s₁ s₂ s₃
  have h₃ : Steady ref s₃ := by
    unfold s₃ s₂
    grind [steady_modMem, steady_tallyAdd]
  clear_value s₃
  have h₄ : Steady ref (if isHbm a ∧ cls = 0 then ceCount s₃ a pass else (s₃, cls != 0 && isHbm a)).1 := by
    split
    · exact steady_ceCount h₃ ..
    · exact h₃
  split
  next s₄ q heq =>
    rw [heq] at h₄
    have h₅ : Steady ref (if q && rd.kind != 3 then remapEnq s₄ (rowOf a) else (s₄, 0)).1 := by
      split
      · exact steady_remapEnq h₄ _
      · exact h₄
    split
    next s₅ remap heq₅ =>
      rw [heq₅] at h₅
      split
      · exact steady_fbInPlace (steady_modMem h₅ _) ..
      · grind [steady_modMem, steady_tallyAdd, steady_fbInPlace, steady_fbAppend, steady_modHal]

theorem steady_readLoc {r : State × Option MemBad} (h : Steady ref r.1) (rd many u) : Steady ref (readLoc rd many r u).1 := by
  unfold readLoc
  split
  · exact h
  · exact steady_logErr h ..

theorem steady_memRead (h : Steady ref s) (rd a n) : Steady ref (memRead s rd a n).1 := by
  have hl (us : List (Nat × List (Nat × Byte))) (b : Bool) : Steady ref (us.foldl (readLoc rd b) (s, none)).1 :=
    steady_foldl_fst (fun r u hr => steady_readLoc hr rd b u) us h
  unfold memRead
  grind [steady_modMem]

theorem steady_walkGo (rd ls) (h : Steady ref s) : Steady ref (walkGo rd ls s).1 := by
  induction ls generalizing s with
  | nil => exact h
  | cons l r ih => grind [walkGo, steady_memRead, steady_memWrite]

theorem steady_walk (h : Steady ref s) (rd x ret va) : Steady ref (walk s rd x ret va).1 := by
  grind [walk, steady_walkGo]

theorem steady_virtReadGo (h : Steady ref s) (rd x ret ps) : Steady ref (virtReadGo rd x ret ps s).1 := by
  induction ps generalizing s with
  | nil => exact h
  | cons p r ih =>
    have hw := steady_walk h rd x ret p.1
    unfold virtReadGo
    split
    · exact h
    · next t ht =>
      split
      · exact h
      · split
        · next u hu => rw [hu] at hw; exact hw
        · next u hu =>
          rw [hu] at hw
          have hm := steady_memRead hw rd (localPart t.addr) p.2
          split
          · next v _ hv => rw [hv] at hm; exact hm
          · next v _ hv =>
            rw [hv] at hm
            have := ih hm
            split <;> simp_all

theorem steady_virtRead (h : Steady ref s) (rd x ret va n) : Steady ref (virtRead s rd x ret va n).1 := by
  grind [virtRead, steady_virtReadGo]

theorem steady_reqRead (h : Steady ref s) (c q va n) : Steady ref (reqRead s c q va n).1 := by
  grind [reqRead, steady_virtRead]

theorem steady_loadVec (h : Steady ref s) (c q r n) : Steady ref (loadVec s c q r n).1 := by
  unfold loadVec
  extract_lets d f k get
  have hget (a g) (ha : Steady ref a.1) : Steady ref (get a g).1 := by
    unfold get
    grind [steady_reqRead]
  clear_value get
  have hl (gs : List (Nat × Nat)) : Steady ref (gs.foldl get (s, .ok [])).1 := steady_foldl_fst hget gs h
  have hg := hl ((vecRuns d f k).map fun g => (usElem r + g.1, g.2))
  split <;> rename_i hq <;> rw [hq] at hg
  · exact hg
  · rename_i u bs
    have hs := hget (u, .ok []) (usScale r + k * vecScales f, vecScales f) hg
    split
    · split <;> rename_i hq <;> rw [hq] at hs <;> exact hs
    · exact hg

theorem steady_setUnit (h : Steady ref s) (u x) : Steady ref (setUnit s u x) := steady_of_eq h rfl rfl rfl rfl rfl

theorem steady_updOne {r : URun} (h : Steady ref r.s) (c w) : Steady ref (updOne c r w).s := by
  have hl (ps : List (Nat × List Byte)) : Steady ref (ps.foldl (runIn c) (r.s, r.q)).1 :=
    steady_foldl_fst (fun _ _ hr => steady_runIn hr ..) ps h
  grind [updOne, steady_loadVec, steady_setUnit]

theorem steady_updPasses {r : URun} (h : Steady ref r.s) (c body n) : Steady ref (updPasses c body n r).s := by
  induction n generalizing r with
  | zero => exact h
  | succ n ih =>
    unfold updPasses
    split
    · exact h
    · exact ih (steady_foldl_by URun.s (fun _ _ hr => steady_updOne hr ..) _ h)

theorem steady_quiesce (h : Steady ref s) (c) : Steady ref (quiesce s c) := by
  grind [quiesce, steady_updPasses, steady_foldl]

theorem steady_putEntry (h : Steady ref s) (i e) : Steady ref (putEntry s i e) := by
  grind [putEntry, steady_memWrite]

theorem steady_dropLeaf (h : Steady ref s) (c l) : Steady ref (dropLeaf c s l) := by
  grind [dropLeaf, steady_modCtx, steady_putEntry]

theorem steady_dropAll (h : Steady ref s) (c) : Steady ref (dropAll s c) := by
  grind [dropAll, steady_dropLeaf, steady_foldl]

theorem steady_enterOos (h : Steady ref s) : Steady ref (enterOos s) :=
  steady_reasonOn (steady_raise (steady_modHal (steady_modPkg h _ rfl rfl rfl rfl rfl) _) _) _

theorem steady_answerTo (h : Steady ref s) (n w a) : Steady ref (answerTo s n w a) := by
  unfold answerTo
  split
  · exact h
  · split
    · exact steady_answer h ..
    · exact h

theorem steady_computeResetDone (h : Steady ref s) : Steady ref (computeResetDone s) := by
  unfold computeResetDone
  split
  · exact h
  · extract_lets cs mask cause start fn self waiting s₁ marks s₂ s₃ s₄ s₅
    have h₂ : Steady ref s₂ := steady_modMem (steady_foldl (fun _ _ hs => steady_dropAll hs _) _
      (steady_foldl (fun _ _ hs => steady_quiesce hs _) _ h)) _
    have h₃ : Steady ref s₃ := h₂.trans ⟨rfl, rfl, rfl, rfl, rfl, rfl, rfl, rfl, rfl, rfl, rfl⟩
    have h₅ : Steady ref s₅ := steady_modPkg (steady_computeStart h₃) _ rfl rfl rfl rfl rfl
    clear_value s₅
    have h₆ : Steady ref (if escalates cause then escalate s₅ cause else (s₅, false)).1 := by
      split
      · exact steady_escalate h₅ _
      · exact h₅
    split
    next s₆ out heq =>
      rw [heq] at h₆
      extract_lets s₇ s₈ s₉ s₁₀ s₁₁
      have h₉ : Steady ref s₉ := by
        unfold s₉ s₈ s₇
        grind [steady_resetRecord, steady_enterOos, steady_raise]
      have h₁₁ : Steady ref s₁₁ := by
        unfold s₁₁ s₁₀
        grind [steady_raise, steady_modHal, steady_answerTo, steady_foldl]
      exact steady_answerTo (steady_answerTo h₁₁ ..) ..

theorem steady_goOos (h : Steady ref s) : Steady ref (goOos s) := by
  unfold goOos
  split
  · exact h
  · extract_lets s₁ s₂ s₃ marks s₄
    have h₁ : Steady ref s₁ := by
      unfold s₁
      split
      · exact steady_computeResetDone h
      · exact h
    split
    · exact h₁
    · have h₃ : Steady ref s₃ := steady_foldl (fun _ _ hs => steady_quiesce hs _) _
        (steady_foldl (fun _ _ hs => steady_enterReset hs ..) _ h₁)
      have h₄ : Steady ref s₄ := steady_modMem (steady_foldl (fun _ _ hs => steady_dropAll hs _) _ h₃) _
      clear_value s₄
      exact steady_enterOos (h₄.trans ⟨rfl, rfl, rfl, rfl, rfl, rfl, rfl, rfl, rfl, rfl, rfl⟩)

theorem steady_timePasses (h : Steady ref s) (old) : Steady ref (timePasses s old) := by
  grind [timePasses, steady_modHal, steady_fbCounters]

theorem steady_newSlot (h : Steady ref s) : Steady ref (newSlot s) := by
  grind [newSlot, steady_setLane, steady_foldl]

theorem steady_breakCircuit (h : Steady ref s) (id port v0 v1 src) : Steady ref (breakCircuit s id port v0 v1 src) := by
  unfold breakCircuit
  refine steady_raise ?_ _
  split
  · exact steady_setCirc h ..
  · split
    · exact steady_xferFail (steady_setCirc h ..) ..
    · exact steady_postAck (steady_setCirc h ..) ..

theorem steady_epochCirc (h : Steady ref s) (old pl id) : Steady ref (epochCirc old pl s id) := by
  grind [epochCirc, steady_breakCircuit, steady_setCirc, steady_modFab]

theorem steady_unfault (h : Steady ref s) (n) : Steady ref (unfault s n) := by
  grind [unfault, steady_moveLoop, steady_foldl]

theorem steady_emitOn (h : Steady ref s) (port o) : Steady ref (emitOn s port o) := by
  grind [emitOn, steady_modFab]

theorem steady_handBack (h : Steady ref s) (old pl t) : Steady ref (handBack old pl s t) := by
  unfold handBack
  split <;> grind [steady_emitOn, steady_undeliverable, steady_modFab, steady_breakCircuit]

theorem steady_laneOff (h : Steady ref s) (old pl n) : Steady ref (laneOff old pl s n) := by
  grind [laneOff, steady_setLane, steady_setLinePower, steady_portDown, steady_handBack, steady_foldl]

theorem steady_laneOn (h : Steady ref s) (n) : Steady ref (laneOn s n) := by
  grind [laneOn, steady_setLane]

theorem steady_laneChange (h : Steady ref s) (oldSp old pl n) : Steady ref (laneChange oldSp old pl s n) := by
  grind [laneChange, steady_unfault, steady_laneOff, steady_laneOn, steady_setLinePower, steady_portDown]

theorem steady_holdAbsent (h : Steady ref s) (p) : Steady ref (holdAbsent s p) := by
  grind [holdAbsent, steady_holdCircuits, steady_dropWaiting, steady_setPort]

theorem steady_failAll (h : Steady ref s) (c hit st) : Steady ref (failAll s c hit st) := by
  grind [failAll, steady_traceSrv, steady_collNonfinite, steady_modCtx, steady_dueStop, steady_foldl]

theorem steady_loseOrigins (h : Steady ref s) (pl c) : Steady ref (loseOrigins pl s c) := by
  grind [loseOrigins, steady_modCtx]

theorem steady_darkPort (h : Steady ref s) (p) : Steady ref (darkPort s p) := by
  grind [darkPort, steady_setPort]

theorem steady_fence (h : Steady ref s) : Steady ref (fence s) := by
  grind [fence, steady_modPkg, steady_setLane, steady_darkPort, steady_modFab, steady_raise, steady_failAll, steady_foldl]

theorem steady_fadeAct (h : Steady ref s) (role v0 v1) : Steady ref (fadeAct s role v0 v1) := by
  grind [fadeAct, steady_startSwap, steady_raise, steady_setLine]

theorem steady_fadeDue (h : Steady ref s) : Steady ref (fadeDue s) := by
  grind [fadeDue, steady_fadeAct, steady_modOpt, steady_foldl]

theorem steady_emitTo (h : Steady ref s) (port cls c dstCtx words bytes carries) :
    Steady ref (emitTo s port cls c dstCtx words bytes carries) := by
  grind [emitTo, steady_emitOn]

theorem steady_sendDisc (h : Steady ref s) (port) : Steady ref (sendDisc s port) := by
  grind [sendDisc, steady_emitTo]

theorem steady_planEpoch (h : Steady ref s) : Steady ref (planEpoch s) := by
  unfold planEpoch
  split
  · split
    · exact h
    · extract_lets old oldSp s₁ s₂ s₃ s₄ before s₅ s₆ s₇ s₈ s₉ s₁₀
      have h₄ : Steady ref s₄ :=
        steady_raise (steady_foldl (fun _ _ hs => steady_setPort hs ..) _ (steady_modOpt (steady_modFab h _) _)) _
      have h₇ : Steady ref s₇ := steady_foldl (fun _ _ hs => steady_holdAbsent hs _) _
        (steady_foldl (fun _ _ hs => steady_laneChange hs ..) _ (steady_foldl (fun _ _ hs => steady_epochCirc hs ..) _ h₄))
      have h₈ : Steady ref s₈ := steady_foldl (fun _ _ hs => steady_failAll (steady_loseOrigins hs ..) ..) _ h₇
      have h₉ : Steady ref s₉ := by
        unfold s₉
        split
        · exact steady_fence h₈
        · exact h₈
      exact steady_foldl (fun _ _ hs => by split; exacts [steady_sendDisc hs _, hs]) _ (steady_fadeDue (steady_retime h₉))
  · exact h

theorem steady_swapPort (h : Steady ref s) (port) : Steady ref (swapPort s port) := by
  grind [swapPort, steady_setPort]

theorem steady_takeHead (h : Steady ref s) (port l) : Steady ref (takeHead s port l).2 := by
  grind [takeHead, steady_setPort]

theorem steady_useLane (h : Steady ref s) (port l n) : Steady ref (useLane s port l n) := by
  grind [useLane, steady_setLane]

theorem steady_send (h : Steady ref s) (t) : Steady ref (send s t) := by
  grind [send, steady_modFab]

theorem steady_sendReplay (h : Steady ref s) (l port) : Steady ref (sendReplay s l port) := by
  unfold sendReplay
  dsimp only
  split
  · exact h
  · split
    · exact steady_setLane h ..
    · exact steady_send (steady_setLane (steady_useLane (steady_takeHead h ..) ..) ..) _

theorem steady_pointCol (h : Steady ref s) (g) : Steady ref (pointCol s g) := by
  grind [pointCol, steady_setLane]

theorem steady_laneSend (h : Steady ref s) (port l n x) : Steady ref (laneSend s port l n x) := by
  unfold laneSend
  dsimp only
  exact steady_send (steady_count (steady_count (steady_setLane (steady_useLane (steady_takeHead h ..) ..) ..) ..) ..) _

theorem steady_sendChunk (h : Steady ref s) (port l id src bs) : Steady ref (sendChunk s port l id src bs) := by
  grind [sendChunk, steady_setPort, steady_count, steady_laneSend]

theorem steady_putHead (h : Steady ref s) (c q) : Steady ref (putHead s c q) := by
  grind [putHead, steady_modCtx]

theorem steady_csendChunk (h : Steady ref s) (port l id c q) : Steady ref (csendChunk s port l id c q) := by
  grind [csendChunk, steady_virtRead, steady_failHead, steady_putHead, steady_sendChunk]

theorem steady_pieceSent (h : Steady ref s) (c hash seq) : Steady ref (pieceSent s c hash seq) := by
  grind [pieceSent, steady_putHead]

theorem steady_partChunk (h : Steady ref s) (port l id w rest) : Steady ref (partChunk s port l id w rest) := by
  grind [partChunk, steady_setCirc, steady_sendChunk, steady_pieceSent]

theorem steady_originChunk (h : Steady ref s) (port l id r) : Steady ref (originChunk s port l id r) := by
  grind [originChunk, steady_csendChunk, steady_partChunk]

theorem steady_transitChunk (h : Steady ref s) (port l id) : Steady ref (transitChunk s port l id) := by
  grind [transitChunk, steady_setCirc, steady_sendChunk]

theorem steady_colSlot (h : Steady ref s) (g) : Steady ref (colSlot s g) := by
  unfold colSlot
  extract_lets l id port s₁ full
  have h₁ : Steady ref s₁ := steady_count h ..
  have hfull (t) (ht : Steady ref t) : Steady ref (full t) := by
    unfold full
    grind [steady_setCirc]
  clear_value s₁ full
  grind [steady_sendReplay, steady_pointCol, steady_sendChunk, steady_modFab, steady_originChunk, steady_transitChunk]

theorem steady_sendHeader (h : Steady ref s) (port l) : Steady ref (sendHeader s port l) := by
  grind [sendHeader, steady_takeHead, steady_send, steady_useLane]

theorem steady_colHeader (h : Steady ref s) (g) : Steady ref (colHeader s g) := by
  grind [colHeader, steady_sendHeader]

theorem steady_emitService (h : Steady ref s) (bytes carries) : ∀ t, emitService s bytes carries = some t → Steady ref t := by
  grind [emitService, steady_emitOn]

theorem steady_lastSent (h : Steady ref s) (o) : Steady ref (lastSent s o) := by
  grind [lastSent, steady_putHead, steady_pieceSent]

theorem steady_routeOwn (h : Steady ref s) (o) : Steady ref (routeOwn s o) := by
  unfold routeOwn
  extract_lets p
  split
  · unfold Option.getD
    split
    · next u hu => exact steady_emitService h _ _ u hu
    · exact h
  · split
    · exact steady_lastSent (steady_send h _) _
    · exact steady_undeliverable h ..
    · next q hq =>
      have hs : Steady ref (if closedNak o.carries then count s q ctNaks 1 else s) := by grind [steady_count]
      grind [steady_emitOn, steady_undeliverable]

theorem steady_routeAll (h : Steady ref s) : Steady ref (routeAll s) := by
  grind [routeAll, steady_routeOwn, steady_modFab, steady_foldl]

theorem steady_serveRedo (h : Steady ref s) (n) : Steady ref (serveRedo n s) := by
  induction n generalizing s with
  | zero => exact h
  | succ n ih =>
    unfold serveRedo
    split
    · exact h
    · exact ih (steady_sendReplay h ..)

theorem steady_ackOnly (h : Steady ref s) (port) : Steady ref (ackOnly s port) := by
  grind [ackOnly, steady_sendHeader]

theorem steady_goPacket (h : Steady ref s) (l port o) : Steady ref (goPacket s l port o) := by
  grind [goPacket, steady_modFab, steady_setPort, steady_setLane, steady_lastSent, steady_release, steady_laneSend]

theorem steady_serveLanes (h : Steady ref s) (n) : Steady ref (serveLanes n s) := by
  induction n generalizing s with
  | zero => exact h
  | succ n ih =>
    unfold serveLanes
    split
    · exact h
    · exact ih (steady_goPacket h ..)

theorem steady_serveOut (h : Steady ref s) : Steady ref (serveOut s) := by
  grind [serveOut, steady_routeAll, steady_serveRedo, steady_ackOnly, steady_serveLanes, steady_foldl]

theorem steady_thermC (h : Steady ref s) (t d) : Steady ref (thermC s t d) := by
  grind [thermC, steady_modReef, Reef.kept, steady_raise]

theorem steady_thermM (h : Steady ref s) (n t) : Steady ref (thermM s n t) := by
  grind [thermM, steady_modReef, Reef.kept, steady_raise]

theorem steady_thermH (h : Steady ref s) (d t) : Steady ref (thermH s d t) := by
  grind [thermH, steady_modReef, Reef.kept, steady_raise, steady_tallyAdd, steady_portDown, steady_calibrate, steady_foldl]

theorem steady_answerWait (h : Steady ref s) (w a) : Steady ref (answerWait s w a) := by
  grind [answerWait, steady_answer, steady_foldl]

theorem steady_takeOver (h : Steady ref s) (c) : Steady ref (takeOver s c) := by
  grind [takeOver, steady_resetRecord, steady_answerWait]

theorem steady_computeReset (h : Steady ref s) (cause fn) : Steady ref (computeReset s cause fn) := by
  grind [computeReset, steady_modPkg, steady_takeOver, steady_enterReset, steady_foldl]

theorem steady_thermalTrip (h : Steady ref s) (kind subj temp limit) : Steady ref (thermalTrip s kind subj temp limit) := by
  grind [thermalTrip, steady_modPkg, steady_modPins, steady_raise, steady_tallyAdd, steady_computeReset]

theorem steady_thermal (h : Steady ref s) (e) : Steady ref (thermal s e) := by
  grind [thermal, steady_thermC, steady_thermM, steady_thermH, steady_thermalTrip, steady_foldl]

theorem steady_oncePerSecond (h : Steady ref s) (code v0 v1) : Steady ref (oncePerSecond s code v0 v1) := by
  grind [oncePerSecond, steady_raise, steady_noteOnce]

theorem steady_raiseRung (h : Steady ref s) (k) : Steady ref (raiseRung s k) := by
  grind [raiseRung, steady_modReef, Reef.kept]

theorem steady_raises (h : Steady ref s) (est n) : Steady ref (raises est n s) := by
  induction n generalizing s with
  | zero => exact h
  | succ n ih => grind [raises, steady_oncePerSecond, steady_raiseRung]

theorem steady_lowerRung (h : Steady ref s) (k) : Steady ref (lowerRung s k) := by
  grind [lowerRung, steady_modReef, Reef.kept]

theorem steady_arbitrate (h : Steady ref s) (brake p1) : Steady ref (arbitrate s brake p1) := by
  grind [arbitrate, steady_modReef, Reef.kept, steady_raises, steady_oncePerSecond, steady_lowerRung]


end Steady

end Sys2Proof.Machine

/-! PROOF. Start-up: where it ends, as its steps come out. -/

namespace Sys2Proof.Machine

section StartUp

/-- The board as start-up finds it: the reset pins high, the rails good, and the link as the environment gives it. -/
def released (s : State) (e : BootEnv) : State :=
  modPkg (modPins s fun p => { p with
    perstN := true, qspiRstN := true, pwrgdAux := true, pwrgdCore := true, plane := Config.plane }) fun p => { p with linkUp := e.linkOk }

/-- What start-up leaves, wherever it ends. -/
structure Released (s : State) (e : BootEnv) (t : State) : Prop where
  perstN : t.pins.perstN = true
  qspiRstN : t.pins.qspiRstN = true
  linkUp : t.pkg.linkUp = e.linkOk
  mastNs : t.clk.mastNs = s.clk.mastNs

theorem Released.of_steady {s t u : State} {e : BootEnv} (h : Released s e t) (k : Steady t u) : Released s e u :=
  ⟨k.perstN.trans h.perstN, k.qspiRstN.trans h.qspiRstN, k.linkUp.trans h.linkUp, (congrArg Clk.mastNs k.clk).trans h.mastNs⟩

theorem released_released (s : State) (e : BootEnv) : Released s e (released s e) := ⟨rfl, rfl, rfl, rfl⟩

/-- Start-up, from the state in which the pins have risen. -/
theorem startUp_eq {s : State} {e : BootEnv} (hp : s.pins.perstN = false) (hm : s.pins.pwrgdMast = true) (ht : s.pins.testN = true) :
    startUp s e =
      (if !e.romOk || !e.linkOk then modPkg (released s e) fun p => { p with bootStep := 0x8001 }
       else if (bootSelect (released s e)).2 = false then
         modPkg (modPkg (bootSelect (released s e)).1 fun p => { p with romService := true }) fun p => { p with bootStep := 0x8002 }
       else if e.halyardOk = false then
         modPkg (modPkg (bootSelect (released s e)).1 fun p => { p with romService := true }) fun p => { p with bootStep := 0x8003 }
       else if boardOk e.boardCfg = false then
         stopBoot (fbCounters (modPkg (bootSelect (released s e)).1 fun p => { p with halyardUp := true })) 3
       else bootRest (modPkg (fbCounters (modPkg (bootSelect (released s e)).1 fun p => { p with halyardUp := true })) fun p =>
         { p with ssIds := BitVec.ofNat 32 (fld e.boardCfg 463 448 * 65536 + fld e.boardCfg 479 464) }) e) := by
  rw [startUp, if_neg (by simp [hp, hm, ht])]
  dsimp only
  split
  · rfl
  · change (match bootSelect (released s e) with | (s, false) => _ | (s, true) => _) = _
    rcases bootSelect (released s e) with ⟨w, b⟩
    cases b
    · rfl
    · cases e.halyardOk <;> cases boardOk e.boardCfg <;> rfl

theorem bootStep_stopBoot (s : State) (step : Nat) : (stopBoot s step).pkg.bootStep = BitVec.ofNat 16 (0x8000 + step) :=
  congrArg Pkg.bootStep (rec_fbAppend ..).pkg

/-- Where the steps behind Halyard's start end. -/
theorem pkg_bootRest (s : State) (e : BootEnv) :
    if e.hbmOk = false then (bootRest s e).pkg.bootStep = 0x8006
    else if e.fillOk = false then (bootRest s e).pkg.bootStep = 0x8007
    else (bootRest s e).pkg.state = 1 ∧ (bootRest s e).pkg.bootStep = 0x000C ∧ (bootRest s e).pkg.computeReset = false
      ∧ (bootRest s e).pkg.hbmUp = true := by
  unfold bootRest
  extract_lets s₁ s₂ s₃ s₄ s₅ s₆ s₇ cause s₈ s₉
  cases e.hbmOk
  · exact bootStep_stopBoot _ _
  cases e.fillOk
  · exact bootStep_stopBoot _ _
  have hpkg : (bootRecord s₉ 0x000C (imVersion (recAt 2048 s₉.boot.image 0)) 0).pkg = s₈.pkg :=
    (rec_fbAppend ..).pkg.trans (rec_resetRecord ..).pkg
  clear_value s₇
  refine ⟨congrArg Pkg.state hpkg, congrArg Pkg.bootStep hpkg, congrArg Pkg.computeReset hpkg, congrArg Pkg.hbmUp hpkg⟩

/-- Settles O31. -/
theorem startUp_holds : Obligations.StartUp := by
  intro s e hp hm ht u
  refine ⟨startUp s e, rfl, ?_⟩
  rw [startUp_eq hp hm ht, show u = released s e from rfl]
  have hbase := released_released s e
  have hsteady := steady_bootSelect (.refl (released s e))
  have hsel : Released s e (bootSelect (released s e)).1 := hbase.of_steady hsteady
  have hrom : (bootSelect (released s e)).1.pkg.romService = s.pkg.romService := hsteady.romService
  generalize bootSelect (released s e) = b at *
  by_cases hfirst : e.romOk = false ∨ e.linkOk = false
  · rw [if_pos (by simpa using hfirst), if_pos hfirst]
    exact ⟨hbase.perstN, hbase.qspiRstN, hbase.linkUp, hbase.mastNs, rfl, rfl⟩
  rw [if_neg (by simpa using hfirst), if_neg hfirst]
  by_cases hb : b.2 = false
  · rw [if_pos hb, if_pos hb]
    exact ⟨hsel.perstN, hsel.qspiRstN, hsel.linkUp, hsel.mastNs, rfl, rfl⟩
  rw [if_neg hb, if_neg hb]
  by_cases hh : e.halyardOk = false
  · rw [if_pos hh, if_pos hh]
    exact ⟨hsel.perstN, hsel.qspiRstN, hsel.linkUp, hsel.mastNs, rfl, rfl⟩
  rw [if_neg hh, if_neg hh]
  have hup : Released s e (modPkg b.1 fun p => { p with halyardUp := true }) :=
    ⟨hsel.perstN, hsel.qspiRstN, hsel.linkUp, hsel.mastNs⟩
  by_cases hc : boardOk e.boardCfg = false
  · rw [if_pos hc, if_pos hc]
    have k := steady_stopBoot (steady_fbCounters (.refl (modPkg b.1 fun p => { p with halyardUp := true }))) 3
    have t := hup.of_steady k
    exact ⟨t.perstN, t.qspiRstN, t.linkUp, t.mastNs, k.halyardUp, bootStep_stopBoot _ _⟩
  rw [if_neg hc, if_neg hc]
  have k := steady_bootRest (steady_modPkg (steady_fbCounters (.refl (modPkg b.1 fun p => { p with halyardUp := true })))
    (fun p => { p with ssIds := BitVec.ofNat 32 (fld e.boardCfg 463 448 * 65536 + fld e.boardCfg 479 464) }) rfl rfl rfl rfl rfl) e
  have t := hup.of_steady k
  exact ⟨t.perstN, t.qspiRstN, t.linkUp, t.mastNs, k.halyardUp, pkg_bootRest _ e⟩

end StartUp

end Sys2Proof.Machine

/-! PROOF. Heater loops: a command moves its loop from the state in which it acts, and from no other. -/

namespace Sys2Proof.Machine

section HeaterLoops
variable {s : State} {die : Fin 2} {m i : Nat}

theorem onLoop_of_state {st : LoopState} (hi : loopIx die m = some i) (h : (getLoop s i).st = st) (f : Nat → HLoop → State) :
    onLoop s die m st f = f i (getLoop s i) := by
  simp [onLoop, hi, h]

theorem onLoop_of_other {st : LoopState} (hi : loopIx die m = some i) (h : (getLoop s i).st ≠ st) (f : Nat → HLoop → State) :
    onLoop s die m st f = s := by
  simp [onLoop, hi, h]

/-- A die has moved by four degrees, as a difference. -/
theorem four_le_diff (a b : Nat) : ((if b ≥ a then b - a else a - b) ≥ 4) = (a + 4 ≤ b ∨ b + 4 ≤ a) := by
  split <;> exact propext ⟨fun _ => by omega, fun _ => by omega⟩

/-- Settles O32. -/
theorem heaterLoops : Obligations.HeaterLoops := by
  intro s die m i l hi hl
  subst hl
  refine ⟨fun peak hst hp => ?_, fun hst => ?_, fun hst => ⟨?_, ?_⟩, fun amps metric hst => ?_, fun amps hst hpil => ?_,
    fun hst => ⟨?_, fun temp => ?_⟩, fun inBand temp hst => ?_, fun hst peak amps temp metric => ?_⟩
  · change Host.Outcome.next (peakFound s die m peak) = _
    rw [peakFound, onLoop_of_state hi hst, if_neg (by simpa using hp)]
  · change Host.Outcome.next (sweepExhausted s die m) = _
    rw [sweepExhausted, onLoop_of_state hi hst]
  · change Host.Outcome.next (lockBandMet s die m) = _
    rw [lockBandMet, onLoop_of_state hi hst]
  · change Host.Outcome.next (acquireTimeout s die m) = _
    rw [acquireTimeout, onLoop_of_state hi hst]
  · intro tone pass bad
    have hexec : exec (.loopVerifyDone die m amps metric) s = .next (if pass then
          moveLoop s i { getLoop s i with st := .locked, fails := 0, peaks := [], tone := tone }
        else if (getLoop s i).fails + 1 ≥ 3 then loopFault (moveLoop s i bad) i 3 else moveLoop s i bad) := by
      change Host.Outcome.next (verifyDone s die m amps metric) = _
      rw [verifyDone, onLoop_of_state hi hst]
    refine ⟨fun hp => ?_, fun hp hf => ?_, fun hp hf => ?_⟩
    · rw [hexec, if_pos hp]
    · rw [hexec, if_neg (by simp [hp]), if_neg (by omega)]
    · rw [hexec, if_neg (by simp [hp]), if_pos (by omega)]
  · change Host.Outcome.next (pilotCheck s die m amps) = _
    rw [pilotCheck, onLoop_of_state hi hst, if_neg (by simp [hpil])]
  · change Host.Outcome.next (lockLost s die m) = _
    rw [lockLost, onLoop_of_state hi hst]
  · change Host.Outcome.next (loopLightLost s die m temp) = _
    rw [loopLightLost, onLoop_of_state hi hst]
  · change Host.Outcome.next (loopLightReturn s die m inBand temp) = _
    rw [loopLightReturn, onLoop_of_state hi hst]
    simp only [four_le_diff]
  · have still {st : LoopState} (h : LoopState.fault ≠ st) (f : Nat → HLoop → State) :
        Host.Outcome.next (onLoop s die m st f) = (.next s : Res_) := by
      rw [onLoop_of_other hi (by rw [hst]; exact h)]
    exact ⟨still (by decide) _, still (by decide) _, still (by decide) _, still (by decide) _, still (by decide) _,
      still (by decide) _, still (by decide) _, still (by decide) _, still (by decide) _⟩

end HeaterLoops

end Sys2Proof.Machine

/-! PROOF. Stay ports and the light rotation, and what a fold leaves that visits each part of a state once. -/

namespace Sys2Proof.Machine

section Visits
variable {σ ι α β : Type} {get : σ → ι → β} {step : σ → α → σ} {key : α → ι} {g : α → β → β} {ok : σ → Prop}

/-- One visit: it keeps an invariant, changes its own part as `g` says and leaves every other part. -/
structure Visit (get : σ → ι → β) (step : σ → α → σ) (key : α → ι) (g : α → β → β) (ok : σ → Prop) (a : α) : Prop where
  keeps : ∀ s, ok s → ok (step s a)
  self : ∀ s, ok s → get (step s a) (key a) = g a (get s (key a))
  other : ∀ s i, ok s → i ≠ key a → get (step s a) i = get s i

theorem Visit.foldl_keeps {l : List α} (h : ∀ a ∈ l, Visit get step key g ok a) {s : σ} (hs : ok s) : ok (l.foldl step s) :=
  List.foldlRecOn l step hs fun _ ht _ ha => (h _ ha).keeps _ ht

theorem Visit.foldl_other {l : List α} (h : ∀ a ∈ l, Visit get step key g ok a) {s : σ} (hs : ok s) {i : ι}
    (hi : ∀ a ∈ l, i ≠ key a) : get (l.foldl step s) i = get s i := by
  induction l generalizing s with
  | nil => rfl
  | cons a l ih =>
    have ha := h a List.mem_cons_self
    rw [List.foldl_cons, ih (fun b hb => h b (List.mem_cons_of_mem _ hb)) (ha.keeps s hs) (fun b hb => hi b (List.mem_cons_of_mem _ hb)),
      ha.other s i hs (hi a List.mem_cons_self)]

theorem Visit.foldl_self {l : List α} (h : ∀ a ∈ l, Visit get step key g ok a) (hl : l.Pairwise fun a b => key a ≠ key b)
    {s : σ} (hs : ok s) {a : α} (ha : a ∈ l) : get (l.foldl step s) (key a) = g a (get s (key a)) := by
  induction l generalizing s with
  | nil => cases ha
  | cons b l ih =>
    have hb := h b List.mem_cons_self
    have hrest : ∀ c ∈ l, Visit get step key g ok c := fun c hc => h c (List.mem_cons_of_mem _ hc)
    obtain ⟨hne, hl⟩ := List.pairwise_cons.1 hl
    rw [List.foldl_cons]
    rcases List.mem_cons.1 ha with rfl | ha
    · rw [Visit.foldl_other hrest (hb.keeps s hs) hne, hb.self s hs]
    · rw [ih hrest hl (hb.keeps s hs) ha, hb.other s _ hs (hne a ha).symm]

end Visits

section StayPorts

/-- Settles O33. -/
theorem stayPortStates : Obligations.StayPortStates := by
  intro s i p x hp hx
  subst hp hx
  have acquired : exec (.stayAcquired i) s = .next (stayAcquired s i) := rfl
  have lost : exec (.stayLightLost i) s = .next (stayLightLost s i) := rfl
  have unlocked : exec (.noLock i) s = .next (noLock s i) := rfl
  have late : exec (.laserSwapTimeout i) s = .next (laserSwapTimeout s i) := rfl
  refine ⟨fun hh hd he hl => ?_, fun hh ha => ?_, fun ha => ?_, fun ht => ?_, fun hw => ?_, fun hn => ?_, fun hd => ⟨?_, ?_, ?_⟩,
    fun v hdown => ?_⟩
  · change Host.Outcome.next (stayLight s i) = _
    have hall : ((laneLoops (16 + i.val)).all fun j => (getLoop s j).st == .locked) = true :=
      List.all_eq_true.2 fun j hj => by rw [hl j hj]; rfl
    rw [stayLight]
    simp only [hh, hd, he, hall, BEq.rfl, Bool.and_self, if_true]
  · rw [acquired, stayAcquired]
    simp only [hh, ha, BEq.rfl, Bool.and_self, if_true]
  · rw [unlocked, noLock]
    simp only [ha, if_true]
  · rw [lost, stayLightLost]
    rcases ht with h | h <;> simp only [h]
  · rw [late, laserSwapTimeout]
    simp only [hw, if_true]
  · rw [lost, stayLightLost]
    rcases hn with h | h | h <;> simp only [h]
  · rw [acquired, stayAcquired]
    simp [hd]
  · rw [unlocked, noLock]
    simp [hd]
  · rw [late, laserSwapTimeout]
    simp [hd]
  · rw [portDown, if_pos hdown]

end StayPorts

section Rotation

theorem moveLoop_hold (s : State) (i : Nat) {l : HLoop} (h : l.st = .hold) : moveLoop s i l = setLoop s i l := by
  unfold moveLoop
  cases loopRecv i <;> simp only [h]

/-- A lane of the rotation's round. -/
def rotated (s : State) (n : Nat) (y : Lane) : Lane :=
  { y with point := if spEn (laneSp s n) && (!y.lost && (laneLoops n).all fun i => (getLoop s i).st != .fault)
    then some (rotationPeer (n % 4) s.optics.rot) else none }

/-- A receive loop that no peer lights in the round holds. -/
def unseen (s : State) (m : Nat) (l : HLoop) : HLoop :=
  if l.st = .locked ∧ rotationSees (m % 28 / 4 + 1) s.optics.rot = false
  then { l with st := .hold, holdT := tget 0 s.reef.hTemp 0 } else l

theorem visit_rotate (s : State) (n : Nat) : Visit getLane
    (fun t n => setLane t n { getLane t n with
      point := if spEn (laneSp t n) && laneUsable t n then some (rotationPeer (n % 4) s.optics.rot) else none })
    id (rotated s) (fun t => t = { s with optics := { s.optics with lanes := t.optics.lanes } }) n := by
  refine ⟨fun t ht => ?_, fun t ht => ?_, fun t i ht hi => getLane_setLane_ne _ _ _ _ hi⟩
  · rw [ht]
    rfl
  · rw [id, getLane_setLane_self, rotated, laneUsable]
    have hsp : laneSp t n = laneSp s n := by rw [ht]; rfl
    have hloop (i) : getLoop t i = getLoop s i := by rw [ht]; rfl
    simp only [hsp, hloop]

/-- One receive loop's part in holding those that the round does not light. -/
def holdOne (r : Nat) (t : State) (m : Nat) : State :=
  if (getLoop t (176 + m)).st == .locked && !rotationSees (m % 28 / 4 + 1) r
  then moveLoop t (176 + m) { getLoop t (176 + m) with st := .hold, holdT := tget 0 t.reef.hTemp 0 } else t

theorem holdUnseen_eq (t : State) (r : Nat) : holdUnseen t r = (List.range 56).foldl (holdOne r) t := by
  unfold holdUnseen holdOne
  rfl

theorem visit_holdOne (s u : State) (hu : u.reef = s.reef) (m : Nat) : Visit getLoop (holdOne s.optics.rot) (176 + ·)
    (unseen s) (fun t => t = { u with optics := { u.optics with loops := t.optics.loops } }) m := by
  have hreef (t : State) (ht : t = { u with optics := { u.optics with loops := t.optics.loops } }) : t.reef = s.reef := by
    rw [ht]
    exact hu
  refine ⟨fun t ht => ?_, fun t ht => ?_, fun t i ht hi => ?_⟩ <;> unfold holdOne
  · split
    · rw [moveLoop_hold _ _ rfl, ht]
      rfl
    · exact ht
  · by_cases h : (getLoop t (176 + m)).st = .locked ∧ rotationSees (m % 28 / 4 + 1) s.optics.rot = false
    · rw [if_pos (by simp [h]), moveLoop_hold _ _ rfl, getLoop_setLoop_self, unseen, if_pos h, hreef t ht]
    · rw [if_neg (by simpa using h), unseen, if_neg h]
  · split
    · rw [moveLoop_hold _ _ rfl]
      exact getLoop_setLoop_ne _ _ _ _ hi
    · rfl

/-- Settles O34. -/
theorem lightRotation : Obligations.LightRotation := by
  intro s hd hf hp
  refine ⟨rotationRound s, rfl, ?_⟩
  have hlanes : ∀ n ∈ List.range 16, _ := fun n _ => visit_rotate s n
  have hrange : (List.range 16).Pairwise fun a b => id a ≠ id b := List.nodup_range
  have h0 : s = { s with optics := { s.optics with lanes := s.optics.lanes } } := rfl
  rw [rotationRound, if_neg (by simp [hd, hf, hp])]
  extract_lets r u
  rw [holdUnseen_eq]
  have hu := Visit.foldl_keeps hlanes h0
  change u = { s with optics := { s.optics with lanes := u.optics.lanes } } at hu
  have hself (n) (hn : n < 16) : getLane u n = rotated s n (getLane s n) :=
    Visit.foldl_self hlanes hrange h0 (List.mem_range.2 hn)
  have hother (n) (hn : 16 ≤ n) : getLane u n = getLane s n :=
    Visit.foldl_other hlanes h0 fun m hm => by have := List.mem_range.1 hm; simp only [id]; omega
  clear_value u
  have hureef : u.reef = s.reef := by rw [hu]
  have hloops : ∀ m ∈ List.range 56, _ := fun m _ => visit_holdOne s u hureef m
  have h1 : u = { u with optics := { u.optics with loops := u.optics.loops } } := rfl
  have hinj : (List.range 56).Pairwise fun a b => 176 + a ≠ 176 + b :=
    List.nodup_range.imp fun h => by omega
  have hv := Visit.foldl_keeps hloops h1
  have hvself (m) (hm : m < 56) : getLoop ((List.range 56).foldl (holdOne s.optics.rot) u) (176 + m) = unseen s m (getLoop u (176 + m)) :=
    Visit.foldl_self hloops hinj h1 (List.mem_range.2 hm)
  have hvother (i) (hi : ∀ m < 56, i ≠ 176 + m) : getLoop ((List.range 56).foldl (holdOne s.optics.rot) u) i = getLoop u i :=
    Visit.foldl_other hloops h1 fun m hm => hi m (List.mem_range.1 hm)
  generalize (List.range 56).foldl (holdOne s.optics.rot) u = v at *
  have huloop (i) : getLoop u i = getLoop s i := by rw [hu]; rfl
  have hvlane (n) : getLane v n = getLane u n := by rw [hv]; rfl
  refine ⟨rfl, fun n hn => ?_, fun n hn => ?_, fun m hm => ?_, fun i hi => ?_, ?_⟩
  · exact (hvlane n).trans (hself n hn)
  · exact (hvlane n).trans (hother n hn)
  · exact (hvself m hm).trans (by rw [huloop]; rfl)
  · exact (hvother i hi).trans (huloop i)
  · rw [hv, hu]
    exact ⟨rfl, rfl, rfl, rfl, rfl, rfl, rfl⟩

end Rotation

end Sys2Proof.Machine

/-! PROOF. Bit fields beside the one that is set, and the laser cartridge's lines. -/

namespace Sys2Proof.Machine

section Fields

/-- Setting the field HI:LO keeps what lies above it and below it. -/
theorem toNat_setFld {w : Nat} (x : BitVec w) {hi lo : Nat} (hlo : lo ≤ hi + 1) (hw : hi + 1 ≤ w) (v : Nat) :
    (setFld x hi lo v).toNat
      = 2 ^ (hi + 1) * (x.toNat / 2 ^ (hi + 1)) + (v % 2 ^ (hi + 1 - lo) * 2 ^ lo + x.toNat % 2 ^ lo) := by
  obtain ⟨k, hk⟩ := Nat.exists_eq_add_of_le hlo
  obtain ⟨j, hj⟩ := Nat.exists_eq_add_of_le hw
  have hM : 0 < 2 ^ k := Nat.two_pow_pos k
  have hB : 0 < 2 ^ lo := Nat.two_pow_pos lo
  have hlt := x.isLt
  have hu := Nat.mod_lt v hM
  rw [setFld, fld, BitVec.toNat_ofNat, Nat.shiftRight_eq_div_pow, show hi + 1 - lo = k by omega]
  have hpow : 2 ^ (hi + 1) = 2 ^ lo * 2 ^ k := by rw [hk, Nat.pow_add]
  have hpow' : 2 ^ w = 2 ^ lo * 2 ^ k * 2 ^ j := by rw [hj, Nat.pow_add, hpow]
  rw [hpow'] at hlt
  rw [hpow, hpow', ← Nat.div_div_eq_div_mul]
  generalize x.toNat = n at *
  generalize v % 2 ^ k = u at *
  generalize 2 ^ lo = B at *
  generalize 2 ^ k = M at *
  generalize 2 ^ j = J at *
  have hn : n = B * (M * (n / B / M) + n / B % M) + n % B := by
    rw [Nat.div_add_mod, Nat.div_add_mod]
  have hsum : n - n / B % M * B + u * B = B * M * (n / B / M) + (u * B + n % B) := by
    have hle : n / B % M * B ≤ n := by
      calc n / B % M * B ≤ n / B * B := Nat.mul_le_mul_right _ (Nat.mod_le _ _)
        _ ≤ n := Nat.div_mul_le_self _ _
    have : B * (M * (n / B / M) + n / B % M) = B * M * (n / B / M) + n / B % M * B := by ring
    omega
  have hr : u * B + n % B < B * M := by
    have := Nat.mod_lt n hB
    have : (u + 1) * B ≤ M * B := Nat.mul_le_mul_right _ hu
    rw [Nat.add_mul, Nat.mul_comm M] at this
    omega
  have hq : n / B / M < J := by
    rw [Nat.div_div_eq_div_mul]
    exact Nat.div_lt_of_lt_mul hlt
  have hbound : B * M * (n / B / M) + (u * B + n % B) < B * M * J := by
    calc B * M * (n / B / M) + (u * B + n % B) < B * M * (n / B / M) + B * M := by omega
      _ = B * M * (n / B / M + 1) := by ring
      _ ≤ B * M * J := Nat.mul_le_mul_left _ hq
  rw [hsum, Nat.mod_eq_of_lt hbound]

/-- What is set and what lies below it together stay below the field's end. -/
theorem field_lt {hi lo : Nat} (hlo : lo ≤ hi + 1) (v n : Nat) :
    v % 2 ^ (hi + 1 - lo) * 2 ^ lo + n % 2 ^ lo < 2 ^ (hi + 1) := by
  have hpow : 2 ^ (hi + 1) = 2 ^ (hi + 1 - lo) * 2 ^ lo := by rw [← Nat.pow_add, Nat.sub_add_cancel hlo]
  have h := Nat.mod_lt n (Nat.two_pow_pos lo)
  have : (v % 2 ^ (hi + 1 - lo) + 1) * 2 ^ lo ≤ 2 ^ (hi + 1 - lo) * 2 ^ lo :=
    Nat.mul_le_mul_right _ (Nat.mod_lt _ (Nat.two_pow_pos _))
  rw [Nat.add_mul] at this
  omega

/-- A field above the one that is set stays. -/
theorem fld_setFld_above {w : Nat} (x : BitVec w) {hi lo hi' lo' : Nat} (hlo : lo ≤ hi + 1) (hw : hi + 1 ≤ w) (h : hi < lo') (v : Nat) :
    fld (setFld x hi lo v) hi' lo' = fld x hi' lo' := by
  obtain ⟨d, rfl⟩ := Nat.exists_eq_add_of_le (Nat.succ_le_of_lt h)
  have hdiv (n : Nat) : n >>> (hi + 1 + d) = n / 2 ^ (hi + 1) / 2 ^ d := by
    rw [Nat.shiftRight_eq_div_pow, Nat.pow_add, Nat.div_div_eq_div_mul]
  rw [fld, fld, hdiv, hdiv, toNat_setFld x hlo hw, Nat.mul_add_div (Nat.two_pow_pos _), Nat.div_eq_of_lt (field_lt hlo _ _), Nat.add_zero]

/-- The field that is set. -/
theorem fld_setFld_self {w : Nat} (x : BitVec w) {hi lo : Nat} (hlo : lo ≤ hi + 1) (hw : hi + 1 ≤ w) (v : Nat) :
    fld (setFld x hi lo v) hi lo = v % 2 ^ (hi + 1 - lo) := by
  have hpow : 2 ^ (hi + 1) = 2 ^ lo * 2 ^ (hi + 1 - lo) := by rw [← Nat.pow_add, Nat.add_sub_cancel' hlo]
  rw [fld, Nat.shiftRight_eq_div_pow, toNat_setFld x hlo hw, hpow, Nat.mul_assoc, Nat.mul_add_div (Nat.two_pow_pos _),
    Nat.mul_add_mod, Nat.mul_comm _ (2 ^ lo), Nat.mul_add_div (Nat.two_pow_pos _), Nat.mod_div_self, Nat.add_zero, Nat.mod_mod]

/-- A field below the one that is set stays. -/
theorem fld_setFld_below {w : Nat} (x : BitVec w) {hi lo hi' lo' : Nat} (hlo : lo ≤ hi + 1) (hw : hi + 1 ≤ w) (h' : lo' ≤ hi')
    (h : hi' < lo) (v : Nat) : fld (setFld x hi lo v) hi' lo' = fld x hi' lo' := by
  have hdvd : 2 ^ lo ∣ 2 ^ (hi + 1) := Nat.pow_dvd_pow 2 hlo
  have hmod : (setFld x hi lo v).toNat % 2 ^ lo = x.toNat % 2 ^ lo := by
    obtain ⟨c, hc⟩ := hdvd
    rw [toNat_setFld x hlo hw, hc, Nat.mul_assoc, Nat.mul_add_mod, Nat.mul_comm _ (2 ^ lo), Nat.mul_add_mod, Nat.mod_mod]
  have hfld (n : Nat) : (n >>> lo') % 2 ^ (hi' + 1 - lo') = ((n % 2 ^ lo) >>> lo') % 2 ^ (hi' + 1 - lo') := by
    obtain ⟨d, rfl⟩ := Nat.exists_eq_add_of_le (Nat.succ_le_of_lt h)
    have hpow : 2 ^ (hi' + 1 + d) = 2 ^ lo' * (2 ^ (hi' + 1 - lo') * 2 ^ d) := by
      rw [← Nat.pow_add, ← Nat.pow_add]
      congr 1
      omega
    rw [Nat.shiftRight_eq_div_pow, Nat.shiftRight_eq_div_pow, Nat.succ_eq_add_one, hpow, Nat.mod_mul_right_div_self,
      Nat.mod_mul_right_mod]
  rw [fld, fld, hfld, hmod, ← hfld]

end Fields

section LaserLines

/-- What a poll does with the reading of one line. -/
def pollOne (rs : List (BitVec 128)) (s : State) (n : Nat) : State :=
  match rs[n]? with
  | none => s
  | some r =>
    let l := getLine s n
    let q := setFld r 47 32 (lcComm l)
    if fld r 95 92 = 5 ∧ lcState l ≠ 5 then
      lineFailed (setLine s n { l with lc := setFld (setFld q 95 92 (lcState l)) 103 96 (lcRole l) }) n
    else setLine s n { l with lc := q }

theorem pollOne_of_none {rs : List (BitVec 128)} {n : Nat} (h : rs[n]? = none) (s : State) : pollOne rs s n = s := by
  simp [pollOne, h]

theorem pollOne_of_some {rs : List (BitVec 128)} {n : Nat} {r : BitVec 128} (h : rs[n]? = some r) {s : State}
    (hf : fld r 95 92 = 5 → lcState (getLine s n) = 5) :
    pollOne rs s n = setLine s n { getLine s n with lc := setFld r 47 32 (lcComm (getLine s n)) } := by
  simp only [pollOne, h]
  exact if_neg fun ⟨h5, hne⟩ => hne (hf h5)

theorem linePoll_eq {s : State} (h : s.pkg.cartOk = true) (rs : List (BitVec 128)) :
    linePoll s rs = (List.range 32).foldl (pollOne rs) s := by
  rw [linePoll, if_pos h]
  congr 1
  funext t n
  unfold pollOne
  cases rs[n]? with
  | none => rfl
  | some r =>
    by_cases hc : fld r 95 92 = 5 ∧ lcState (getLine t n) ≠ 5
    · have hb : (fld r 95 92 == 5 && lcState (getLine t n) != 5) = true := by simpa using hc
      simp only [hb, if_true, if_pos hc]
    · have hb : (fld r 95 92 == 5 && lcState (getLine t n) != 5) = false := by simpa using hc
      simp only [hb, Bool.false_eq_true, if_false, if_neg hc]

/-- A poll reads as many lines as it has readings. -/
theorem linePoll_eq_length {s : State} (h : s.pkg.cartOk = true) {rs : List (BitVec 128)} (hrs : rs.length ≤ 32) :
    linePoll s rs = (List.range rs.length).foldl (pollOne rs) s := by
  rw [linePoll_eq h, show 32 = rs.length + (32 - rs.length) by omega, List.range_add, List.foldl_append]
  refine List.foldlRecOn (motive := fun t => t = _) _ _ rfl fun t ht n hn => ?_
  obtain ⟨k, -, rfl⟩ := List.mem_map.1 hn
  rw [ht, pollOne_of_none (List.getElem?_eq_none (Nat.le_add_right _ _))]

theorem linePoll_snoc {s : State} (h : s.pkg.cartOk = true) {rs : List (BitVec 128)} (hrs : rs.length < 32) (r : BitVec 128) :
    linePoll s (rs ++ [r]) = pollOne (rs ++ [r]) (linePoll s rs) rs.length := by
  have hlen : (rs ++ [r]).length = rs.length + 1 := List.length_append
  have hsame : (List.range rs.length).foldl (pollOne (rs ++ [r])) s = (List.range rs.length).foldl (pollOne rs) s :=
    List.foldl_ext _ _ _ fun t n hn => by
      rw [pollOne, pollOne, List.getElem?_append_left (List.mem_range.1 hn)]
  rw [linePoll_eq_length h (by omega), hlen, List.range_succ, List.foldl_append, hsame, ← linePoll_eq_length h (by omega)]
  rfl

/-- No reading says FAILED of a line that is not. -/
def NoneFails (rs : List (BitVec 128)) (s : State) : Prop :=
  ∀ n < 32, ∀ r, rs[n]? = some r → fld r 95 92 = 5 → lcState (getLine s n) = 5

theorem visit_pollOne (rs : List (BitVec 128)) (s : State) {n : Nat} (hn : n < 32) : Visit getLine (pollOne rs) id
    (fun n l => match rs[n]? with
      | some r => { l with lc := setFld r 47 32 (lcComm l) }
      | none => l)
    (fun t => t = { s with optics := { s.optics with lines := t.optics.lines } } ∧ NoneFails rs t) n := by
  cases hr : rs[n]? with
  | none =>
    refine ⟨fun t ht => ?_, fun t _ => ?_, fun t i _ _ => ?_⟩
    · rwa [pollOne_of_none hr]
    · rw [pollOne_of_none hr, id, hr]
    · rw [pollOne_of_none hr]
  | some r =>
    refine ⟨fun t ht => ?_, fun t ht => ?_, fun t i ht hi => ?_⟩
    · rw [pollOne_of_some hr (ht.2 n hn r hr)]
      refine ⟨?_, fun m hm q hq h5 => ?_⟩
      · rw [ht.1]
        rfl
      · by_cases hmn : m = n
        · subst hmn
          obtain rfl : r = q := Option.some.inj (hr.symm.trans hq)
          rw [getLine_setLine_self, lcState, fld_setFld_above _ (by omega) (by omega) (by omega), h5]
        · rw [getLine_setLine_ne _ _ _ _ hmn]
          exact ht.2 m hm q hq h5
    · rw [pollOne_of_some hr (ht.2 n hn r hr), id, getLine_setLine_self, hr]
    · rw [pollOne_of_some hr (ht.2 n hn r hr)]
      exact getLine_setLine_ne _ _ _ _ hi

/-- A poll in which no line fails. -/
theorem linePoll_of_noneFails {s : State} {rs : List (BitVec 128)} (hc : s.pkg.cartOk = true) (hf : NoneFails rs s) :
    linePoll s rs = { s with optics := { s.optics with lines := (linePoll s rs).optics.lines } }
    ∧ (∀ n < 32, ∀ r, rs[n]? = some r →
      getLine (linePoll s rs) n = { getLine s n with lc := setFld r 47 32 (lcComm (getLine s n)) })
    ∧ ∀ n, 32 ≤ n ∨ rs[n]? = none → getLine (linePoll s rs) n = getLine s n := by
  have hv : ∀ n ∈ List.range 32, _ := fun n hn => visit_pollOne rs s (List.mem_range.1 hn)
  have hs : s = { s with optics := { s.optics with lines := s.optics.lines } } ∧ NoneFails rs s := ⟨rfl, hf⟩
  have hnd : (List.range 32).Pairwise fun a b => id a ≠ id b := List.nodup_range
  rw [linePoll_eq hc]
  refine ⟨(Visit.foldl_keeps hv hs).1, fun n hn r hr => ?_, fun n hn => ?_⟩
  · have := Visit.foldl_self hv hnd hs (List.mem_range.2 hn)
    simpa only [id, hr] using this
  · by_cases h : n < 32
    · have := Visit.foldl_self hv hnd hs (List.mem_range.2 h)
      simpa only [id, hn.resolve_left (by omega)] using this
    · exact Visit.foldl_other hv hs fun m hm => by have := List.mem_range.1 hm; simp only [id]; omega

/-- Settles O36. -/
theorem laserLines : Obligations.LaserLines := by
  intro s
  have poll (rs) : exec (.lcLinePoll rs) s = .next (linePoll s rs) := rfl
  have commis (n : Fin 32) (tap) : exec (.commissioning n tap) s = .next (commissioning s n.val tap) := rfl
  refine ⟨fun rs hc hf => ?_, fun rs r u hc hlen hu => ?_, fun n tap h3 h8 => ?_, fun n tap h8 => ?_, rfl, fun role off amps w hw => ?_,
    fun role w hw => ?_, fun n hc => ?_, fun t hc ht => ?_, fun t ht => ?_⟩
  · obtain ⟨hrest, hread, hkept⟩ := linePoll_of_noneFails hc hf
    refine ⟨_, poll rs, hread, hkept, ?_⟩
    rw [hrest]
    exact ⟨rfl, rfl, rfl⟩
  · rw [poll]
    obtain rfl : linePoll s rs = u := by simpa [poll] using hu
    rw [linePoll_snoc hc hlen]
    exact congrArg _ (by simp only [pollOne, List.getElem?_concat_length])
  · rw [commis, commissioning]
    exact congrArg _ (if_pos ⟨h3, h8⟩)
  · rw [commis, commissioning]
    exact congrArg _ (if_neg fun h => h8 h.2)
  · have hexec : exec (.spareTuned role ⟨off, amps⟩) s = .next (spareTuned s role.val off amps) := rfl
    intro u up
    refine ⟨fun hl => ?_, fun hl => ?_⟩
    · rw [hexec, spareTuned]
      simp only [hw, hl, if_true]
      rfl
    · rw [hexec, spareTuned]
      simp only [hw, hl, Bool.false_eq_true, if_false]
      rfl
  · change Host.Outcome.next (swapSlot s role.val) = _
    rw [swapSlot]
    simp only [hw]
  · have hexec : exec (.lineFailed n) s = .next (lineFailed s n.val) := rfl
    intro role u
    refine ⟨fun h3 => ?_, fun h3 hr => ?_⟩
    · rw [hexec, lineFailed]
      simp only [hc, Bool.not_true, Bool.false_eq_true, if_false, h3, false_and]
      rfl
    · intro v
      rw [hexec, lineFailed, if_neg (by simp [hc])]
      extract_lets
      exact congrArg Host.Outcome.next (if_pos ⟨h3, hr⟩)
  · change Host.Outcome.next (caseTemp s t) = _
    rw [caseTemp, if_pos (by simp [hc, ht])]
  · change Host.Outcome.next (caseTemp s t) = _
    rw [caseTemp, if_neg (by simp; omega)]

end LaserLines

end Sys2Proof.Machine

/-! PROOF. The interval boundary of the Reef controller. -/

namespace Sys2Proof.Machine

section Interval

theorem rec_applyPolicy (s : State) : ∃ r, Rec { s with reef := r } (applyPolicy s) := by
  unfold applyPolicy
  split
  · exact ⟨s.reef, .refl s⟩
  · exact ⟨_, rec_raise _ _⟩

/-- The policy bank in force once a pending policy is taken. -/
def polTaken (r : Reef) : Bank (BitVec 128) := if r.polPend then ⟨r.pol.sha, r.pol.act⟩ else r.pol

theorem kept_applyPolicy (s : State) :
    (applyPolicy s).reef.kept = ((polTaken s.reef, false), (s.reef.bmcCap, s.reef.bmcForce), s.reef.k, s.reef.estHist) := by
  unfold applyPolicy
  cases h : s.reef.polPend
  · simp [Reef.kept, polTaken, h]
  · simp only [Bool.not_true, Bool.false_eq_true, if_false, (rec_raise _ _).reef, polTaken, h, if_true]
    rfl

theorem reef_oncePerSecond (s : State) (code v0 v1 : Nat) : (oncePerSecond s code v0 v1).reef = s.reef := by
  unfold oncePerSecond
  split
  · exact (rec_raise _ _).reef
  · rfl

theorem droopUp_raises (est n : Nat) (s : State) : (raises est n s).reef.droopUp = s.reef.droopUp := by
  induction n generalizing s with
  | zero => rfl
  | succ n ih =>
    unfold raises
    split
    · rw [reef_oncePerSecond]
    · rw [ih, raiseRung, modReef]
      dsimp only
      split
      · rfl
      · split <;> rfl

theorem droopUp_arbitrate (s : State) (brake : Bool) (p1 : XVal) : (arbitrate s brake p1).reef.droopUp = s.reef.droopUp := by
  unfold arbitrate
  dsimp only
  split
  · rfl
  · split
    · rw [droopUp_raises, reef_oncePerSecond]
      rfl
    · split
      · rw [droopUp_raises]
        rfl
      · split
        · split
          · rfl
          · split
            · unfold lowerRung
              dsimp only [modReef]
              split
              · rfl
              · split <;> rfl
            · rfl
        · rfl

theorem arbitrate_of_brake (s : State) (p1 : XVal) : arbitrate s true p1 = modReef s fun r => { r with
    rungC := topRung s.reef.pol.act, rungM := 16 - rpMemMin s.reef.pol.act, belowRun := 0 } := by
  rw [arbitrate]
  exact if_pos rfl

/-- PWR_STAT and the rung in force do not read PWR_STAT, nor what follows the rung, nor the mirror. -/
theorem pwrStat_samplePkg (s : State) (v : BitVec 64) (tj hbm : Nat) :
    pwrStat (samplePkg (modReef s fun r => { r with stat := v })) tj hbm = pwrStat s tj hbm := rfl

theorem rungC_samplePkg (s : State) (v : BitVec 64) : rungC (samplePkg (modReef s fun r => { r with stat := v })) = rungC s := rfl

theorem rungC_setLevel (s : State) (l w : Reef → Nat) : rungC (modReef s fun r => { r with level := l r, dvfsWant := w r }) = rungC s := rfl

/-- Settles O37. -/
theorem intervalBoundary_sets : Obligations.IntervalBoundary := by
  intro s e hp
  refine ⟨intervalBoundary s e, rfl, ?_⟩
  obtain ⟨r₀, hrec⟩ := rec_applyPolicy s
  have hkept := kept_applyPolicy s
  have hclk := hrec.clk
  have hpins := hrec.pins
  have hpkg := hrec.pkg
  have hmirror := hrec.mirror
  dsimp only at hclk hpins hpkg hmirror
  rw [intervalBoundary, if_neg (by simp [hp])]
  extract_lets s₁ s₂ s₃ p₁ s₄ c s₅ s₆ s₇ c' s₈
  have h₃ : Steady s₂ s₃ := steady_thermal (.refl s₂) e
  have hk₂ : s₂.reef.kept = ((polTaken s.reef, false), (s.reef.bmcCap, s.reef.bmcCap), s.reef.k, s.reef.estHist) := by
    have hb : s₁.reef.bmcCap = s.reef.bmcCap := congrArg (fun x => x.2.1.1) hkept
    change ((s₁.reef.pol, s₁.reef.polPend), (s₁.reef.bmcCap, s₁.reef.bmcCap), s₁.reef.k, s₁.reef.estHist) = _
    rw [hb]
    exact congrArg (fun x => (x.1, (s.reef.bmcCap, s.reef.bmcCap), x.2.2)) hkept
  have hk₃ := h₃.reef.trans hk₂
  clear_value s₃
  have hp₁ : p₁ = estimate s e.p1 := by
    have : s₃.reef.k = s.reef.k := congrArg (fun x => x.2.2.1) hk₃
    unfold p₁ estimate
    rw [this]
  have hk₅ : s₅.reef.kept = ((polTaken s.reef, false), (s.reef.bmcCap, s.reef.bmcCap), s.reef.k,
      (estFloor 1000 (estimate s e.p1) :: s.reef.estHist).take 488) := by
    have hk₄ : s₄.reef.kept = ((polTaken s.reef, false), (s.reef.bmcCap, s.reef.bmcCap), s.reef.k,
        (estFloor 1000 (estimate s e.p1) :: s.reef.estHist).take 488) := by
      rw [← hp₁]
      exact congrArg (fun x => (x.1, x.2.1, x.2.2.1, (estFloor 1000 p₁ :: x.2.2.2).take 488)) hk₃
    unfold s₅
    split
    · exact hk₄
    · exact hk₄
  have hd₅ : s₅.reef.droopUp = false := by
    unfold s₅
    split
    · rfl
    next h => exact Bool.eq_false_iff.2 h
  have hrest₅ : s₅.clk = s.clk ∧ s₅.pins.brakeN = s.pins.brakeN ∧ s₅.pkg.brakeLatch = s.pkg.brakeLatch ∧ s₅.mirror = s.mirror := by
    have hrest₃ : s₃.clk = s.clk ∧ s₃.pins.brakeN = s.pins.brakeN ∧ s₃.pkg.brakeLatch = s.pkg.brakeLatch ∧ s₃.mirror = s.mirror :=
      ⟨h₃.clk.trans hclk, h₃.brakeN.trans (congrArg Pins.brakeN hpins), h₃.brakeLatch.trans (congrArg Pkg.brakeLatch hpkg),
        h₃.mirror.trans hmirror⟩
    unfold s₅
    split <;> exact hrest₃
  have h₆ : Steady s₅ s₆ := steady_arbitrate (.refl s₅) _ _
  have hk₆ := h₆.reef.trans hk₅
  have hd₆ : s₆.reef.droopUp = false := (droopUp_arbitrate _ _ _).trans hd₅
  have hbrake (h : s.pkg.brakeLatch = true ∨ s.pins.brakeN = false) :
      s₆.reef.rungC = topRung s₆.reef.pol.act ∧ s₆.reef.rungM = 16 - rpMemMin s₆.reef.pol.act ∧ s₆.reef.belowRun = 0 := by
    have hb : (s₅.pkg.brakeLatch || !s₅.pins.brakeN) = true := by
      rw [hrest₅.2.1, hrest₅.2.2.1]
      simpa using h
    unfold s₆
    rw [hb, arbitrate_of_brake]
    exact ⟨rfl, rfl, rfl⟩
  clear_value s₆
  have hpol : s₆.reef.pol = polTaken s.reef := congrArg (fun x => x.1.1) hk₆
  have hforce : s₆.reef.bmcForce = s.reef.bmcCap := congrArg (fun x => x.2.1.2) hk₆
  have hcap : s₆.reef.bmcCap = s.reef.bmcCap := congrArg (fun x => x.2.1.1) hk₆
  have hpend : s₆.reef.polPend = false := congrArg (fun x => x.1.2) hk₆
  have hhist : s₆.reef.estHist = (estFloor 1000 (estimate s e.p1) :: s.reef.estHist).take 488 := congrArg (fun x => x.2.2.2) hk₆
  have hgen : s₆.mirror.gen = s.mirror.gen := congrArg Mirror.gen (h₆.mirror.trans hrest₅.2.2.2)
  have hrung : rungC s₈ = rungC s₇ := rungC_setLevel s₇ _ _
  refine ⟨hpol, hpend, hforce, hcap, hd₆, rfl, hhist, hbrake, ?_, ?_, ?_, ?_, rfl, rfl, rfl, rfl, rfl, rfl, rfl, rfl, rfl, rfl, rfl, rfl,
    h₆.brakeN.trans hrest₅.2.1, h₆.clk.trans hrest₅.1⟩
  · rw [rungC_samplePkg, hrung]
    rfl
  · rw [rungC_samplePkg, hrung]
    rfl
  · rw [pwrStat_samplePkg]
    rfl
  · exact congrArg (· + 2) hgen

end Interval

end Sys2Proof.Machine

/-! PROOF. Calibration, clock steps, droop, the margin trim, floors and PWR_BRAKE_N. -/

namespace Sys2Proof.Machine

section MarginTrim

/-- Entry k of a margin table. -/
def marginEntry (t : BitVec 64) (k : Nat) : Nat := fld t (8 * k + 7) (8 * k)

theorem visit_moveEntry (m : Int) {k : Nat} (hk : k < 5) : Visit marginEntry
    (fun t k => setFld t (8 * k + 7) (8 * k) (moveEntry (fld t (8 * k + 7) (8 * k)) m)) id (fun _ v => moveEntry v m % 256)
    (fun _ => True) k := by
  refine ⟨fun _ _ => trivial, fun t _ => ?_, fun t i _ hi => ?_⟩
  · rw [id, marginEntry, fld_setFld_self _ (by omega) (by omega), marginEntry, show 8 * k + 7 + 1 - 8 * k = 8 by omega,
      show 2 ^ 8 = 256 by rfl]
  · rw [id] at hi
    rw [marginEntry, marginEntry]
    rcases Nat.lt_or_gt_of_ne hi with h | h
    · exact fld_setFld_below _ (by omega) (by omega) (by omega) (by omega) _
    · exact fld_setFld_above _ (by omega) (by omega) (by omega) _

theorem marginEntry_moveTable (t : BitVec 64) (m : Int) {k : Nat} (hk : k < 5) :
    marginEntry (moveTable t m) k = moveEntry (marginEntry t k) m % 256 := by
  have hv : ∀ k ∈ List.range 5, _ := fun k hk => visit_moveEntry m (List.mem_range.1 hk)
  have hnd : (List.range 5).Pairwise fun a b => id a ≠ id b := List.nodup_range
  rw [moveTable]
  refine (Visit.foldl_self hv hnd trivial (List.mem_range.2 hk)).trans ?_
  rw [id, marginEntry, fld_setFld_below _ (by omega) (by omega) (by omega) (by omega), ← marginEntry]

/-- An entry that no move is due for stays, unless it stands above 0.85 V. -/
theorem moveEntry_zero {v : Nat} (hv : v < 256) : moveEntry v 0 % 256 = if v = 0xFF ∨ v ≤ 100 then v else 0xFF := by
  unfold moveEntry
  split
  · simp [*]
  · dsimp only
    split
    · rw [if_neg (by omega)]
    · rw [if_pos (by omega), Int.add_zero, Int.toNat_natCast, Nat.mod_eq_of_lt hv]

/-- A die whose slack needs no move. -/
theorem trimDie_of_still (s : State) (d : Nat) {e : TrimEnv} (hlo : 5 ≤ e.slack) (hhi : e.slack ≤ 8) (hr : e.ring = e.slack) :
    trimDie s d e = modReef s fun r => { r with vtab := tput r.vtab d (moveTable (tget vtabReset r.vtab d) 0) } := by
  have h1 : ¬ 8 < e.slack := by omega
  simp [trimDie, hr, Nat.not_lt.2 hlo, h1]

/-- A trim of both dies in which no move is due. -/
theorem reef_marginTrim {s : State} (hp : s.pins.perstN = true) {e0 e1 : TrimEnv} (l0 : 5 ≤ e0.slack) (u0 : e0.slack ≤ 8)
    (l1 : 5 ≤ e1.slack) (u1 : e1.slack ≤ 8) (r0 : e0.ring = e0.slack) (r1 : e1.ring = e1.slack) :
    (marginTrim s [e0, e1]).reef = { s.reef with
      trimNs := s.clk.mastNs
      vtab := tput (tput s.reef.vtab 0 (moveTable (tget vtabReset s.reef.vtab 0) 0)) 1 (moveTable (tget vtabReset s.reef.vtab 1) 0) } := by
  rw [marginTrim, if_neg (by simp [hp])]
  extract_lets u v old w
  have hu : u = trimDie (trimDie s 0 e0) 1 e1 := rfl
  have hw : Rec v w := .ite (rec_reasonOn _ _) (.refl _)
  have ht : Rec v (if old 16 then reasonOn w 6 else w) := hw.trans (.ite (rec_reasonOn _ _) (.refl _))
  rw [ht.reef]
  unfold v
  rw [hu, trimDie_of_still _ _ l1 u1 r1, trimDie_of_still _ _ l0 u0 r0]
  have hother : tget vtabReset (tput s.reef.vtab 0 (moveTable (tget vtabReset s.reef.vtab 0) 0)) 1 = tget vtabReset s.reef.vtab 1 :=
    tget_tput_ne _ _ _ (by decide)
  simp only [modReef, hother]
  rfl

end MarginTrim

section PowerCommands

theorem mgtIn_of_served {s : State} (hp : s.pins.perstN = true) (hh : s.pkg.halyardUp = true) (f : State → State) :
    mgtIn s f = f s := by
  simp [mgtIn, hp, hh]

theorem setStep_of_usable {s : State} {want k : Nat} (h : usableStep s want = (k, false)) :
    setStep s want = modReef s fun r => { r with dvfsStep := k, marginLow := false } := by
  simp [setStep, h]

/-- Settles O38. -/
theorem powerCommands : Obligations.PowerCommands := by
  intro s
  have calib (milli) : exec (.calibration milli) s = .next (calibrateK s milli) := rfl
  refine ⟨fun milli hp h h' => ?_, fun milli hp h ho => ?_, fun milli hp h ho => ?_, fun hp hs => ?_, fun k hp hc hu => ?_,
    fun d j hj hc => ?_, fun hst => ?_, fun hst => ?_, fun e0 e1 hp l0 u0 l1 u1 r0 r1 => ?_, rfl, fun level ms hp hh hl hm hm' => ?_,
    rfl, rfl⟩
  · rw [calib, calibrateK, if_neg (by simp [hp]), if_pos ⟨h, h'⟩]
    rfl
  · rw [calib, calibrateK, if_neg (by simp [hp]), if_neg (by omega), if_neg (by simp [modReef, ho])]
    rfl
  · rw [calib, calibrateK, if_neg (by simp [hp]), if_neg (by omega), if_pos (by simp [modReef, ho])]
  · change Host.Outcome.next (calStale s) = _
    rw [calStale, if_neg (by simp [hp, hs])]
  · change Host.Outcome.next (dvfsChange s k.val) = _
    rw [dvfsChange, if_neg (by simp [hp, hc]), if_pos (by rw [hu]), setStep_of_usable hu]
    rfl
  · change Host.Outcome.next (droop s d.val j.val) = _
    rw [droop, if_neg (by simp [hj, hc])]
  · change Host.Outcome.next (stretchFall s) = _
    rw [stretchFall, if_neg hst]
    rfl
  · change Host.Outcome.next (droopSustained s) = _
    rw [droopSustained, if_neg (by omega)]
  · refine ⟨marginTrim s [e0, e1], rfl, ?_⟩
    rw [reef_marginTrim hp l0 u0 l1 u1 r0 r1]
    refine ⟨rfl, fun d hd k hk => ?_⟩
    have entry (t : BitVec 64) : marginEntry (moveTable t 0) k
        = if marginEntry t k = 0xFF ∨ marginEntry t k ≤ 100 then marginEntry t k else 0xFF := by
      rw [marginEntry_moveTable t 0 hk]
      refine moveEntry_zero (lt_of_lt_of_eq (fld_lt _ _ _) ?_)
      rw [show 8 * k + 7 + 1 - 8 * k = 8 by omega]
      rfl
    obtain rfl | rfl : d = 0 ∨ d = 1 := by omega
    · rw [tget_tput_ne _ _ _ (by decide), tget_tput_self]
      exact entry _
    · rw [tget_tput_self]
      exact entry _
  · change Host.Outcome.next (if level ≤ 15 ∧ 1 ≤ ms ∧ ms ≤ 60000 then mgtIn s fun s => setPartFloor s level ms else s) = _
    rw [if_pos ⟨hl, hm, hm'⟩, mgtIn_of_served hp hh]
    rfl

end PowerCommands

end Sys2Proof.Machine

/-! PROOF. A slot of plan time: what it always does, and an idle one. -/

namespace Sys2Proof.Machine

section PlanSlot
variable {ref s : State}

/-- The clock one slot on. -/
def nextSlot (s : State) : State := { s with clk := { s.clk with planSlot := s.clk.planSlot + 1, mastNs := s.clk.mastNs + 128 } }

theorem slotAdvance_eq (hp : s.pins.perstN = true) : slotAdvance s =
    (let u := (List.range 8).foldl (fun s i => swapPort s (7 + i)) (newSlot (planEpoch (timePasses (nextSlot s) s.clk.mastNs)))
     let now := (planSegs u).filter fun g => sgKind g == 1 && sgCovers u 0 g
     now.foldl colHeader (serveOut (now.foldl colSlot (now.foldl (fun s g => if s.pkg.fenced then s else pointCol s g) u)))) := by
  rw [slotAdvance, if_neg (by simp [hp])]
  rfl

theorem steady_slotAdvance (hp : s.pins.perstN = true) : Steady (nextSlot s) (slotAdvance s) := by
  rw [slotAdvance_eq hp]
  extract_lets u now
  have hu : Steady (nextSlot s) u := steady_foldl (fun _ _ h => steady_swapPort h _) _
    (steady_newSlot (steady_planEpoch (steady_timePasses (.refl _) _)))
  have hpoint : Steady (nextSlot s) (now.foldl (fun s g => if s.pkg.fenced then s else pointCol s g) u) :=
    steady_foldl (fun _ _ h => by split; exacts [h, steady_pointCol h _]) _ hu
  exact steady_foldl (fun _ _ h => steady_colHeader h _) _ (steady_serveOut (steady_foldl (fun _ _ h => steady_colSlot h _) _ hpoint))

theorem restartOver_of_none (h : s.pkg.restart = none) : restartOver s = s := by
  simp [restartOver, h]

theorem restartOver_of_running {r : Restart} (h : s.pkg.restart = some r) (hr : s.clk.mastNs < r.endNs) : restartOver s = s := by
  simp [restartOver, h, hr]

/-- A restart that is over: nothing steady changes but the restart. -/
theorem steady_restartOver_of_over {r : Restart} (h : s.pkg.restart = some r) (hr : r.endNs ≤ s.clk.mastNs) :
    Steady (modPkg s fun p => { p with restart := none }) (restartOver s) := by
  rw [restartOver, h]
  dsimp only
  rw [if_neg (Nat.not_lt.2 hr)]
  refine steady_foldl (fun _ _ h => steady_answerUnknown h _) _ ?_
  have htold : Steady (modPkg s fun p => { p with restart := none })
      ((escalate (s.hal.evq.foldl takeEvent (modHal (modPkg s fun p => { p with restart := none }) fun h => { h with evq := [] })) r.cause).1) :=
    steady_escalate (steady_foldl (fun _ _ h => steady_takeEvent h _) _ (steady_modHal (.refl _) _)) _
  split
  · exact steady_goOos (steady_raise (steady_tallyAdd (steady_resetRecord htold ..) ..) _)
  · exact steady_raise (steady_tallyAdd (steady_resetRecord htold ..) ..) _

theorem clk_restartOver (s : State) : (restartOver s).clk = s.clk := by
  cases h : s.pkg.restart with
  | none => rw [restartOver_of_none h]
  | some r =>
    by_cases hr : s.clk.mastNs < r.endNs
    · rw [restartOver_of_running h hr]
    · exact (steady_restartOver_of_over h (Nat.le_of_not_lt hr)).clk

end PlanSlot

section IdleSlot
variable {s : State}

theorem bookOnly_timePasses (s : State) (old : Nat) : BookOnly s (timePasses s old) := by
  unfold timePasses
  extract_lets crossed s₁
  split
  · exact .refl s
  · exact (bookOnly_modHal s _ rfl).trans (bookOnly_fbInPlace ..)

/-- No plan is active or pending, nothing waits to be sent, no lane points, and no port swaps its laser or owes a header. -/
structure IdleFabric (s : State) : Prop where
  planA : s.fab.planA = none
  pendT : s.fab.pendT = none
  inject : s.fab.inject = []
  outq : s.fab.outq = []
  lanes : ∀ n < 24, (getLane s n).own = [] ∧ (getLane s n).redo = []
  points : ∀ n < 16, (getLane s n).point = none ∧ (getLane s n).seen = [] ∧ (getLane s n).prev = []
  ports : ∀ p < 15, (getPort s p).swapAt = none ∧ (getPort s p).retrain = none ∧ owesHeader s p = false

theorem planEpoch_of_none (h : s.fab.pendT = none) : planEpoch s = s := by
  simp [planEpoch, h]

theorem swapPort_of_none {p : Nat} (h : (getPort s p).swapAt = none) (h' : (getPort s p).retrain = none) : swapPort s p = s := by
  simp [swapPort, h, h']

theorem foldl_self {α β : Type} {f : α → β → α} {x : α} (l : List β) (h : ∀ b ∈ l, f x b = x) : l.foldl f x = x :=
  List.foldlRecOn (motive := fun y => y = x) l f rfl fun _ hy b hb => hy ▸ h b hb

theorem IdleFabric.newSlot (h : IdleFabric s) : newSlot s = s := by
  have howns : (List.range 24).foldl (fun t n =>
      let y := getLane t n
      if y.own.isEmpty || (laneSeg t (planSegs s) n 0).isSome then t else setLane t n { y with own := (0 :: y.own).take 16 }) s = s :=
    foldl_self _ fun n hn => by
      dsimp only
      rw [(h.lanes n (List.mem_range.1 hn)).1]
      rfl
  rw [Machine.newSlot, howns]
  refine foldl_self _ fun n hn => ?_
  obtain ⟨hp, hs, hv⟩ := h.points n (List.mem_range.1 hn)
  simp [hp, hs, hv]

theorem IdleFabric.routeAll (h : IdleFabric s) : routeAll s = s := by
  have hf : ({ s.fab with inject := [] } : Fabric) = s.fab := by rw [← h.inject]
  rw [Machine.routeAll, h.inject, modFab, hf]
  rfl

theorem IdleFabric.serveRedo (h : IdleFabric s) (n : Nat) : serveRedo n s = s := by
  cases n with
  | zero => rfl
  | succ n =>
    have hnone : ((List.range 24).findSome? fun l => (getLane s l).redo.findSome? fun e =>
        if mayRedo s l e.1 e.2 then some (l, e.1) else none) = none :=
      List.findSome?_eq_none_iff.2 fun l hl => by rw [(h.lanes l (List.mem_range.1 hl)).2]; rfl
    rw [Machine.serveRedo, hnone]

theorem IdleFabric.serveLanes (h : IdleFabric s) (n : Nat) : serveLanes n s = s := by
  cases n with
  | zero => rfl
  | succ n =>
    have hnone (l : Nat) : nextFor s l = none :=
      List.findSome?_eq_none_iff.2 fun ch _ => List.findSome?_eq_none_iff.2 fun port _ => by simp [h.outq]
    have hall : ((List.range 24).findSome? fun l => (nextFor s l).map fun e => (l, e)) = none :=
      List.findSome?_eq_none_iff.2 fun l _ => by rw [hnone]; rfl
    rw [Machine.serveLanes, hall]

theorem IdleFabric.serveOut (h : IdleFabric s) : serveOut s = s := by
  rw [Machine.serveOut]
  rw [h.routeAll, h.serveRedo, h.serveLanes]
  refine foldl_self _ fun p hp => ?_
  obtain ⟨-, -, ho⟩ := h.ports p (List.mem_range.1 hp)
  simp [ackOnly, ho]

/-- An idle slot: only what Halyard counts over time. -/
theorem slotAdvance_of_idle {u : State} (hu : timePasses (nextSlot s) s.clk.mastNs = u) (hp : s.pins.perstN = true) (h : IdleFabric u) :
    slotAdvance s = u := by
  have hswap : (List.range 8).foldl (fun s i => swapPort s (7 + i)) u = u := foldl_self _ fun i hi => by
    have hi := List.mem_range.1 hi
    obtain ⟨hs, hr, -⟩ := h.ports (7 + i) (by omega)
    exact swapPort_of_none hs hr
  have hsegs : planSegs u = [] := by simp [planSegs, h.planA]
  rw [slotAdvance_eq hp, hu, planEpoch_of_none h.pendT, h.newSlot, hswap]
  dsimp only
  simp only [hsegs, List.filter_nil, List.foldl_nil]
  exact h.serveOut

/-- What Halyard counts leaves the fabric and the package. -/
theorem timePasses_eq (s : State) (old : Nat) : ∃ h, timePasses s old = { s with hal := h } :=
  ⟨_, (bookOnly_timePasses s old).rest⟩

/-- Settles O39: the two folds over the segments in force and the header service run over empty lists. -/
theorem planSlotAdvances : Obligations.PlanSlotAdvances := by
  intro s hp
  refine ⟨⟨slotTick s, rfl, ?_⟩, fun hA hT hi ho hr hl hl' hports => ?_⟩
  · rw [slotTick, clk_restartOver, (steady_slotAdvance hp).clk]
    rfl
  · change Host.Outcome.next (slotTick s) = .next (timePasses (nextSlot s) s.clk.mastNs)
    obtain ⟨b, hu⟩ := timePasses_eq (nextSlot s) s.clk.mastNs
    have hidle : IdleFabric { nextSlot s with hal := b } := ⟨hA, hT, hi, ho, hl, hl', hports⟩
    rw [slotTick, slotAdvance_of_idle hu hp hidle, hu]
    exact congrArg Host.Outcome.next (restartOver_of_none hr)

end IdleSlot

end Sys2Proof.Machine

/-! PROOF. What a read of memory leaves (R256), health reasons, the flush of the Field book, a Trim restart and the patrol scrub. -/

namespace Sys2Proof.Machine

section Logged
variable {ref s t : State}

/-- Memory but for the books kept of its errors. -/
def Memory.unlogged (m : Memory) : Memory :=
  { m with errs := [], rowCe := [], lineCe := [], remapQ := [], cnt := [], lastUe := none }

/-- Only the books of errors, and what a record or an event changes (`Rec`). -/
structure Logged (ref s : State) : Prop where
  rest : { ref with host := s.host, fns := s.fns, msix := s.msix, hal := s.hal, mem := s.mem,
                    fab := { ref.fab with tx := s.fab.tx, inject := s.fab.inject } } = s
  mem : s.mem.unlogged = ref.mem.unlogged
  fns : ∀ n, (getFn s n).quiet = (getFn ref n).quiet

theorem Logged.refl (s : State) : Logged s s := ⟨rfl, rfl, fun _ => rfl⟩

theorem Logged.ofRec (h : Logged ref s) (k : Rec s t) : Logged ref t := by
  refine ⟨?_, by rw [k.mem, h.mem], fun n => (k.fns n).trans (h.fns n)⟩
  have h1 := h.rest
  have k1 := k.rest
  rw [← k1, ← h1]

theorem Logged.trans {u : State} (h : Logged s t) (k : Logged t u) : Logged s u := by
  refine ⟨?_, k.mem.trans h.mem, fun n => (k.fns n).trans (h.fns n)⟩
  have h1 := h.rest
  have k1 := k.rest
  rw [← k1, ← h1]

theorem Logged.ctxs (h : Logged ref s) : s.ctxs = ref.ctxs := by rw [← h.rest]
theorem Logged.tiles (h : Logged ref s) : s.tiles = ref.tiles := by rw [← h.rest]
theorem Logged.units (h : Logged ref s) : s.units = ref.units := by rw [← h.rest]
theorem Logged.pkg (h : Logged ref s) : s.pkg = ref.pkg := by rw [← h.rest]
theorem Logged.clk (h : Logged ref s) : s.clk = ref.clk := by rw [← h.rest]
theorem Logged.turns (h : Logged ref s) : s.turns = ref.turns := by rw [← h.rest]
theorem Logged.fab (h : Logged ref s) : s.fab = { ref.fab with tx := s.fab.tx, inject := s.fab.inject } := by rw [← h.rest]
theorem Logged.getCtx (h : Logged ref s) (c : CtxId) : Machine.getCtx s c = Machine.getCtx ref c := by
  rw [Machine.getCtx, h.ctxs, Machine.getCtx]
theorem Logged.bytes (h : Logged ref s) : s.mem.bytes = ref.mem.bytes := (congrArg Memory.bytes h.mem :)
theorem Logged.upset (h : Logged ref s) : s.mem.upset = ref.mem.upset := (congrArg Memory.upset h.mem :)
theorem Logged.marked (h : Logged ref s) : s.mem.marked = ref.mem.marked := (congrArg Memory.marked h.mem :)
theorem Logged.bwin (h : Logged ref s) : s.mem.bwin = ref.mem.bwin := (congrArg Memory.bwin h.mem :)
theorem Logged.byteAt (h : Logged ref s) (a : Nat) : byteAt s a = byteAt ref a := by
  rw [Machine.byteAt, h.bytes, Machine.byteAt]

theorem logged_of_mem (h : Logged ref s) (ht : { s with mem := t.mem } = t) (hm : t.mem.unlogged = s.mem.unlogged) : Logged ref t := by
  refine ⟨?_, hm.trans h.mem, fun n => ?_⟩
  · have h1 := h.rest
    rw [← ht, ← h1]
  · rw [← h.fns n, ← ht]
    rfl

theorem rec_tallyAdd (s : State) (n lenNs limit item : Nat) (distinct : Bool) : Rec s (tallyAdd s n lenNs limit item distinct) := by
  unfold tallyAdd
  exact .ite ((rec_modHal _ _).trans (rec_reasonOn _ _)) (rec_modHal _ _)

theorem logged_ceCount (h : Logged ref s) (a p) : Logged ref (ceCount s a p).1 := logged_of_mem h rfl rfl

theorem logged_remapEnq (h : Logged ref s) (row) : Logged ref (remapEnq s row).1 := by
  unfold remapEnq
  extract_lets st
  split
  · exact h
  · split
    · exact h
    · split
      · exact h.ofRec (rec_reasonOn _ _)
      · exact logged_of_mem h rfl rfl

theorem logged_logErr (h : Logged ref s) (rd a cls pos syn pass) : Logged ref (logErr s rd a cls pos syn pass) := by
  unfold logErr
  split
  next source unit sec _ =>
  extract_lets c c' s₁ s₂ s₃
  have h₁ : Logged ref s₁ := logged_of_mem h rfl rfl
  have h₂ : Logged ref s₂ := by
    unfold s₂
    split
    exacts [h₁.ofRec (rec_tallyAdd ..), h₁]
  have h₃ : Logged ref s₃ := by
    unfold s₃
    split
    exacts [h₂.ofRec (rec_tallyAdd ..), h₂]
  clear_value s₃
  have h₄ : Logged ref (if isHbm a ∧ cls = 0 then ceCount s₃ a pass else (s₃, cls != 0 && isHbm a)).1 := by
    split
    · exact logged_ceCount h₃ ..
    · exact h₃
  split
  next s₄ q heq =>
    rw [heq] at h₄
    have h₅ : Logged ref (if q && rd.kind != 3 then remapEnq s₄ (rowOf a) else (s₄, 0)).1 := by
      split
      · exact logged_remapEnq h₄ _
      · exact h₄
    split
    next s₅ remap heq₅ =>
      rw [heq₅] at h₅
      split
      · extract_lets old s₆ rm
        have h₆ : Logged ref s₆ := logged_of_mem h₅ rfl rfl
        exact h₆.ofRec (rec_fbInPlace ..)
      · extract_lets fl body s₆
        have h₆ : Logged ref s₆ := by
          unfold s₆
          split
          exacts [h₅.ofRec (rec_tallyAdd ..), h₅]
        split
        · split
          exacts [h₅, h₅.ofRec (rec_fbAppend ..)]
        · next row rest _ =>
          extract_lets s₇ s₈
          have h₇ : Logged ref s₇ := logged_of_mem h₆ rfl rfl
          have h₈ : Logged ref s₈ := by
            unfold s₈
            split
            exacts [h₇, h₇.ofRec (rec_modHal _ _)]
          exact h₈.ofRec (rec_fbInPlace ..)

theorem logged_readLoc {r : State × Option MemBad} (h : Logged ref r.1) (rd many u) : Logged ref (readLoc rd many r u).1 := by
  unfold readLoc
  split
  · exact h
  · exact logged_logErr h ..

/-- A read of memory changes only the books of errors. -/
theorem logged_memRead (h : Logged ref s) (rd a n) : Logged ref (memRead s rd a n).1 := by
  have hl (us : List (Nat × List (Nat × Byte))) (b : Bool) : Logged ref (us.foldl (readLoc rd b) (s, none)).1 :=
    List.foldlRecOn (motive := fun (r : State × Option MemBad) => Logged ref r.1) us _ h fun r hr u _ => logged_readLoc hr rd b u
  unfold memRead
  extract_lets us bs
  split
  · exact h
  · have hu := hl us (decide (1 < failing us))
    split
    next t bad heq =>
      rw [heq] at hu
      split
      exacts [logged_of_mem hu rfl rfl, hu]

end Logged

section Health
variable (s : State)

/-- The reasons that health rests on are set by `setReasons` alone. -/
theorem health_fbAppend (typ rows : Nat) (body : List Byte) : (fbAppend s typ rows body).hal.health = s.hal.health := by
  unfold fbAppend
  dsimp only
  split <;> rfl

theorem health_eventLog (e : Event) : (eventLog s e).hal.health = s.hal.health := by
  unfold eventLog
  split
  · rfl
  · split
    · split
      · exact health_fbAppend ..
      · dsimp only
        split
        · rfl
        · exact health_fbAppend ..
    · split
      · exact health_fbAppend ..
      · split
        · exact health_fbAppend ..
        · rfl

theorem hal_msixSignal (n : CtxId) (v : Nat) : (msixSignal s n v).hal = s.hal := by
  unfold msixSignal
  dsimp only
  split <;> rfl

theorem hal_announce (n : CtxId) : (announce s n).hal = s.hal := by
  unfold announce
  extract_lets f i free
  split
  · exact hal_msixSignal ..
  · rfl

theorem hal_ringWrite (n : CtxId) (e : Event) : (ringWrite s n e).hal = s.hal := by
  unfold ringWrite
  extract_lets f drop nxt a top u v w
  have hw : w.hal = s.hal := hal_announce v n
  clear_value w
  split
  · rfl
  · split
    · rfl
    · split
      · rfl
      · split
        · rw [hal_msixSignal, hw]
        · exact hw

theorem health_eventOut (e : Event) : (eventOut s e).hal.health = s.hal.health := by
  unfold eventOut
  extract_lets u
  have hu : u.hal.health = s.hal.health := by
    unfold u
    split <;> rfl
  split
  · exact hu
  · exact List.foldlRecOn (motive := fun (t : State) => t.hal.health = s.hal.health) _ _ hu fun t ht n _ => by rw [hal_ringWrite, ht]

theorem health_raise (e : Event) : (raise s e).hal.health = s.hal.health := by
  unfold raise
  split
  · rw [modHal]
    split <;> rfl
  · have hmgt (u : State) : (eventMgt u e).hal = u.hal := by
      unfold eventMgt
      split <;> rfl
    rw [takeEvent, hmgt, health_eventOut, health_eventLog]

theorem healthClass_lt (r : Nat) : healthClass r < 4 :=
  List.foldlRecOn (motive := fun m => m < 4) _ _ (by omega) fun m hm n hn => by
    have hr : ∀ n < 15, reasonClass n < 4 := by decide
    have := hr n (List.mem_range.1 (List.mem_of_mem_filter hn))
    omega

/-- What `setReasons` leaves in the health register but for the days in the class. -/
theorem health_setReasons {r : Nat} (hr : r < 2 ^ 15) :
    fld (setReasons s r).hal.health 29 15 = r ∧ fld (setReasons s r).hal.health 31 30 = healthClass r := by
  unfold setReasons
  extract_lets old cls days s₁ s₂
  have hcls : cls < 4 := healthClass_lt r
  have hdays : days < 2 ^ 15 := by
    unfold days
    split
    exacts [fld_lt old 14 0, by omega]
  have h₂ : s₂.hal.health = BitVec.ofNat 32 (cls * 2 ^ 30 + r * 2 ^ 15 + days) := by
    unfold s₂
    split <;> rfl
  have hfld : fld s₂.hal.health 29 15 = r ∧ fld s₂.hal.health 31 30 = cls := by
    rw [h₂, fld_ofNat (by omega), fld_ofNat (by omega)]
    omega
  split
  · exact hfld
  · rw [health_raise]
    exact hfld

theorem sub_two_pow_lt {r n : Nat} (hr : r < 2 ^ 15) : r - 2 ^ n < 2 ^ 15 := Nat.lt_of_le_of_lt (Nat.sub_le ..) hr

theorem reasonOff_active {n : Nat} (h : fld s.hal.health 29 15 >>> n % 2 = 1) :
    fld (reasonOff s n).hal.health 29 15 = fld s.hal.health 29 15 - 2 ^ n
      ∧ fld (reasonOff s n).hal.health 31 30 = healthClass (fld (reasonOff s n).hal.health 29 15) := by
  rw [reasonOff, if_pos h]
  obtain ⟨hr, hc⟩ := health_setReasons s (sub_two_pow_lt (n := n) (fld_lt s.hal.health 29 15))
  exact ⟨hr, by rw [hc, hr]⟩

end Health

section Flush

/-- The flush writes nothing but the mark byte of each waiting row. -/
theorem cget_marked (rows : List Nat) (m : Cells) {a : Nat} (ha : ∀ r ∈ rows, a ≠ 64 * r + 20) :
    cget 0 (rows.foldl (fun m r => cwrite m (64 * r + 20) [cget 0 m (64 * r + 20) ||| 0x80]) m) a = cget 0 m a :=
  List.foldlRecOn (motive := fun t => cget 0 t a = cget 0 m a) _ _ rfl fun t ht r hr => by
    have := ha r hr
    rw [cget_cwrite_out _ _ _ _ (by simp only [List.length_singleton]; omega), ht]

theorem fbFlush_of_served {s : State} (hh : s.pkg.halyardUp = true) (hr : s.pkg.restart = none) : fbFlush s = modHal s fun h =>
    let fb := h.dirty.foldl (fun m r => cwrite m (64 * r + 20) [cget 0 m (64 * r + 20) ||| 0x80]) h.fb
    { h with fb := fb, flash := fb, dirty := [] } := by
  rw [fbFlush, if_neg (by simp [hh, restarting, hr])]

end Flush

section TrimRestart
variable (s : State)

/-- A loop that is re-acquired. -/
def reacquired (l : HLoop) : HLoop := if l.st = .fault then l else { l with st := .acquire }

def reacquire (t : State) (i : Nat) : State :=
  if (getLoop t i).st = .fault then t else moveLoop t i { getLoop t i with st := .acquire }

theorem moveLoop_eq (i : Nat) (l : HLoop) :
    ∃ f, moveLoop s i l = { setLoop s i l with optics := { (setLoop s i l).optics with fresh := f } } := by
  unfold moveLoop
  dsimp only
  split <;> exact ⟨_, rfl⟩

theorem getLoop_moveLoop_self (i : Nat) (l : HLoop) : getLoop (moveLoop s i l) i = l := by
  obtain ⟨f, h⟩ := moveLoop_eq s i l
  rw [h]
  exact getLoop_setLoop_self ..

theorem getLoop_moveLoop_ne (i j : Nat) (l : HLoop) (h : j ≠ i) : getLoop (moveLoop s i l) j = getLoop s j := by
  obtain ⟨f, hf⟩ := moveLoop_eq s i l
  rw [hf]
  exact getLoop_setLoop_ne _ _ _ _ h

theorem visit_reacquire (i : Nat) : Visit getLoop reacquire id (fun _ => reacquired) (fun t => { t with optics := s.optics } = s) i := by
  refine ⟨fun t ht => ?_, fun t _ => ?_, fun t j _ hj => ?_⟩ <;> unfold reacquire
  · split
    · exact ht
    · obtain ⟨f, hf⟩ := moveLoop_eq t i { getLoop t i with st := .acquire }
      rw [hf]
      exact ht
  · by_cases h : (getLoop t i).st = .fault
    · rw [if_pos h, id, reacquired, if_pos h]
    · rw [if_neg h, id, getLoop_moveLoop_self, reacquired, if_neg h]
  · split
    · rfl
    · exact getLoop_moveLoop_ne _ _ _ _ hj

theorem trimRestart_eq (die : Fin 2) (hp : s.pins.perstN = true) :
    Rec ((allLoops.filter fun i => i / 1024 == die.val).foldl reacquire s) (trimRestart s die) := by
  rw [trimRestart, if_neg (by simp [hp])]
  exact ((rec_resetRecord ..).trans (rec_tallyAdd ..)).trans (rec_raise ..)

theorem allLoops_pairwise : allLoops.Pairwise fun a b => id a ≠ id b := by
  unfold allLoops
  refine List.pairwise_append.2 ⟨List.nodup_range, (List.pairwise_map.2 (List.nodup_range.imp ?_)), ?_⟩
  · intro a b h
    simpa using h
  · intro a ha b hb
    obtain ⟨c, -, rfl⟩ := List.mem_map.1 hb
    have := List.mem_range.1 ha
    simp only [id]
    omega

theorem trimRestart_loops (die : Fin 2) (hp : s.pins.perstN = true) : ∃ t, exec (.trimRestart die) s = .next t
    ∧ (∀ i ∈ allLoops, i / 1024 = die.val → (getLoop t i).st = if (getLoop s i).st = .fault then .fault else .acquire)
    ∧ (∀ i ∈ allLoops, i / 1024 ≠ die.val → getLoop t i = getLoop s i) ∧ t.mem = s.mem ∧ t.ctxs = s.ctxs := by
  have hrec := trimRestart_eq s die hp
  have hvisit : ∀ i ∈ allLoops.filter fun i => i / 1024 == die.val, Visit getLoop reacquire id (fun _ => reacquired)
    (fun t => { t with optics := s.optics } = s) i := fun i _ => visit_reacquire s i
  have hkept := Visit.foldl_keeps hvisit (s := s) rfl
  have hloop (i : Nat) : getLoop (trimRestart s die) i =
      getLoop ((allLoops.filter fun i => i / 1024 == die.val).foldl reacquire s) i := by rw [getLoop, hrec.optics, getLoop]
  refine ⟨trimRestart s die, rfl, fun i hi hd => ?_, fun i hi hd => ?_, ?_, ?_⟩
  · have hself := Visit.foldl_self hvisit (allLoops_pairwise.filter _) (s := s) rfl (a := i) (List.mem_filter.2 ⟨hi, by simpa using hd⟩)
    rw [hloop, show getLoop _ i = reacquired (getLoop s i) from hself, reacquired]
    split
    · assumption
    · rfl
  · rw [hloop]
    refine Visit.foldl_other hvisit (s := s) rfl fun j hj hij => hd ?_
    rw [show i = j from hij]
    simpa using (List.mem_filter.1 hj).2
  · rw [hrec.mem]
    exact (congrArg State.mem hkept :)
  · rw [hrec.ctxs]
    exact (congrArg State.ctxs hkept :)

end TrimRestart

section Scrub
variable (s : State)

/-- A scrub read flips stored symbols and keeps the books of errors: no byte and no context changes. -/
theorem scrub_keeps (addr : Nat) (upset : List (Nat × Byte)) (pass : Nat) :
    (scrub s addr upset pass).mem.bytes = s.mem.bytes ∧ (scrub s addr upset pass).ctxs = s.ctxs := by
  unfold scrub
  extract_lets a ok u
  have hu : u.mem.bytes = s.mem.bytes ∧ u.ctxs = s.ctxs := by
    unfold u
    split <;> exact ⟨rfl, rfl⟩
  clear_value u
  split
  · exact ⟨rfl, rfl⟩
  · split
    · exact hu
    · split
      · exact hu
      · next v _ _ cls pos _ =>
        have hkey (t : State) (ht : Logged u t) : t.mem.bytes = s.mem.bytes ∧ t.ctxs = s.ctxs :=
          ⟨ht.bytes.trans hu.1, ht.ctxs.trans hu.2⟩
        have hlog := logged_logErr (.refl u) ⟨1, none⟩ a cls pos (if isHbm a then lineSynField v.2 else byteSyn v.2) (some pass)
        dsimp only
        split
        · exact hkey _ hlog
        · exact hkey _ (hlog.ofRec (rec_raise ..))

/-- A place in a line that no stored symbol is wrong in reads clean. -/
theorem scrub_clean {addr : Nat} {pass : Nat} (ha : isHbm addr = true)
    (hno : (s.mem.upset.find? fun u => u.1 == addr - addr % 64) = none) : scrub s addr [] pass = s := by
  simp only [scrub, ha, if_true, List.isEmpty_nil, hno, ite_self]

theorem lineClass_nil : lineClass [] = .clean := by decide

/-- A line that reads with a correctable error after a flip is logged. -/
theorem scrub_correctable {addr k p pass : Nat} {a : Nat} {upset old new : List (Nat × Byte)} (ha : a = addr - addr % 64)
    (hb : isHbm addr = true) (hb' : isHbm a = true) (hk : place a = some (.hbm k)) (hup : s.pkg.hbmUp = true) (hne : upset ≠ [])
    (ho : old = (match s.mem.upset.find? fun u => u.1 == a with | some u => u.2 | none => [])) (hn : new = upset.foldl (flipSym a) old)
    (hl : lineClass new = .ce p) :
    scrub s addr upset pass = logErr (modMem s fun m => { m with upset := (a, new) :: m.upset.filter fun u => u.1 != a })
      ⟨1, none⟩ a 0 p (lineSynField new) (some pass) := by
  have hnew : new.isEmpty = false := by
    cases hnil : new with
    | nil => rw [hnil, lineClass_nil] at hl; cases hl
    | cons => rfl
  have hups : upset.isEmpty = false := by simpa using hne
  have hpat : patClass a new = .ce p := by rw [patClass, if_pos hb', hl]
  unfold scrub
  cases hf : s.mem.upset.find? fun u => u.1 == a with
  | none | some =>
    simp only [hf] at ho
    subst ho
    simp only [hb, if_true, ← ha, hk, hup, hups, modMem, Bool.not_true, Bool.false_eq_true, if_false, hf, ← hn, hnew,
      List.singleton_append, List.find?_cons, beq_self_eq_true, hpat, clsCode, hb']

end Scrub

/-- Settles O40. -/
theorem healthFlushScrub : Obligations.HealthFlushScrub := by
  refine ⟨fun s => ⟨fun n hc ha => ?_, fun n hd => ?_, fun n hd => ?_, fun hh hr => ?_, fun die hp => trimRestart_loops s die hp⟩,
    fun s addr upset pass => ⟨?_, fun a p k old new ha hb hb' hk hup hne ho hn hl => ?_, fun a ha hb hno => ?_⟩⟩
  · refine ⟨reasonOff s n, ?_, (reasonOff_active s ha).1, (reasonOff_active s ha).2, (rec_reasonOff ..).mem, (rec_reasonOff ..).ctxs,
      (rec_reasonOff ..).reef⟩
    change Host.Outcome.next (reasonClear s n) = _
    rw [reasonClear, if_pos hc]
  · change Host.Outcome.next (msixModeration s n) = _
    rw [msixModeration]
    simp only [hd, if_true]
  · change Host.Outcome.next (msixModeration s n) = _
    rw [msixModeration]
    simp [hd]
  · refine ⟨fbFlush s, rfl, ?_⟩
    rw [fbFlush_of_served hh hr]
    exact ⟨rfl, rfl, rfl, fun a ha => cget_marked s.hal.dirty s.hal.fb ha⟩
  · obtain ⟨hbytes, hctxs⟩ := scrub_keeps s addr.toNat upset pass
    exact ⟨_, rfl, fun a => by rw [byteAt, hbytes, byteAt], hctxs⟩
  · exact congrArg Host.Outcome.next (scrub_correctable s ha hb hb' hk hup hne ho hn hl)
  · subst ha
    exact congrArg Host.Outcome.next (scrub_clean s hb hno)

end Sys2Proof.Machine

/-! PROOF. What the update units, the movers' lines and a read leave: everything but memory, the update units and the records. -/

namespace Sys2Proof.Machine

section Works
variable {ref s t : State}

/-- Only memory, the update units and what a record or an event changes (`Rec`). -/
structure Works (ref s : State) : Prop where
  rest : { ref with host := s.host, fns := s.fns, msix := s.msix, hal := s.hal, mem := s.mem, units := s.units,
                    fab := { ref.fab with tx := s.fab.tx, inject := s.fab.inject } } = s
  fns : ∀ n, (getFn s n).quiet = (getFn ref n).quiet

theorem Works.refl (s : State) : Works s s := ⟨rfl, fun _ => rfl⟩

theorem Works.trans {u : State} (h : Works s t) (k : Works t u) : Works s u := by
  refine ⟨?_, fun n => (k.fns n).trans (h.fns n)⟩
  have h1 := h.rest
  have k1 := k.rest
  rw [← k1, ← h1]

theorem Works.ofLogged (h : Works ref s) (k : Logged s t) : Works ref t := by
  refine h.trans ⟨?_, k.fns⟩
  have k1 := k.rest
  rw [← k1]

theorem Works.ofRec (h : Works ref s) (k : Rec s t) : Works ref t := h.ofLogged ((Logged.refl s).ofRec k)

theorem works_of_eq (h : Works ref s) (ht : { s with mem := t.mem, units := t.units } = t) : Works ref t := by
  refine h.trans ⟨?_, fun n => ?_⟩
  · rw [← ht]
  · rw [← ht]
    rfl

theorem Works.ctxs (h : Works ref s) : s.ctxs = ref.ctxs := by rw [← h.rest]
theorem Works.tiles (h : Works ref s) : s.tiles = ref.tiles := by rw [← h.rest]
theorem Works.pkg (h : Works ref s) : s.pkg = ref.pkg := by rw [← h.rest]
theorem Works.clk (h : Works ref s) : s.clk = ref.clk := by rw [← h.rest]
theorem Works.pins (h : Works ref s) : s.pins = ref.pins := by rw [← h.rest]
theorem Works.turns (h : Works ref s) : s.turns = ref.turns := by rw [← h.rest]
theorem Works.getCtx (h : Works ref s) (c : CtxId) : Machine.getCtx s c = Machine.getCtx ref c := by
  rw [Machine.getCtx, h.ctxs, Machine.getCtx]
theorem Works.busy (h : Works ref s) (n : CtxId) : (getFn s n).busy = (getFn ref n).busy := (congrArg Func.busy (h.fns n) :)
theorem Works.post (h : Works ref s) (n : CtxId) : (getFn s n).post = (getFn ref n).post := (congrArg Func.post (h.fns n) :)

theorem works_foldl_by {α β : Type} (g : β → State) {f : β → α → β} (hf : ∀ r x, Works ref (g r) → Works ref (g (f r x))) (l : List α)
    {r : β} (h : Works ref (g r)) : Works ref (g (l.foldl f r)) :=
  List.foldlRecOn (motive := fun r => Works ref (g r)) l f h fun r hr x _ => hf r x hr

theorem works_foldl_fst {α β : Type} {f : State × β → α → State × β} (hf : ∀ (r : State × β) x, Works ref r.1 → Works ref (f r x).1)
    (l : List α) {r : State × β} (h : Works ref r.1) : Works ref (l.foldl f r).1 := works_foldl_by Prod.fst hf l h

theorem works_foldl {α : Type} {f : State → α → State} (hf : ∀ s x, Works ref s → Works ref (f s x)) (l : List α) (h : Works ref s) :
    Works ref (l.foldl f s) := works_foldl_by id hf l h

theorem works_memWrite (h : Works ref s) (a bs) : Works ref (memWrite s a bs) := works_of_eq h rfl

theorem works_memZero (h : Works ref s) (a n) : Works ref (memZero s a n) := works_of_eq h rfl

theorem works_setUnit (h : Works ref s) (u x) : Works ref (setUnit s u x) := works_of_eq h rfl

theorem works_memRead (h : Works ref s) (rd a n) : Works ref (memRead s rd a n).1 := h.ofLogged (logged_memRead (.refl s) rd a n)

theorem works_virtWrite (h : Works ref s) (x ret va bs) : Works ref (virtWrite s x ret va bs) := by
  grind [virtWrite, works_memWrite, works_foldl]

theorem works_lineIn (h : Works ref s) (c q va bs) : Works ref (lineIn s c q va bs).1 := by
  grind [lineIn, works_virtWrite]

theorem works_runIn {r : State × SrvReq} (h : Works ref r.1) (c p) : Works ref (runIn c r p).1 :=
  works_foldl_fst (fun _ _ hr => works_lineIn hr ..) _ h

theorem works_walkGo (rd ls) (h : Works ref s) : Works ref (walkGo rd ls s).1 := by
  induction ls generalizing s with
  | nil => exact h
  | cons l r ih => grind [walkGo, works_memRead, works_memWrite]

theorem works_walk (h : Works ref s) (rd x ret va) : Works ref (walk s rd x ret va).1 := by
  grind [walk, works_walkGo]

theorem works_virtReadGo (h : Works ref s) (rd x ret ps) : Works ref (virtReadGo rd x ret ps s).1 := by
  induction ps generalizing s with
  | nil => exact h
  | cons p r ih =>
    have hw := works_walk h rd x ret p.1
    unfold virtReadGo
    split
    · exact h
    · next t ht =>
      split
      · exact h
      · split
        · next u hu => rw [hu] at hw; exact hw
        · next u hu =>
          rw [hu] at hw
          have hm := works_memRead hw rd (localPart t.addr) p.2
          split
          · next v _ hv => rw [hv] at hm; exact hm
          · next v _ hv =>
            rw [hv] at hm
            have := ih hm
            split <;> simp_all

theorem works_virtRead (h : Works ref s) (rd x ret va n) : Works ref (virtRead s rd x ret va n).1 := by
  grind [virtRead, works_virtReadGo]

theorem works_reqRead (h : Works ref s) (c q va n) : Works ref (reqRead s c q va n).1 := by
  grind [reqRead, works_virtRead]

theorem works_loadVec (h : Works ref s) (c q r n) : Works ref (loadVec s c q r n).1 := by
  unfold loadVec
  extract_lets d f k get
  have hget (a g) (ha : Works ref a.1) : Works ref (get a g).1 := by
    unfold get
    grind [works_reqRead]
  clear_value get
  have hl (gs : List (Nat × Nat)) : Works ref (gs.foldl get (s, .ok [])).1 := works_foldl_fst hget gs h
  have hg := hl ((vecRuns d f k).map fun g => (usElem r + g.1, g.2))
  split <;> rename_i hq <;> rw [hq] at hg
  · exact hg
  · rename_i u bs
    have hs := hget (u, .ok []) (usScale r + k * vecScales f, vecScales f) hg
    split
    · split <;> rename_i hq <;> rw [hq] at hs <;> exact hs
    · exact hg

theorem works_updOne {r : URun} (h : Works ref r.s) (c w) : Works ref (updOne c r w).s := by
  have hl (ps : List (Nat × List Byte)) : Works ref (ps.foldl (runIn c) (r.s, r.q)).1 :=
    works_foldl_fst (fun _ _ hr => works_runIn hr ..) ps h
  grind [updOne, works_loadVec, works_setUnit]

theorem works_updPasses {r : URun} (h : Works ref r.s) (c body n) : Works ref (updPasses c body n r).s := by
  induction n generalizing r with
  | zero => exact h
  | succ n ih =>
    unfold updPasses
    split
    · exact h
    · exact ih (works_foldl_by URun.s (fun _ _ hr => works_updOne hr ..) _ h)

theorem works_quiesce (h : Works ref s) (c) : Works ref (quiesce s c) := by
  grind [quiesce, works_updPasses, works_foldl]

end Works

end Sys2Proof.Machine

/-! PROOF. What an answer leaves, the end of a context reset and of a compute reset (O41). -/

namespace Sys2Proof.Machine

section Mail
variable (s : State) (n m : CtxId) (a : Ans)

/-- Where the command of a function stands. -/
def mail (s : State) (n : CtxId) : Option Wait × BitVec 32 × BitVec 32 := ((getFn s n).busy, (getFn s n).done, (getFn s n).post)

theorem mail_of_quiet {s t : State} {n : CtxId} (h : (getFn t n).quiet = (getFn s n).quiet) : mail t n = mail s n := by
  have hb : (getFn t n).busy = (getFn s n).busy := (congrArg Func.busy h :)
  have hd : (getFn t n).done = (getFn s n).done := (congrArg Func.done h :)
  have hp : (getFn t n).post = (getFn s n).post := (congrArg Func.post h :)
  rw [mail, hb, hd, hp, mail]

theorem mail_of_fns {s t : State} {n : CtxId} (h : t.fns = s.fns) : mail t n = mail s n := by
  rw [mail, getFn, h, mail, getFn]

theorem busy_done_of_mail {s : State} {n : CtxId} {b : Option Wait} {d p : BitVec 32} (h : mail s n = (b, d, p)) :
    (getFn s n).busy = b ∧ (getFn s n).done = d :=
  ⟨(congrArg Prod.fst h :), (congrArg (fun f => f.2.1) h :)⟩

theorem answer_rest : { answer s n a with fns := s.fns, msix := s.msix } = s := by
  rw [answer, answerHdr]
  exact congrArg (fun t : State => { t with fns := s.fns, msix := s.msix }) (msixSignal_rest (setFn s n _) n 0)

theorem getFn_answer_ne (h : m ≠ n) : getFn (answer s n a) m = getFn s m := by
  rw [answer, answerHdr]
  rw [getFn_msixSignal_ne _ _ h, getFn_setFn_ne _ _ _ _ h]

theorem mail_answer_self : mail (answer s n a) n = (none, (getFn s n).post, (getFn s n).post) := by
  rw [answer, answerHdr]
  rw [mail_of_quiet (quiet_msixSignal ..), mail, getFn_setFn_self]

theorem answerTo_rest (k : Option CtxId) (w : Wait) : { answerTo s k w a with fns := s.fns, msix := s.msix } = s := by
  unfold answerTo
  split
  · rfl
  · split
    · exact answer_rest ..
    · rfl

/-- A function that waits for something else keeps waiting. -/
theorem mail_answerTo_of_ne {w w' : Wait} (hm : (mail s m).1 = some w') (hw : w' ≠ w) (k : Option CtxId) : mail (answerTo s k w a) m = mail s m := by
  unfold answerTo
  split
  · rfl
  · next k =>
    split
    · next hk =>
      have hne : m ≠ k := fun e => hw (Option.some.inj (hm.symm.trans (e ▸ hk)))
      rw [mail, getFn_answer_ne _ _ _ _ hne, mail]
    · rfl

/-- Where a function's command stands once those that wait for w are answered. -/
def told (w : Wait) (f : Option Wait × BitVec 32 × BitVec 32) : Option Wait × BitVec 32 × BitVec 32 :=
  if f.1 = some w then (none, f.2.2, f.2.2) else f

theorem visit_answerWait (w : Wait) :
    Visit mail (fun s n => if (getFn s n).busy = some w then answer s n a else s) id (fun _ => told w)
      (fun t => { t with fns := s.fns, msix := s.msix } = s) n := by
  refine ⟨fun t ht => ?_, fun t _ => ?_, fun t i _ hi => ?_⟩
  · split
    · have hrest := answer_rest t n a
      rw [← ht]
      exact congrArg (fun u : State => { u with fns := s.fns, msix := s.msix }) hrest
    · exact ht
  · by_cases h : (getFn t n).busy = some w
    · rw [if_pos h, id, mail_answer_self, told, if_pos (show (mail t n).1 = some w from h)]
      rfl
    · rw [if_neg h, id, told, if_neg (show ¬(mail t n).1 = some w from h)]
  · split
    · have hne : i ≠ n := hi
      rw [mail, getFn_answer_ne _ _ _ _ hne, mail]
    · rfl

theorem answerWait_rest (w : Wait) : { answerWait s w a with fns := s.fns, msix := s.msix } = s :=
  Visit.foldl_keeps (fun n _ => visit_answerWait s n a w) (s := s) rfl

theorem ctxs_answerWait (w : Wait) : (answerWait s w a).ctxs = s.ctxs := by
  have h := answerWait_rest s a w
  generalize answerWait s w a = t at h ⊢
  exact (congrArg State.ctxs h :)

theorem mem_allCtxs (n : CtxId) : n ∈ allCtxs := by
  revert n
  decide

theorem mail_answerWait (w : Wait) : mail (answerWait s w a) n = told w (mail s n) :=
  Visit.foldl_self (fun n _ => visit_answerWait s n a w) (show allCtxs.Pairwise fun a b => id a ≠ id b by decide) (s := s) rfl
    (mem_allCtxs n)

end Mail

section Destroy
variable {c : CtxId} {s t u : State}

/-- No register of a function and no context but c changes. -/
structure Apart (c : CtxId) (s t : State) : Prop where
  fns : t.fns = s.fns
  ctx : ∀ d, d ≠ c → getCtx t d = getCtx s d

theorem Apart.refl (s : State) : Apart c s s := ⟨rfl, fun _ _ => rfl⟩

theorem Apart.trans (h : Apart c s t) (k : Apart c t u) : Apart c s u :=
  ⟨k.fns.trans h.fns, fun d hd => (k.ctx d hd).trans (h.ctx d hd)⟩

theorem Apart.ite {p : Prop} [Decidable p] (h : Apart c s t) (k : Apart c s u) : Apart c s (if p then t else u) := by
  split
  · exact h
  · exact k

theorem Apart.foldl {α : Type} {f : State → α → State} (hf : ∀ s a, Apart c s (f s a)) (l : List α) (s : State) :
    Apart c s (l.foldl f s) :=
  List.foldlRecOn (motive := fun t => Apart c s t) l f (.refl s) fun t ht a _ => ht.trans (hf t a)

theorem apart_of_mem (h : { s with mem := t.mem } = t) : Apart c s t := by
  rw [← h]
  exact ⟨rfl, fun _ _ => rfl⟩

theorem apart_setCtx (s : State) (x : Ctx) : Apart c s (setCtx s c x) := ⟨rfl, fun _ hd => getCtx_setCtx_ne _ _ _ _ hd⟩

theorem apart_modCtx (s : State) (f : Ctx → Ctx) : Apart c s (modCtx s c f) := apart_setCtx s _

theorem apart_putEntry (s : State) (a : Nat) (e : BitVec 64) : Apart c s (putEntry s a e) := apart_of_mem rfl

theorem apart_dropLeaf (s : State) (l : Leaf) : Apart c s (dropLeaf c s l) := by
  unfold dropLeaf
  extract_lets u x
  have hu : Apart c s u := apart_modCtx s _
  split
  · exact hu.trans (apart_putEntry ..)
  · split
    · exact hu
    · extract_lets v
      have hv : Apart c s v := hu.trans (apart_putEntry ..)
      split
      · exact hv
      · exact (hv.trans (apart_modCtx ..)).trans (apart_putEntry ..)

theorem apart_memZero (s : State) (a n : Nat) : Apart c s (memZero s a n) := apart_of_mem rfl

theorem apart_zeroFill (s : State) (gone : List Leaf) : Apart c s (zeroFill s gone) := by
  unfold zeroFill
  refine .foldl (fun t l => ?_) _ s
  exact .ite (apart_memZero ..) (.refl t)

theorem tget_tdel_self {α : Type} (d : α) (t : Tbl α) (k : Nat) : tget d (tdel t k) k = d := by
  induction t with
  | nil => rfl
  | cons p t ih =>
    rw [tdel, List.filter_cons]
    split
    · next h => rw [tget, if_neg (by simpa using h), ← tdel, ih]
    · exact ih

theorem tget_tdel_ne {α : Type} (d : α) (t : Tbl α) {j k : Nat} (h : j ≠ k) : tget d (tdel t k) j = tget d t j := by
  induction t with
  | nil => rfl
  | cons p t ih =>
    rw [tdel, List.filter_cons, tget]
    split
    · rw [tget, ← tdel, ih]
    · next hp =>
      have hpk : p.1 = k := by simpa using hp
      rw [← tdel, ih, if_neg (fun e => h (e.symm.trans hpk))]

theorem apart_destroyCtx (s : State) : Apart c s (destroyCtx s c) := by
  unfold destroyCtx
  extract_lets x y s₁ s₂ s₃ s₄
  have h₁ : Apart c s s₁ := ((Apart.foldl apart_dropLeaf _ s).trans (apart_of_mem rfl)).trans (apart_setCtx ..)
  have h₂ : Apart c s s₂ := h₁.trans (apart_zeroFill ..)
  have h₃ : Apart c s s₃ := h₂.trans (.foldl (fun t lt => by split; exacts [apart_memZero .., .refl t]) _ _)
  have h₄ : Apart c s s₄ := h₃.trans (.foldl (fun t _ => apart_memZero ..) _ _)
  clear_value s₄
  exact h₄.trans ⟨rfl, fun d hd => tget_tdel_ne _ _ (fun e => hd (Fin.ext e))⟩

theorem run_destroyCtx (s : State) (c : CtxId) : (getCtx (destroyCtx s c) c).run = .none := by
  unfold destroyCtx
  extract_lets x y s₁ s₂ s₃ s₄
  rw [getCtx, tget_tdel_self]
  rfl

end Destroy

section ContextResetDone
variable {s : State} {c : CtxId} {r : ResetInfo}

theorem clearTiles_rest (s : State) (x : Ctx) : { clearTiles s x with tiles := s.tiles } = s := by
  unfold clearTiles
  refine List.foldlRecOn (motive := fun t : State => { t with tiles := s.tiles } = s) _ _ rfl fun t ht lt _ => ?_
  split
  · split
    · exact ht
    · exact ht
  · exact ht

/-- The state at the end of a context's reset, before the commands that wait for it are answered. -/
def reinitialised (s : State) (c : CtxId) (r : ResetInfo) : State :=
  let u := setCtx (clearGrants (clearTiles (quiesce s c) (getCtx s c)) c) c (reinit (getCtx s c))
  raise (resetRecord u 0 r.cause (2 ^ c.val) r.startNs 0 false false) (ctxEvent c evCtxResetDone r.frame.toNat 0 0 r.cause 0)

/-- The same, with a destroyed context gone and its drains answered. -/
def resetOver (s : State) (c : CtxId) (r : ResetInfo) : State :=
  if r.destroy then (getCtx s c).drains.foldl (fun s d => if d.late then s else answerTo s (some d.fn) (.unmap c) .ok)
    (raise (destroyCtx (reinitialised s c r) c) (ctxEvent c evCtxDestroyed 0 0 0 0 0))
  else reinitialised s c r

theorem ctxResetDone_eq (hrun : (getCtx s c).run = .resetting) (hr : (getCtx s c).reset = some r) (hcr : s.pkg.crBusy = false) :
    ctxResetDone s c = answerWait (answerWait (resetOver s c r) (.reset c) .ok) (.destroy c) .ok := by
  rw [ctxResetDone, hr]
  dsimp only
  rw [if_neg (by simp [hrun, hcr])]
  unfold resetOver reinitialised
  cases r.destroy with
  | true | false => simp only [Bool.false_eq_true, if_true, if_false]

theorem rec_reinitialised (s : State) (c : CtxId) (r : ResetInfo) :
    Rec (setCtx (clearGrants (clearTiles (quiesce s c) (getCtx s c)) c) c (reinit (getCtx s c))) (reinitialised s c r) :=
  (rec_resetRecord ..).trans (rec_raise ..)

theorem works_quiesced (s : State) (c : CtxId) : Works s (quiesce s c) := works_quiesce (.refl s) c

theorem mail_reinitialised (n : CtxId) : mail (reinitialised s c r) n = mail s n := by
  have hworks := works_quiesced s c
  have hquiesced : mail (quiesce s c) n = mail s n := mail_of_quiet (hworks.fns n)
  have hcleared : mail (clearTiles (quiesce s c) (getCtx s c)) n = mail (quiesce s c) n := by
    conv_rhs => rw [← clearTiles_rest (quiesce s c) (getCtx s c)]
    rfl
  rw [mail_of_quiet ((rec_reinitialised s c r).fns n), ← hquiesced, ← hcleared]
  rfl

theorem getCtx_reinitialised_self : getCtx (reinitialised s c r) c = reinit (getCtx s c) := by
  rw [(rec_reinitialised s c r).getCtx, getCtx_setCtx_self]

theorem getCtx_reinitialised_ne {d : CtxId} (hd : d ≠ c) : getCtx (reinitialised s c r) d = getCtx s d := by
  have hcleared : getCtx (clearTiles (quiesce s c) (getCtx s c)) d = getCtx (quiesce s c) d := by
    conv_rhs => rw [← clearTiles_rest (quiesce s c) (getCtx s c)]
    rfl
  rw [(rec_reinitialised s c r).getCtx, getCtx_setCtx_ne _ _ _ _ hd]
  exact hcleared.trans ((works_quiesced s c).getCtx d)

/-- Answering the drains of a destroyed context leaves every context. -/
theorem drainsAnswered_rest (ds : List Drain) (s : State) :
    { ds.foldl (fun s d => if d.late then s else answerTo s (some d.fn) (.unmap c) .ok) s with fns := s.fns, msix := s.msix } = s := by
  refine List.foldlRecOn (motive := fun t : State => { t with fns := s.fns, msix := s.msix } = s) _ _ rfl fun t ht d _ => ?_
  split
  · exact ht
  · have hrest := answerTo_rest t .ok (some d.fn) (.unmap c)
    rw [← ht]
    exact congrArg (fun u : State => { u with fns := s.fns, msix := s.msix }) hrest

theorem mail_drainsAnswered {w : Wait} {n : CtxId} (ds : List Drain) (s : State) (h : (mail s n).1 = some w) (hw : w ≠ .unmap c) :
    mail (ds.foldl (fun s d => if d.late then s else answerTo s (some d.fn) (.unmap c) .ok) s) n = mail s n := by
  refine List.foldlRecOn (motive := fun t : State => mail t n = mail s n) _ _ rfl fun t ht d _ => ?_
  split
  · exact ht
  · rw [mail_answerTo_of_ne t n .ok (by rw [ht, h]) hw, ht]

theorem resetOver_ctx {d : CtxId} (hd : d ≠ c) : getCtx (resetOver s c r) d = getCtx s d := by
  unfold resetOver
  split
  · have hrest := drainsAnswered_rest (c := c) (getCtx s c).drains (raise (destroyCtx (reinitialised s c r) c) (ctxEvent c evCtxDestroyed 0 0 0 0 0))
    have hctxs := (congrArg State.ctxs hrest :)
    rw [getCtx, hctxs, (rec_raise ..).ctxs, ← getCtx, (apart_destroyCtx _).ctx d hd, getCtx_reinitialised_ne hd]
  · exact getCtx_reinitialised_ne hd

theorem resetOver_run (h : r.destroy = true) : (getCtx (resetOver s c r) c).run = .none := by
  rw [resetOver, if_pos h]
  have hrest := drainsAnswered_rest (c := c) (getCtx s c).drains (raise (destroyCtx (reinitialised s c r) c) (ctxEvent c evCtxDestroyed 0 0 0 0 0))
  have hctxs := (congrArg State.ctxs hrest :)
  rw [getCtx, hctxs, (rec_raise ..).ctxs, ← getCtx, run_destroyCtx]

theorem mail_resetOver {w : Wait} {n : CtxId} (h : (mail s n).1 = some w) (hw : w ≠ .unmap c) : mail (resetOver s c r) n = mail s n := by
  unfold resetOver
  split
  · have hraise : mail (raise (destroyCtx (reinitialised s c r) c) (ctxEvent c evCtxDestroyed 0 0 0 0 0)) n = mail s n := by
      rw [mail_of_quiet ((rec_raise ..).fns n), mail_of_fns (apart_destroyCtx _).fns, mail_reinitialised]
    rw [mail_drainsAnswered _ _ (by rw [hraise, h]) hw, hraise]
  · exact mail_reinitialised n

theorem ctxResetDone_spec (hrun : (getCtx s c).run = .resetting) (hr : (getCtx s c).reset = some r) (hcr : s.pkg.crBusy = false) :
    (∀ d, d ≠ c → getCtx (ctxResetDone s c) d = getCtx s d)
    ∧ (r.destroy = false → getCtx (ctxResetDone s c) c = reinit (getCtx s c))
    ∧ (r.destroy = true → (getCtx (ctxResetDone s c) c).run = .none)
    ∧ (∀ n, (getFn s n).busy = some (.reset c) ∨ (getFn s n).busy = some (.destroy c) →
        (getFn (ctxResetDone s c) n).busy = none ∧ (getFn (ctxResetDone s c) n).done = (getFn s n).post) := by
  rw [ctxResetDone_eq hrun hr hcr]
  have hctxs : (answerWait (answerWait (resetOver s c r) (.reset c) .ok) (.destroy c) .ok).ctxs = (resetOver s c r).ctxs :=
    (ctxs_answerWait ..).trans (ctxs_answerWait ..)
  refine ⟨fun d hd => ?_, fun h => ?_, fun h => ?_, fun n hn => ?_⟩
  · rw [getCtx, hctxs, ← getCtx, resetOver_ctx hd]
  · rw [getCtx, hctxs, ← getCtx, resetOver, if_neg (by simp [h]), getCtx_reinitialised_self]
  · rw [getCtx, hctxs, ← getCtx, resetOver_run h]
  · have hmail : mail (answerWait (answerWait (resetOver s c r) (.reset c) .ok) (.destroy c) .ok) n
        = (none, (getFn s n).post, (getFn s n).post) := by
      rw [mail_answerWait, mail_answerWait]
      rcases hn with hn | hn
      · rw [mail_resetOver (w := .reset c) hn (by simp), told, told, mail]
        simp [hn]
      · rw [mail_resetOver (w := .destroy c) hn (by simp), told, told, mail]
        simp [hn]
    exact busy_done_of_mail hmail

end ContextResetDone

section ComputeResetDone
variable {s t : State} {marks : List Leaf}

/-- A package whose compute reset has ended: no context, no open set, no grant, the on-chip stores zero, the pages marked. -/
structure Cleared (marks : List Leaf) (s : State) : Prop where
  ctxs : s.ctxs = []
  tiles : s.tiles = []
  units : s.units = []
  bwin : s.mem.bwin = []
  dies : ∀ d < 2, ∀ o < dieSize, byteAt s (dieBase d + o) = 0
  stores : ∀ o < 0x10000000, byteAt s (0xF100000000 + o) = 0
  marked : ∀ l ∈ marks, l ∈ s.mem.marked

theorem Cleared.of_eq (h : Cleared marks s) (hc : t.ctxs = s.ctxs) (ht : t.tiles = s.tiles) (hu : t.units = s.units)
    (hm : t.mem = s.mem) : Cleared marks t := by
  obtain ⟨h₁, h₂, h₃, h₄, h₅, h₆, h₇⟩ := h
  refine ⟨hc.trans h₁, ht.trans h₂, hu.trans h₃, by rw [hm, h₄], fun d hd o ho => ?_, fun o ho => ?_, fun l hl => ?_⟩
  · rw [byteAt, hm]
    exact h₅ d hd o ho
  · rw [byteAt, hm]
    exact h₆ o ho
  · rw [hm]
    exact h₇ l hl

theorem Cleared.of_rec (h : Cleared marks s) (r : Rec s t) : Cleared marks t := h.of_eq r.ctxs r.tiles r.units r.mem

theorem setStep_rec (s : State) (want : Nat) : ∃ r, Rec { s with reef := r } (setStep s want) := by
  unfold setStep
  split
  next k low _ =>
  extract_lets was u
  split
  · exact ⟨u.reef, (rec_raise ..).trans (rec_reasonOn ..)⟩
  · exact ⟨u.reef, .refl _⟩

/-- The start of compute clears the on-chip stores and keeps the marks and the grants. -/
theorem cleared_computeStart (hc : s.ctxs = []) (hb : s.mem.bwin = []) (hm : ∀ l ∈ marks, l ∈ s.mem.marked) : Cleared marks (computeStart s) := by
  unfold computeStart
  extract_lets u v
  obtain ⟨r, hrec⟩ := setStep_rec s (fld s.reef.pol.act 93 91)
  have hmem : u.mem = s.mem := hrec.mem
  have hctxs : u.ctxs = s.ctxs := hrec.ctxs
  clear_value u
  refine ⟨hctxs.trans hc, rfl, rfl, (congrArg Memory.bwin hmem).trans hb, fun d hd o ho => ?_, fun o ho => ?_,
    fun l hl => (congrArg Memory.marked hmem) ▸ hm l hl⟩
  · have hsize : dieSize = 0x6000000 := rfl
    have h₀ : dieBase 0 = 0xF000000000 := rfl
    have h₁ : dieBase 1 = 0xF010000000 := rfl
    rw [byteAt_memZero_out _ _ _ _ (.inl (by unfold dieBase; omega))]
    change byteAt v _ = 0
    interval_cases d
    · rw [byteAt_memZero_out _ _ _ _ (by omega), byteAt_memZero_in _ _ _ _ (by omega)]
    · rw [byteAt_memZero_in _ _ _ _ (by omega)]
  · exact byteAt_memZero_in _ _ _ _ (by omega)

theorem enterOos_rec (s : State) : Rec { s with pkg := { s.pkg with state := 3, computeReset := true, hbmUp := false } } (enterOos s) :=
  ((rec_modHal ..).trans (rec_raise ..)).trans (rec_reasonOn ..)

theorem rec_escalate (s : State) (cause : Nat) : Rec s (escalate s cause).1 := (rec_modHal ..).trans (rec_raise ..)

theorem answerTo_keeps (s : State) (k : Option CtxId) (w : Wait) (a : Ans) :
    (answerTo s k w a).ctxs = s.ctxs ∧ (answerTo s k w a).tiles = s.tiles ∧ (answerTo s k w a).units = s.units
      ∧ (answerTo s k w a).mem = s.mem ∧ (answerTo s k w a).pkg = s.pkg := by
  have h := answerTo_rest s a k w
  generalize answerTo s k w a = t at h ⊢
  exact ⟨(congrArg State.ctxs h :), (congrArg State.tiles h :), (congrArg State.units h :), (congrArg State.mem h :),
    (congrArg State.pkg h :)⟩

theorem Cleared.answerTo (h : Cleared marks s) (k : Option CtxId) (w : Wait) (a : Ans) : Cleared marks (answerTo s k w a) := by
  obtain ⟨hc, ht, hu, hm, -⟩ := answerTo_keeps s k w a
  exact h.of_eq hc ht hu hm

theorem pkg_answerTo (s : State) (k : Option CtxId) (w : Wait) (a : Ans) : (answerTo s k w a).pkg = s.pkg := by
  obtain ⟨-, -, -, -, hp⟩ := answerTo_keeps s k w a
  exact hp

/-- What the end of a compute reset leaves in the registers that it sets. -/
structure Ended (cause : Nat) (p : Pkg) : Prop where
  busy : p.crBusy = false
  ready : escalates cause = false → p.state = 1 ∧ p.computeReset = false ∧ p.hbmUp = true

theorem computeResetDone_spec (hb : s.pkg.crBusy = true) (hp : s.pins.pwrgdCore = true) :
    Cleared (pagesToMark ((existing s).foldl quiesce s)) (computeResetDone s) ∧ Ended s.pkg.crCause (computeResetDone s).pkg := by
  unfold computeResetDone
  rw [if_neg (by simp [hb, hp])]
  extract_lets cs mask cause start fn self waiting s₁ marks s₂ s₃ s₄ s₅
  have h₄ : Cleared marks s₄ := by
    refine cleared_computeStart rfl rfl fun l hl => ?_
    exact List.mem_eraseDups.2 (List.mem_append_right _ hl)
  have h₅ : Cleared marks s₅ := h₄.of_eq rfl rfl rfl rfl
  have e₅ : Ended cause s₅.pkg := ⟨rfl, fun _ => ⟨rfl, rfl, rfl⟩⟩
  clear_value s₅
  split
  next s₆ out heq =>
  have hout : out = true → escalates cause = true := fun h => by
    by_contra hno
    rw [if_neg hno] at heq
    exact absurd ((congrArg Prod.snd heq).trans h) Bool.false_ne_true
  have hrec : Rec s₅ s₆ := by
    have hfst : (if escalates cause then escalate s₅ cause else (s₅, false)).1 = s₆ := congrArg Prod.fst heq
    rw [← hfst]
    split
    exacts [rec_escalate .., .refl _]
  extract_lets s₇ s₈ s₉ s₁₀ s₁₁
  have r₇ : Rec s₅ s₇ := hrec.trans (rec_resetRecord ..)
  have h₇ : Cleared marks s₇ := h₅.of_rec r₇
  have e₇ : Ended cause s₇.pkg := r₇.pkg ▸ e₅
  have h₈ : Cleared marks s₈ ∧ Ended cause s₈.pkg := by
    unfold s₈
    split
    · next ho =>
      have hoos := enterOos_rec s₇
      have hpkg := hoos.pkg
      refine ⟨h₇.of_eq hoos.ctxs hoos.tiles hoos.units hoos.mem, ?_⟩
      rw [hpkg]
      exact ⟨e₇.busy, fun hno => absurd (hout ho) (by simp [hno])⟩
    · exact ⟨h₇, e₇⟩
  have r₉ : Rec s₈ s₉ := rec_raise ..
  have r₁₀ : Rec s₈ s₁₀ := by
    unfold s₁₀
    split
    exacts [r₉.trans ((rec_modHal ..).trans (rec_raise ..)), r₉]
  have h₁₀ := h₈.1.of_rec r₁₀
  have h₁₁ : Cleared marks s₁₁ ∧ s₁₁.pkg = s₁₀.pkg := List.foldlRecOn
    (motive := fun t : State => Cleared marks t ∧ t.pkg = s₁₀.pkg) _ _ ⟨h₁₀, rfl⟩ fun t ht d _ =>
      ⟨ht.1.answerTo .., (pkg_answerTo ..).trans ht.2⟩
  refine ⟨(h₁₁.1.answerTo ..).answerTo .., ?_⟩
  rw [pkg_answerTo, pkg_answerTo, h₁₁.2, r₁₀.pkg]
  exact h₈.2

end ComputeResetDone

/-- Settles O41. -/
theorem resetsEnd : Obligations.ResetsEnd := by
  refine ⟨fun s c r hrun hr hcr => ⟨?_, ?_⟩, fun s hb hp => ?_, fun s hp => ?_⟩
  · obtain ⟨hother, hkept, hgone, hfns⟩ := ctxResetDone_spec hrun hr hcr
    exact ⟨ctxResetDone s c, rfl, fun _ => hother, hkept, hgone, hfns⟩
  · change Host.Outcome.next (teardownStuck s c) = _
    rw [teardownStuck, if_pos (by simp [hrun, hcr])]
  · obtain ⟨⟨hctxs, htiles, hunits, hbwin, hdies, hstores, hmarks⟩, hbusy, hready⟩ := computeResetDone_spec hb hp
    refine ⟨computeResetDone s, rfl, hctxs, htiles, hunits, hbusy, hbwin, hdies, hstores, hmarks, hready⟩
  · change Host.Outcome.next (computeResetDone s) = _
    rw [computeResetDone, if_pos (by simp [hp])]

end Sys2Proof.Machine

/-! PROOF. A hang and a restart of Halyard (O42). -/

namespace Sys2Proof.Machine

section Restart
variable {s t : State}

/-- From s to t only the commands of functions and the drains of contexts change. -/
structure Abandons (s t : State) : Prop where
  mem : t.mem = s.mem
  clk : t.clk = s.clk
  ctx : ∀ c, { getCtx t c with drains := [] } = { getCtx s c with drains := [] }

theorem Abandons.refl (s : State) : Abandons s s := ⟨rfl, rfl, fun _ => rfl⟩

theorem Abandons.trans {u : State} (h : Abandons s t) (k : Abandons t u) : Abandons s u :=
  ⟨k.mem.trans h.mem, k.clk.trans h.clk, fun c => (k.ctx c).trans (h.ctx c)⟩

theorem abandons_modCtx (s : State) (c : CtxId) {f : Ctx → Ctx} (hf : ∀ x, { f x with drains := [] } = { x with drains := [] }) :
    Abandons s (modCtx s c f) := by
  refine ⟨rfl, rfl, fun d => ?_⟩
  by_cases hd : d = c
  · subst hd
    rw [modCtx, getCtx_setCtx_self, hf]
  · rw [modCtx, getCtx_setCtx_ne _ _ _ _ hd]

theorem abandons_lateDrains (s : State) (n : CtxId) : Abandons s (lateDrains s n) :=
  List.foldlRecOn (motive := fun t => Abandons s t) _ _ (.refl s) fun t ht c _ => by
    split
    · exact ht.trans (abandons_modCtx t c fun _ => rfl)
    · exact ht

theorem abandons_answer (s : State) (n : CtxId) (a : Ans) : Abandons s (answer s n a) := by
  have h := answer_rest s n a
  generalize answer s n a = t at h ⊢
  have hctxs := (congrArg State.ctxs h :)
  exact ⟨(congrArg State.mem h :), (congrArg State.clk h :), fun c => by rw [getCtx, hctxs, getCtx]⟩

/-- A restart's answer to the command of one function. -/
def restartAnswer (s : State) (n : CtxId) : State :=
  if (getFn s n).busy.isSome then answer (lateDrains s n) n (.fail stRestarted noField) else s

theorem abandons_restartAnswer (s : State) (n : CtxId) : Abandons s (restartAnswer s n) := by
  unfold restartAnswer
  split
  · exact (abandons_lateDrains s n).trans (abandons_answer ..)
  · exact .refl s

theorem getFn_restartAnswer_ne (s : State) {n m : CtxId} (h : m ≠ n) : getFn (restartAnswer s n) m = getFn s m := by
  unfold restartAnswer
  split
  · rw [getFn_answer_ne _ _ _ _ h, getFn_lateDrains]
  · rfl

theorem getFn_restartAnswer_idle {n m : CtxId} (h : (getFn s m).busy = none) : getFn (restartAnswer s n) m = getFn s m := by
  by_cases hm : m = n
  · subst hm
    rw [restartAnswer, h]
    rfl
  · exact getFn_restartAnswer_ne s hm

/-- Where a command stands after a restart. -/
def abandoned (f : Option Wait × BitVec 32 × BitVec 32) : Option Wait × BitVec 32 × BitVec 32 :=
  if f.1.isSome then (none, f.2.2, f.2.2) else f

theorem visit_restartAnswer (n : CtxId) : Visit mail restartAnswer id (fun _ => abandoned) (fun _ => True) n := by
  refine ⟨fun _ _ => trivial, fun t _ => ?_, fun t i _ hi => ?_⟩
  · unfold restartAnswer
    by_cases h : (getFn t n).busy.isSome
    · rw [if_pos h, id, mail_answer_self, getFn_lateDrains, abandoned, if_pos (show (mail t n).1.isSome from h)]
      rfl
    · rw [if_neg h, id, abandoned, if_neg (show ¬(mail t n).1.isSome from h)]
  · have hne : i ≠ n := hi
    rw [mail, getFn_restartAnswer_ne t hne, mail]

theorem halyardRestart_eq (memErr : Bool) (hh : s.pkg.halyardUp = true) (hr : s.pkg.restart = none) :
    halyardRestart s memErr = modPkg (allCtxs.foldl restartAnswer { s with freeCtr := s.freeCtr + 1 }) fun p =>
      { p with restart := some ⟨(allCtxs.foldl restartAnswer { s with freeCtr := s.freeCtr + 1 }).clk.mastNs, if memErr then 12 else 11,
        (allCtxs.foldl restartAnswer { s with freeCtr := s.freeCtr + 1 }).clk.mastNs + Config.freeNat s.freeCtr % 200000001⟩ } := by
  rw [halyardRestart, if_neg (by simp [hh, restarting, hr])]
  rfl

/-- A restart answers every command in progress and leaves every function that has none. -/
theorem halyardRestart_spec (memErr : Bool) (hh : s.pkg.halyardUp = true) (hr : s.pkg.restart = none) :
    (halyardRestart s memErr).pkg.restart = some ⟨s.clk.mastNs, if memErr then 12 else 11, s.clk.mastNs + Config.freeNat s.freeCtr % 200000001⟩
    ∧ (∀ n, (getFn s n).busy.isSome = true →
        (getFn (halyardRestart s memErr) n).busy = none ∧ (getFn (halyardRestart s memErr) n).done = (getFn s n).post)
    ∧ (∀ n, (getFn s n).busy = none → getFn (halyardRestart s memErr) n = getFn s n)
    ∧ (∀ c, { getCtx (halyardRestart s memErr) c with drains := [] } = { getCtx s c with drains := [] })
    ∧ (halyardRestart s memErr).mem = s.mem := by
  rw [halyardRestart_eq memErr hh hr]
  have habandons : Abandons { s with freeCtr := s.freeCtr + 1 } (allCtxs.foldl restartAnswer { s with freeCtr := s.freeCtr + 1 }) :=
    List.foldlRecOn (motive := fun t => Abandons { s with freeCtr := s.freeCtr + 1 } t) _ _ (.refl _) fun t ht n _ =>
      ht.trans (abandons_restartAnswer t n)
  have hmail (n : CtxId) : mail (allCtxs.foldl restartAnswer { s with freeCtr := s.freeCtr + 1 }) n = abandoned (mail s n) :=
    Visit.foldl_self (fun n _ => visit_restartAnswer n) (show allCtxs.Pairwise fun a b => id a ≠ id b by decide) trivial (mem_allCtxs n)
  have hidle (n : CtxId) (hn : (getFn s n).busy = none) :
      getFn (allCtxs.foldl restartAnswer { s with freeCtr := s.freeCtr + 1 }) n = getFn s n :=
    List.foldlRecOn (motive := fun t : State => getFn t n = getFn s n) _ _ rfl fun t ht k _ => by
      rw [getFn_restartAnswer_idle (by rw [ht, hn]), ht]
  generalize allCtxs.foldl restartAnswer { s with freeCtr := s.freeCtr + 1 } = u at *
  refine ⟨?_, fun n hn => ?_, fun n hn => hidle n hn, fun c => habandons.ctx c, habandons.mem⟩
  · rw [habandons.clk]
    rfl
  · have h := hmail n
    rw [abandoned, if_pos (show (mail s n).1.isSome from hn)] at h
    exact busy_done_of_mail h

theorem halyardRestart_of_restarting (memErr : Bool) (hr : s.pkg.restart.isSome = true) : halyardRestart s memErr = s := by
  rw [halyardRestart, if_pos (by simp [restarting, hr])]

/-- The slot after a restart's end clears it. -/
theorem slotTick_restart {r : Restart} (hp : s.pins.perstN = true) (hr : s.pkg.restart = some r) :
    (slotTick s).pkg.restart = if s.clk.mastNs + 128 < r.endNs then some r else none := by
  have hsteady := steady_slotAdvance hp
  have hrestart : (slotAdvance s).pkg.restart = some r := hsteady.restart.trans hr
  have hnow : (slotAdvance s).clk.mastNs = s.clk.mastNs + 128 := by
    rw [hsteady.clk]
    rfl
  rw [slotTick]
  split
  · next h => rw [restartOver_of_running hrestart (by rw [hnow]; exact h), hrestart]
  · next h => exact (steady_restartOver_of_over hrestart (by rw [hnow]; omega)).restart

end Restart

section Hang
variable {s : State} {c : CtxId}

theorem overHang_iff (x : Ctx) : overHang x = true ↔ 4 * frameLimit x < x.fr.beats := by simp [overHang]

theorem hangSeq_of_not (h : ¬((getCtx s c).run = .running ∧ 4 * frameLimit (getCtx s c) < (getCtx s c).fr.beats)) : hangSeq s c = s := by
  rw [← overHang_iff] at h
  rw [hangSeq]
  dsimp only
  rw [if_pos]
  by_cases hrun : (getCtx s c).run = .running
  · exact .inr (.inl (by simpa using fun ho => h ⟨hrun, ho⟩))
  · exact .inl hrun

theorem hangSeq_of_over (hr : s.pkg.restart = none) (hrun : (getCtx s c).run = .running)
    (hover : 4 * frameLimit (getCtx s c) < (getCtx s c).fr.beats) :
    let u := (existing s).foldl (fun s d => stopCtx s d (if d = c then stHang else stHangAbort)) s
    let w := writeDump u u.hal.fbSeq.toNat 3 (hungMask u)
    ∃ body, hangSeq s c = (existing u).foldl (fun s d => requestReset s d ⟨3, none, false, s.clk.mastNs, 0⟩)
      (raise (fbAppend w.1 0x11 2 body) (pkgEvent evHang 7 c.val (getCtx s c).fr.beats (4 * frameLimit (getCtx s c)))) := by
  have ho := (overHang_iff (getCtx s c)).2 hover
  intro u w
  rw [hangSeq]
  dsimp only
  rw [if_neg (by simp [hrun, ho, restarting, hr])]
  exact ⟨_, rfl⟩

end Hang

/-- Settles O42. -/
theorem hangAndRestart : Obligations.HangAndRestart := by
  intro s
  refine ⟨fun c hr hrun hover => ?_, fun c h => ?_, fun memErr hh hr => ?_, fun memErr hr => ?_, fun r hp hr => ?_⟩
  · obtain ⟨body, h⟩ := hangSeq_of_over hr hrun hover
    exact ⟨body, congrArg Host.Outcome.next h⟩
  · exact congrArg Host.Outcome.next (hangSeq_of_not h)
  · exact ⟨halyardRestart s memErr, rfl, halyardRestart_spec memErr hh hr⟩
  · exact congrArg Host.Outcome.next (halyardRestart_of_restarting memErr hr)
  · exact ⟨slotTick s, rfl, slotTick_restart hp hr⟩

end Sys2Proof.Machine

/-! PROOF. Header codewords and header-only packets (O43). -/

namespace Sys2Proof.Machine

section HeaderCodeword
variable {s t u : State} {p : Nat} {h : Header}

/-- From s to t only lanes and circuits change. -/
def LinesOnly (s t : State) : Prop :=
  t = { s with optics := { s.optics with lanes := t.optics.lanes }, fab := { s.fab with circs := t.fab.circs } }

theorem LinesOnly.trans (h : LinesOnly s t) (k : LinesOnly t u) : LinesOnly s u := by
  unfold LinesOnly at *
  rw [k]
  conv_lhs => rw [h]

/-- The HOLD mark that a header gives one circuit. -/
def holdMark (p : Nat) (s : State) (m : BitVec 16 × Bool) : State :=
  match findCirc (planA s) m.1.toNat with
  | some r => if crOut r = p then setCirc s m.1.toNat { getCirc s m.1.toNat with held := m.2 } else s
  | none => s

theorem linesOnly_holdMark (s : State) (m : BitVec 16 × Bool) : LinesOnly s (holdMark p s m) := by
  unfold holdMark
  split
  · split <;> rfl
  · rfl

theorem lanes_holdMark (s : State) (m : BitVec 16 × Bool) : (holdMark p s m).optics = s.optics := by
  unfold holdMark
  split
  · split <;> rfl
  · rfl

/-- The lane after a header's acknowledgement and replay. -/
def headerLaned (y : Lane) (p : Nat) (h : Header) : Lane :=
  let y := ackLane y p h.ack
  match h.replay with
  | some n => if n < owedTo y p then { y with redo := y.redo.filter (fun e => e.1 != p) ++ [(p, n)] } else y
  | none => y

/-- What a header does to its lane. -/
def laneHeader (s : State) (p l : Nat) (h : Header) : State :=
  let s := if l < 24 then setLane s l (ackLane (getLane s l) p h.ack) else s
  match h.replay with
  | some n => if l < 24 then redoFrom s l p n else s
  | none => s

theorem laneHeader_of_lt {l : Nat} (hl : l < 24) : LinesOnly s (laneHeader s p l h) ∧ getLane (laneHeader s p l h) l = headerLaned (getLane s l) p h := by
  simp only [laneHeader, headerLaned, if_pos hl]
  split
  · rw [redoFrom, getLane_setLane_self]
    split
    · exact ⟨rfl, getLane_setLane_self ..⟩
    · exact ⟨rfl, getLane_setLane_self ..⟩
  · exact ⟨rfl, getLane_setLane_self ..⟩

theorem laneHeader_of_not {l : Nat} (hl : ¬l < 24) : laneHeader s p l h = s := by
  simp only [laneHeader, if_neg hl]
  split <;> rfl

theorem linesOnly_laneHeader (s : State) (p l : Nat) (h : Header) : LinesOnly s (laneHeader s p l h) := by
  by_cases hl : l < 24
  · exact (laneHeader_of_lt hl).1
  · rw [laneHeader_of_not hl]
    rfl

/-- The lane of this package that a header speaks of. -/
def headerAt (p : Nat) (h : Header) : Nat := if p < 7 then h.lane else p + 9

/-- A header's credits, lane and HOLD marks. -/
def headerTaken (s : State) (p : Nat) (h : Header) : State :=
  h.holds.foldl (holdMark p) (laneHeader (setPort s p { getPort s p with
    headNs := s.clk.mastNs + 1
    credits := addCredits p (getPort s p).credits h.credits
    reefSeen := (getPort s p).reefSeen || h.reef }) p (headerAt p h) h)

/-- The neighbour's reef level. -/
def reefHeard (s : State) (p : Nat) (up : Prop) [Decidable up] (h : Header) : State :=
  if up ∧ h.key.toNat = partKey s then
    modReef s fun r => { r with nbr := (p, h.level.toNat, s.clk.mastNs) :: r.nbr.filter (fun e => decide (s.clk.mastNs < e.2.2 + 100000)) }
  else s

/-- The time parent's counter. -/
def timeHeard (s : State) (p : Nat) (h : Header) : State :=
  if s.fab.parent = some p then adopt s (slotGap s.clk.planSlot.toNat ((h.slot.toNat + h.delayNs / 128) % 65536)) else s

theorem headerCodeword_eq (hh : heard s p = true) (hr : p < 7 → recvUsable s p (h.from_ / 4) = true) :
    headerCodeword s p h = timeHeard (retime (reefHeard (headerTaken s p h) p ((getPort s p).st = .up) h)) p h := by
  rw [headerCodeword, if_neg (by simpa [hh] using hr)]
  rfl

theorem linesOnly_holdMarks (l : List (BitVec 16 × Bool)) (s : State) :
    LinesOnly s (l.foldl (holdMark p) s) ∧ (l.foldl (holdMark p) s).optics = s.optics :=
  List.foldlRecOn (motive := fun t => LinesOnly s t ∧ t.optics = s.optics) _ _ ⟨rfl, rfl⟩ fun t ht m _ =>
    ⟨ht.1.trans (linesOnly_holdMark t m), (lanes_holdMark t m).trans ht.2⟩

/-- What a header leaves of the fabric before time is adopted. -/
structure Heard (s : State) (p : Nat) (h : Header) (t : State) : Prop where
  port : getPort t p = { getPort s p with
    headNs := s.clk.mastNs + 1
    credits := addCredits p (getPort s p).credits h.credits
    reefSeen := (getPort s p).reefSeen || h.reef }
  lane : headerAt p h < 24 → getLane t (headerAt p h) = headerLaned (getLane s (headerAt p h)) p h
  held : ∀ id v r, h.holds = [(id, v)] → findCirc (planA s) id.toNat = some r → crOut r = p → (getCirc t id.toNat).held = v
  clk : t.clk = s.clk
  mem : t.mem = s.mem
  ctxs : t.ctxs = s.ctxs
  pendT : t.fab.pendT = s.fab.pendT

theorem heard_headerTaken (s : State) (p : Nat) (h : Header) :
    Heard s p h (headerTaken s p h) ∧ partKey (headerTaken s p h) = partKey s := by
  have hlane := linesOnly_laneHeader (setPort s p { getPort s p with
    headNs := s.clk.mastNs + 1
    credits := addCredits p (getPort s p).credits h.credits
    reefSeen := (getPort s p).reefSeen || h.reef }) p (headerAt p h) h
  have hlaned := fun hl => (laneHeader_of_lt (s := setPort s p { getPort s p with
    headNs := s.clk.mastNs + 1
    credits := addCredits p (getPort s p).credits h.credits
    reefSeen := (getPort s p).reefSeen || h.reef }) (p := p) (h := h) (l := headerAt p h) hl).2
  unfold headerTaken
  generalize laneHeader (setPort s p _) p (headerAt p h) h = v at *
  obtain ⟨hlines, hoptics⟩ := linesOnly_holdMarks (p := p) h.holds v
  have hheld : ∀ id w r, h.holds = [(id, w)] → findCirc (planA v) id.toNat = some r → crOut r = p →
      (getCirc (h.holds.foldl (holdMark p) v) id.toNat).held = w := fun id w r hh hf hr => by
    rw [hh, List.foldl_cons, List.foldl_nil, holdMark]
    simp only [hf, hr, if_true, getCirc_setCirc_self]
  generalize h.holds.foldl (holdMark p) v = w at *
  have hall := hlane.trans hlines
  refine ⟨⟨?_, fun hl => ?_, fun id b r hh hf hr => hheld id b r hh ?_ hr, ?_, ?_, ?_, ?_⟩, ?_⟩
  · rw [hall]
    exact getPort_setPort_self ..
  · rw [getLane, hoptics]
    exact hlaned hl
  · rw [hlane]
    exact hf
  all_goals
    rw [hall]
    rfl

theorem Heard.of_eq (k : Heard s p h t) (hp : getPort u p = getPort t p) (hl : u.optics = t.optics) (hc : u.fab.circs = t.fab.circs)
    (hk : u.clk = t.clk) (hm : u.mem = t.mem) (hx : u.ctxs = t.ctxs) (hn : u.fab.pendT = t.fab.pendT) : Heard s p h u := by
  obtain ⟨h₁, h₂, h₃, h₄, h₅, h₆, h₇⟩ := k
  refine ⟨hp.trans h₁, fun hlt => ?_, fun id v r hh hf hr => ?_, hk.trans h₄, hm.trans h₅, hx.trans h₆, hn.trans h₇⟩
  · rw [getLane, hl]
    exact h₂ hlt
  · rw [getCirc, hc]
    exact h₃ id v r hh hf hr

theorem Heard.of_rec (k : Heard s p h t) (r : Rec t u) : Heard s p h u := by
  have hfab := r.fab
  exact k.of_eq (r.getPort p) r.optics (by rw [hfab]) r.clk r.mem r.ctxs (by rw [hfab])

theorem retime_rec (s : State) : ∃ f, f.ports = s.fab.ports ∧ f.circs = s.fab.circs ∧ f.pendT = s.fab.pendT ∧ Rec { s with fab := f } (retime s) := by
  unfold retime
  extract_lets lost was hd u
  refine ⟨u.fab, rfl, rfl, rfl, ?_⟩
  split
  · exact rec_raise u _
  · exact .refl u

theorem adopt_of_none (hn : s.fab.pendT = none) (g : Int) : adopt s g = { s with clk := { s.clk with
    planSlot := if -1 ≤ g ∧ g ≤ 1 then s.clk.planSlot else BitVec.ofInt 48 (s.clk.planSlot.toNat + g) } } := by
  unfold adopt
  split
  · rfl
  · exact planEpoch_of_none hn

/-- What a header codeword sets, and when it moves time. -/
theorem headerCodeword_spec {p : Fin 15} (hh : heard s p = true) (hr : p.val < 7 → recvUsable s p (h.from_ / 4) = true) :
    ∃ w, Heard s p h w ∧ ((getPort s p).st = .up → h.key.toNat = partKey s → (p.val, h.level.toNat, s.clk.mastNs) ∈ w.reef.nbr)
      ∧ headerCodeword s p h = timeHeard w p h := by
  rw [headerCodeword_eq hh hr]
  obtain ⟨htaken, hkey⟩ := heard_headerTaken s p h
  generalize headerTaken s p h = v at *
  have hreef : Heard s p h (reefHeard v p ((getPort s p).st = .up) h) ∧
      ((getPort s p).st = .up → h.key.toNat = partKey s → (p.val, h.level.toNat, s.clk.mastNs) ∈ (reefHeard v p ((getPort s p).st = .up) h).reef.nbr) := by
    unfold reefHeard
    rw [hkey]
    split
    · refine ⟨htaken.of_eq rfl rfl rfl rfl rfl rfl rfl, fun _ _ => ?_⟩
      rw [← htaken.clk]
      exact List.mem_cons_self
    · next hno => exact ⟨htaken, fun hu hk => absurd ⟨hu, hk⟩ hno⟩
  obtain ⟨hheard, hnbr⟩ := hreef
  generalize reefHeard v p ((getPort s p).st = .up) h = w at *
  obtain ⟨f, hports, hcircs, hpend, hrec⟩ := retime_rec w
  have hw : Heard s p h { w with fab := f } := hheard.of_eq (by rw [getPort]; exact congrArg (fun t => tget _ t _) hports) rfl hcircs rfl rfl rfl hpend
  exact ⟨retime w, hw.of_rec hrec, fun hu hk => by rw [hrec.reef]; exact hnbr hu hk, rfl⟩

end HeaderCodeword

/-- A header-only packet that finds a lane. -/
theorem headerOnly_of_lane {s : State} {p l : Nat} (hp : s.pins.perstN = true) (hf : s.pkg.fenced = false) (hd : s.optics.dark = false)
    (hl : headerLane s p = some l) : headerOnly s p = sendHeader s p l := by
  rw [headerOnly, hl, if_neg (by simp [hp, hf, hd])]

/-- A header leaves only by a lane, outside a fence, package reset and the dark. -/
theorem headerOnly_of_none {s : State} {p : Nat} (h : headerLane s p = none ∨ s.pkg.fenced = true ∨ s.optics.dark = true ∨ s.pins.perstN = false) :
    headerOnly s p = s := by
  rw [headerOnly]
  split
  · rfl
  · next hno =>
    rcases h with h | h | h | h
    · rw [h]
    all_goals simp [h] at hno

theorem getPort_sendHeader (s : State) (p l : Nat) :
    getPort (sendHeader s p l) p = { getPort s p with
      owed := List.replicate 8 0, rx := (getPort s p).rx.map fun e => (e.1, { e.2 with ack := 0, ask := false }) } :=
  getPort_setPort_self ..

/-- Settles O43. -/
theorem headers : Obligations.Headers := by
  refine ⟨fun s p h hh hr hn => ?_, fun s p => ⟨fun l hp hf hd hl => ?_, fun hno => ?_⟩⟩
  · obtain ⟨w, hw, hnbr, heq⟩ := headerCodeword_spec hh hr
    obtain ⟨hport, hlane, hheld, hclk, hmem, hctxs, hpend⟩ := hw
    have hnone : w.fab.pendT = none := hpend.trans hn
    have hthen : ∃ c, headerCodeword s p h = { w with clk := c } ∧ (w.fab.parent ≠ some p.val → c = s.clk)
        ∧ (w.fab.parent = some p.val → c.planSlot =
          (let g := slotGap s.clk.planSlot.toNat ((h.slot.toNat + h.delayNs / 128) % 65536)
           if -1 ≤ g ∧ g ≤ 1 then s.clk.planSlot else BitVec.ofInt 48 (s.clk.planSlot.toNat + g))) := by
      rw [heq, timeHeard]
      split
      · next hp => exact ⟨_, adopt_of_none hnone _, fun hne => absurd hp hne, fun _ => by rw [hclk]⟩
      · next hp => exact ⟨w.clk, rfl, fun _ => hclk, fun he => absurd he hp⟩
    obtain ⟨c, hc, hkeep, hmove⟩ := hthen
    refine ⟨headerCodeword s p h, rfl, ?_⟩
    rw [hc]
    exact ⟨(congrArg Port.headNs hport :), (congrArg Port.credits hport :), (congrArg Port.reefSeen hport :), hlane, hheld, hnbr, hkeep, hmove,
      hmem, hctxs⟩
  · refine ⟨sendHeader s p l, (takeHead s p l).1, owesBurst s p l, ?_, rfl, rfl, BitVec.toNat_ofNat .., BitVec.toNat_ofNat .., rfl, rfl, ?_, rfl, rfl⟩
    · exact congrArg Host.Outcome.next (headerOnly_of_lane hp hf hd hl)
    · rw [getPort_sendHeader]
  · exact congrArg Host.Outcome.next (headerOnly_of_none hno)

end Sys2Proof.Machine

/-! PROOF. Packets and chunks that arrive (O44, O45). -/

namespace Sys2Proof.Machine

section Received
variable {s u : State} {port lane seq n : Nat} {burst fecOk : Bool}

/-- A receiver in FAULT takes nothing. -/
theorem received_unusable (hp : port < 7) (hu : recvUsable s port (lane / 4) = false) :
    received s port lane burst fecOk seq n = (s, false) := by
  rw [received, if_pos ⟨hp, by simp [hu]⟩]

/-- A failed decoding is asked for again. -/
theorem received_uncorrectable (hu : port < 7 → recvUsable s port (lane / 4) = true) :
    received s port lane burst false seq n = (askReplay (count s port ctFecUncorr 1) port lane, false) := by
  have hno : ¬(port < 7 ∧ (!recvUsable s port (lane / 4)) = true) := fun ⟨hp, h⟩ => by simp [hu hp] at h
  rw [received, if_neg hno]
  simp

/-- A link's codeword that decodes is new, old or follows a gap. -/
theorem received_link (hp : 7 ≤ port) : received s port lane burst true seq n =
    (let r := tget Rx.init (getPort s port).rx 0
     if seq = r.next then (modRx s port lane fun r => ⟨r.next + n, r.ack + n, false⟩, true)
     else if seq < r.next then (s, false)
     else (askReplay s port lane, false)) := by
  have hno : ¬port < 7 := by omega
  simp [received, hno]

end Received

section PacketForward
variable {s u v : State} {port : Fin 15} {p : Packet}

theorem packetForward_of_open (hh : heard s port = true) (hup : (getPort s port).st = .up) (hf : s.pkg.fenced = false) :
    packetForward s port p = match received s port p.lane p.burst p.fecOk p.seq (payLen p) with
      | (s, false) => s
      | (s, true) =>
        let s := countRx s port (payLen p)
        let o : OutPkt := ⟨p, .data, some (port.val, chanOf p)⟩
        match keyCheck s port p.cls p.key.toNat with
        | (s, false) => release s o
        | (s, true) =>
          match nextPort s p.dst.toNat port with
          | .local_ => release s o
          | .unreachable => undeliverable s port o
          | .port q =>
            if p.cls = .req ∨ p.cls = .rsp ∨ (getPort s q).st ≠ .up ∨ !mayClass s q p.cls then undeliverable s port o
            else emitOn s q { o with p := { p with vc := leaveVc s p port q } } := by
  rw [packetForward, if_neg (by simp [hh, hup, hf])] <;> rfl

/-- A packet that is not received changes what its receipt changed. -/
theorem packetForward_unreceived (hh : heard s port = true) (hup : (getPort s port).st = .up) (hf : s.pkg.fenced = false)
    (hr : received s port p.lane p.burst p.fecOk p.seq (payLen p) = (u, false)) : packetForward s port p = u := by
  rw [packetForward_of_open hh hup hf, hr]

/-- Settles O44: by the outcomes of the receipt, of the key check and of the router. -/
theorem packetForwarding : Obligations.PacketForwarding := by
  intro s port p hh hup hf
  have hexec : exec (.packetForward port p) s = .next (packetForward s port p) := rfl
  rw [hexec]
  refine ⟨fun u v o hr ho => ⟨fun hk => ?_, fun hk => ⟨fun hn => ?_, fun hn => ?_, fun q hn => ?_⟩⟩, fun hfec hu => ?_, fun hp hfec hgap => ?_,
    fun hp hfec hold => ?_, fun hp hu => ?_⟩
  · rw [packetForward_of_open hh hup hf, hr, ho]
    simp only [hk]
  · rw [packetForward_of_open hh hup hf, hr, ho]
    simp only [hk, hn]
  · rw [packetForward_of_open hh hup hf, hr, ho]
    simp only [hk, hn]
  · rw [packetForward_of_open hh hup hf, hr, ho]
    simp only [hk, hn]
    by_cases hmay : p.cls ≠ .req ∧ p.cls ≠ .rsp ∧ (getPort v q).st = .up ∧ mayClass v q p.cls = true
    · obtain ⟨h₁, h₂, h₃, h₄⟩ := hmay
      simp [h₁, h₂, h₃, h₄]
    · rw [if_neg hmay, if_pos]
      simpa [Classical.not_and_iff_not_or_not, or_iff_not_imp_left] using hmay
  · refine congrArg Host.Outcome.next (packetForward_unreceived hh hup hf ?_)
    rw [hfec, received_uncorrectable hu]
  · refine congrArg Host.Outcome.next (packetForward_unreceived hh hup hf ?_)
    rw [hfec, received_link hp]
    simp only [if_neg (show ¬p.seq = (tget Rx.init (getPort s port).rx 0).next by omega),
      if_neg (show ¬p.seq < (tget Rx.init (getPort s port).rx 0).next by omega)]
  · refine congrArg Host.Outcome.next (packetForward_unreceived hh hup hf ?_)
    rw [hfec, received_link hp]
    simp only [if_neg (show ¬p.seq = (tget Rx.init (getPort s port).rx 0).next by omega), if_pos hold]
  · exact congrArg Host.Outcome.next (packetForward_unreceived hh hup hf (received_unusable hp hu))

end PacketForward

section CircuitChunk
variable {s u v : State} {port : Fin 15} {k : Chunk}

theorem chunkArrival_of_keyed (hh : heard s port = true) (hup : (getPort s port).st = .up) (hf : s.pkg.fenced = false)
    (hr : received s port k.lane k.burst k.fecOk k.seq k.bytes.length = (u, true))
    (hk : keyCheck (owe (countRx u port k.bytes.length) port 7 (codewords k.bytes.length)) port .col k.key.toNat = (v, true)) :
    chunkArrival s port k =
      match findCirc (planA v) k.circuit.toNat with
      | none => postAck (count v port ctNaks 1) 0 k.src k.srcCtx k.xfer (.nak k.xfer 1)
      | some r =>
        if crRole r = 1 ∨ crIn r ≠ port.val then postAck (count v port ctNaks 1) 0 k.src k.srcCtx k.xfer (.nak k.xfer 1)
        else if crRole r = 2 then transitIn (chunkSlip v k.circuit.toNat port k.late) k.circuit.toNat port k
        else chunkSlip v k.circuit.toNat port k.late := by
  rw [chunkArrival, if_neg (by simp [hh, hup, hf]), hr]
  dsimp only
  rw [hk] <;> rfl

theorem transitIn_eq (w : State) (id port : Nat) (k : Chunk) : transitIn w id port k =
    (let x := getCirc w id
     let src : Option Origin := some (k.src, k.srcCtx, k.xfer)
     if x.broken then w
     else if x.buf = none ∧ x.spill = [] then
       setCirc w id { x with buf := some k.bytes, src := src, hold := x.hold || decide (16 < k.late) }
     else if poolUsed w (portDie port) + k.bytes.length ≤ poolSize then
       setCirc w id { x with spill := x.spill ++ [k.bytes], src := src, hold := true }
     else breakCircuit w id port (poolUsed w (portDie port)) poolSize src) := by
  simp [transitIn]

/-- Settles O45: by the circuit that the chunk names and its role. -/
theorem circuitChunks : Obligations.CircuitChunks := by
  intro s u v port k id hid hh hup hf hr hk refused
  subst hid
  have hexec : exec (.colChunkArrival port k) s = .next (chunkArrival s port k) := rfl
  rw [hexec, chunkArrival_of_keyed hh hup hf hr hk]
  refine ⟨fun hc => ?_, fun r hc hno => ?_, fun r hc hrole hin => ?_, fun r hc h₁ h₂ hin => ?_⟩
  · rw [hc]
  · rw [hc]
    dsimp only
    rw [if_pos hno]
  · rw [hc]
    dsimp only
    rw [if_neg (by omega), if_pos hrole, transitIn_eq]
  · rw [hc]
    dsimp only
    rw [if_neg (by omega), if_neg h₂]

end CircuitChunk

end Sys2Proof.Machine

/-! PROOF. Discovery (O46). -/

namespace Sys2Proof.Machine

section DiscRecord
variable {s t u : State} {p : Nat}

/-- What a discovery record says of a port. -/
def Port.found_ (x : Port) : PortState × BitVec 256 × Nat × Nat × Bool := (x.st, x.disc, x.delay, x.d, x.seen)

/-- From s to t nothing of memory, the contexts, the pending plan or what is known of port p's neighbour changes. -/
structure Known (p : Nat) (s t : State) : Prop where
  mem : t.mem = s.mem
  ctxs : t.ctxs = s.ctxs
  pendT : t.fab.pendT = s.fab.pendT
  port : (getPort t p).found_ = (getPort s p).found_

theorem Known.refl (s : State) : Known p s s := ⟨rfl, rfl, rfl, rfl⟩

theorem Known.trans (h : Known p s t) (k : Known p t u) : Known p s u :=
  ⟨k.mem.trans h.mem, k.ctxs.trans h.ctxs, k.pendT.trans h.pendT, k.port.trans h.port⟩

theorem Known.foldl {α : Type} {f : State → α → State} (hf : ∀ s a, Known p s (f s a)) (l : List α) (s : State) : Known p s (l.foldl f s) :=
  List.foldlRecOn (motive := fun t => Known p s t) l f (.refl s) fun t ht a _ => ht.trans (hf t a)

theorem known_of_rec (h : Rec s t) : Known p s t := by
  have hfab := h.fab
  exact ⟨h.mem, h.ctxs, by rw [hfab], by rw [h.getPort]⟩

theorem known_setPort (s : State) (q : Nat) {x : Port} (hx : x.found_ = (getPort s q).found_) : Known p s (setPort s q x) := by
  refine ⟨rfl, rfl, rfl, ?_⟩
  by_cases h : p = q
  · subst h
    rw [getPort_setPort_self, hx]
  · rw [getPort_setPort_ne _ _ _ _ h]

theorem known_setLane (s : State) (n : Nat) (y : Lane) : Known p s (setLane s n y) := ⟨rfl, rfl, rfl, rfl⟩

theorem known_redoFrom (s : State) (n port k : Nat) : Known p s (redoFrom s n port k) := by
  rw [redoFrom]
  split
  exacts [known_setLane .., .refl s]

theorem known_redoPort (s : State) (port : Nat) : Known p s (redoPort s port) := .foldl (fun _ _ => known_redoFrom ..) _ s

theorem known_noticeOn (s : State) (q : Nat) (tones : List (Nat × Nat)) (slot : Option (BitVec 48)) : Known p s (noticeOn s q tones slot) := by
  rw [noticeOn]
  split
  exacts [⟨rfl, rfl, rfl, rfl⟩, .refl s]

theorem known_portUp (s : State) (port : Nat) : Known p s (portUp s port) := by
  unfold portUp
  extract_lets x s₁ s₂ s₃
  have h₁ : Known p s s₁ := known_setPort s port rfl
  have h₂ : Known p s s₂ := h₁.trans (.foldl (fun _ _ => known_setLane ..) _ s₁)
  have h₃ : Known p s s₃ := h₂.trans (known_redoPort s₂ port)
  split
  exacts [h₃.trans (.foldl (fun _ _ => known_noticeOn ..) _ s₃), h₃]

theorem known_holdCircuits (s : State) (q : Nat) : Known p s (holdCircuits s q) := by
  unfold holdCircuits
  exact .foldl (fun t r => (⟨rfl, rfl, rfl, rfl⟩ : Known p t (setCirc t _ _))) _ s

theorem known_retime (s : State) : Known p s (retime s) := by
  obtain ⟨f, hports, -, hpend, hrec⟩ := retime_rec s
  have hf : Known p s { s with fab := f } :=
    ⟨rfl, rfl, hpend, by simp only [getPort, hports]⟩
  exact hf.trans (known_of_rec hrec)

theorem known_adopt (hn : s.fab.pendT = none) (g : Int) : Known p s (adopt s g) := by
  rw [adopt_of_none hn]
  exact ⟨rfl, rfl, rfl, rfl⟩

theorem dropWaiting_of_none (hq : s.fab.outq = []) (q : Nat) (held : Bool) : dropWaiting s q held = s := by
  have hf : ({ s.fab with outq := [] } : Fabric) = s.fab := by rw [← hq]
  rw [dropWaiting, hq, modFab, hq]
  simp only [List.filter_nil, List.map_nil, List.foldl_nil, hf]

/-- What a discovery record leaves: the port in the state of its row, and nothing of memory or the contexts. -/
theorem discRecIn_spec {r : BitVec 256} {ns : Nat} (hh : discHeard s p = true) (hq : s.fab.outq = []) (hn : s.fab.pendT = none) :
    (discRecIn s p r ns).mem = s.mem ∧ (discRecIn s p r ns).ctxs = s.ctxs ∧ (getPort (discRecIn s p r ns) p).found_ =
      (if (discRow s p r (delaySlots ns)).1 = 6 then .up else .held, r, ns, delaySlots ns, true) := by
  unfold discRecIn
  rw [if_neg (by simp [hh])]
  extract_lets x d
  split
  next row v0 v1 hrow =>
  extract_lets up back s₁ s₂ s₃ s₄ s₅
  have hup : ((discRow s p r (delaySlots ns)).1 = 6) = (up = true) := by
    rw [show discRow s p r (delaySlots ns) = (row, v0, v1) from hrow]
    simp [up]
  have hport : (getPort s₁ p).found_ = (if up then .up else .held, r, ns, d, true) := by
    rw [getPort_setPort_self]
    rfl
  have h₂ : Known p s₁ s₂ := by
    unfold s₂
    split
    · exact known_portUp ..
    · split
      exacts [known_redoPort .., .refl s₁]
  have hdown : up = false → s₂ = s₁ := fun h => by
    unfold s₂ back
    simp [h]
  clear_value s₂
  have h₃ : Known p s₂ s₃ := by
    unfold s₃
    split
    · next h =>
      have hs : s₂ = s₁ := hdown (by simpa using (Bool.and_eq_true_iff.1 h).1)
      have hq₂ : s₂.fab.outq = [] := by
        rw [hs]
        exact hq
      rw [dropWaiting_of_none hq₂]
      exact known_holdCircuits ..
    · exact .refl s₂
  clear_value s₃
  have h₄ : Known p s₃ s₄ := by
    unfold s₄
    split
    · split
      exacts [.refl s₃, known_of_rec (rec_raise ..)]
    · exact .refl s₃
  have h₅ : Known p s₁ s₅ := ((h₂.trans h₃).trans h₄).trans (known_retime s₄)
  clear_value s₅
  have hlast : Known p s₁ (if s₅.fab.parent = some p then
      adopt s₅ (((fld r 79 32 + ns / 128 : Nat) : Int) - s₅.clk.planSlot.toNat) else s₅) := by
    split
    exacts [h₅.trans (known_adopt (h₅.pendT.trans hn) _), h₅]
  refine ⟨hlast.mem, hlast.ctxs, ?_⟩
  rw [hlast.port, hport]
  simp only [hup]
  rfl

end DiscRecord

section SwapNotice
variable {s : State} {p : Fin 15} {tones : List (Nat × Nat)} {slot : Option (BitVec 48)}

theorem swapNoticeIn_deaf (hk : partKey s = 0) (hp : p.val < 13) : swapNoticeIn s p tones slot = s := by
  unfold swapNoticeIn
  rw [if_pos (by simp [hk, hp])]

/-- The slot from which a notice counts. -/
def noticeSlot (s : State) (slot : Option (BitVec 48)) : Nat := match slot with | some t => t.toNat | none => s.clk.planSlot.toNat

theorem swapNoticeIn_link (hh : heard s p = true) (hp : 7 ≤ p.val) (hk : 13 ≤ p.val ∨ partKey s ≠ 0) :
    swapNoticeIn s p tones slot = swapPort (setPort s p { getPort s p with
      swapAt := some (noticeSlot s slot), retrain := none }) p := by
  have hno : ¬(partKey s = 0 ∧ p.val < 13) := by omega
  unfold swapNoticeIn
  rw [if_neg (by simpa [hh] using hno), if_pos hp]
  rfl

theorem setPort_setPort (s : State) (q : Nat) (x y : Port) : setPort (setPort s q x) q y = setPort s q y := by
  unfold setPort
  simp only [tput_tput]

/-- A notice on a link counts from its slot, at once where it has come. -/
theorem swapPort_noticed {q t : Nat} (s : State) : swapPort (setPort s q { getPort s q with swapAt := some t, retrain := none }) q =
    if s.clk.planSlot.toNat < t then setPort s q { getPort s q with swapAt := some t, retrain := none }
    else if (getPort s q).stay = .dark then setPort s q { getPort s q with swapAt := none, retrain := none }
    else setPort s q { getPort s q with stay := .laserSwap, swapAt := none, retrain := some (s.clk.planSlot.toNat + 8) } := by
  rw [swapPort]
  simp only [getPort_setPort_self, setPort_setPort]
  rfl

/-- The pilot tones that a peer's map names, by quad of lanes. -/
def pilotsTaken (p : Nat) (tones : List (Nat × Nat)) (m : Tbl (List Nat)) : Tbl (List Nat) :=
  (List.range 4).foldl (fun m c => match (tones.filter fun t => t.1 / 4 == c).map (·.2) with
    | [] => m
    | ts => tput m (4 * p + c) ts) m

theorem visit_pilot (tones : List (Nat × Nat)) (p c : Nat) : Visit (fun m i => tget ([] : List Nat) m i)
    (fun m c => match (tones.filter fun t => t.1 / 4 == c).map (·.2) with
      | [] => m
      | ts => tput m (4 * p + c) ts) (fun c => 4 * p + c)
    (fun c old => if (tones.filter fun e => e.1 / 4 == c) = [] then old else (tones.filter fun e => e.1 / 4 == c).map (·.2)) (fun _ => True) c := by
  refine ⟨fun _ _ => trivial, fun m _ => ?_, fun m i _ hi => ?_⟩
  · cases h : tones.filter fun e => e.1 / 4 == c with
    | nil => rfl
    | cons a l => exact tget_tput_self ..
  · cases h : tones.filter fun e => e.1 / 4 == c with
    | nil => rfl
    | cons a l => exact tget_tput_ne _ _ _ hi

theorem swapNoticeIn_shroud (hh : heard s p = true) (hp : p.val < 7) (hk : partKey s ≠ 0) :
    swapNoticeIn s p tones slot = modOpt s fun o => { o with
      pilot := pilotsTaken p tones s.optics.pilot
      fresh := o.fresh.filter fun e => !(e.1 == p.val &&
        ((tones.filter fun t => !((expected s (176 + (4 * p + t.1 / 4))).contains t.2)).map (·.1)).contains e.2) } := by
  unfold swapNoticeIn
  rw [if_neg (by simp [hh, hk]), if_neg (by omega)]
  rfl

end SwapNotice

theorem sendDisc_of_new {s : State} {p : Nat} (hp : s.pins.perstN = true) (hd : s.optics.dark = false) (hf : s.pkg.fenced = false)
    (ho : ∀ e ∈ s.fab.outq, e.1 = p → isDisc e.2.carries = false) : sendDisc s p = emitTo s p .mgt 0 0 1 [] (.disc 0) := by
  have hany : (s.fab.outq.any fun e => e.1 == p && isDisc e.2.carries) = false := by
    rw [List.any_eq_false]
    intro e he
    simpa using ho e he
  rw [sendDisc, if_neg (by simp [hp, hd, hf, hany])]

/-- Settles O46. -/
theorem discovery : Obligations.Discovery := by
  intro s
  refine ⟨fun p hp hd hf ho => ?_, fun p r ns hh hq hn => ?_, fun p tones slot hh hp hk => ⟨fun t ht hlt => ?_, fun ht hd => ?_⟩,
    fun p tones slot hh hp hk => ⟨swapNoticeIn s p tones slot, rfl, ?_⟩, fun p tones slot hk hp => ?_, fun p => rfl, fun p hp => ?_, fun p hp => ?_,
    fun p l => ⟨equaliserStale s p l, rfl, fun e => ?_, rfl⟩⟩
  · exact congrArg Host.Outcome.next (sendDisc_of_new hp hd hf ho)
  · obtain ⟨hmem, hctxs, hport⟩ := discRecIn_spec (r := r) (ns := ns) hh hq hn
    simp only [Port.found_, Prod.mk.injEq] at hport
    obtain ⟨hst, hdisc, hdelay, hd, hseen⟩ := hport
    exact ⟨discRecIn s p r ns, rfl, hdisc, hdelay, hd, hseen, hst, hmem, hctxs⟩
  · subst ht
    refine congrArg Host.Outcome.next ((swapNoticeIn_link hh hp hk).trans ?_)
    rw [swapPort_noticed]
    exact if_pos hlt
  · change Host.Outcome.next (swapNoticeIn s p tones slot) = _
    have hdue : noticeSlot s slot ≤ s.clk.planSlot.toNat := by
      cases slot with
      | none => exact Nat.le_refl _
      | some t => exact ht t rfl
    rw [swapNoticeIn_link hh hp hk, swapPort_noticed, if_neg (Nat.not_lt.2 hdue), if_neg hd]
  · rw [swapNoticeIn_shroud hh hp hk]
    refine ⟨rfl, fun c hc hne => ?_, fun e => ?_⟩
    · have h := Visit.foldl_self (fun c _ => visit_pilot tones p c) (show (List.range 4).Pairwise fun a b => 4 * p.val + a ≠ 4 * p.val + b from
        List.nodup_range.imp fun h => by omega) (s := s.optics.pilot) trivial (List.mem_range.2 hc)
      exact h.trans (if_neg hne)
    · change e ∈ s.optics.fresh.filter _ ↔ _
      rw [List.mem_filter]
      refine and_congr_right fun _ => ?_
      simp only [Bool.not_eq_true', Bool.and_eq_false_iff, beq_eq_false_iff_ne, List.contains_eq_mem, List.mem_map, List.mem_filter,
        decide_eq_false_iff_not, Classical.not_and_iff_not_or_not]
      simp [imp_iff_not_or]
  · exact congrArg Host.Outcome.next (swapNoticeIn_deaf hk hp)
  · change Host.Outcome.next (notFound s p) = _
    rw [notFound, if_neg (by simp [hp])]
  · change Host.Outcome.next (notFound s p) = _
    rw [notFound, if_pos (by simp [hp])]
  · change e ∈ s.optics.fresh.filter _ ↔ _
    simp only [List.mem_filter, ne_eq, Prod.ext_iff, Bool.not_eq_true', Bool.and_eq_false_iff, beq_eq_false_iff_ne, Classical.not_and_iff_not_or_not]

end Sys2Proof.Machine

/-! PROOF. What nothing but a plan epoch changes: the plan, the set-points in force and the lease (O47). -/

namespace Sys2Proof.Machine

section Planned
variable {ref s : State}

/-- The plan in force and the pending one, the epoch and the lease. -/
def Fabric.plan_ (f : Fabric) : Option (List Byte) × Option Nat × Option (List Byte) × Nat × Bool × Bool × Option Nat × Option (BitVec 32) :=
  (f.planA, f.pendT, f.nextPlan, f.epochT, f.applied, f.told, f.leaseNs, f.leaseSeq)

/-- Plan, epoch, lease and set-points are as in a reference state. -/
structure Planned (ref s : State) : Prop where
  plan : s.fab.plan_ = ref.fab.plan_
  sp : s.optics.sp = ref.optics.sp

theorem Planned.refl (s : State) : Planned s s := ⟨rfl, rfl⟩

theorem Planned.trans {s t u : State} (h : Planned s t) (k : Planned t u) : Planned s u := ⟨k.plan.trans h.plan, k.sp.trans h.sp⟩

theorem planned_of_eq {t : State} (h : Planned ref s) (hf : t.fab.plan_ = s.fab.plan_) (ho : t.optics.sp = s.optics.sp) : Planned ref t :=
  h.trans ⟨hf, ho⟩

theorem planned_of_rec {t : State} (h : Planned ref s) (r : Rec s t) : Planned ref t := planned_of_eq h (by rw [r.fab]; rfl) (congrArg Optics.sp r.optics)

theorem planned_raise (h : Planned ref s) (e) : Planned ref (raise s e) := planned_of_rec h (rec_raise ..)

theorem planned_setCirc (h : Planned ref s) (i x) : Planned ref (setCirc s i x) := planned_of_eq h rfl rfl

theorem planned_setCtx (h : Planned ref s) (c x) : Planned ref (setCtx s c x) := planned_of_eq h rfl rfl

theorem planned_modCtx (h : Planned ref s) (c f) : Planned ref (modCtx s c f) := by
  grind [modCtx, planned_setCtx]

theorem planned_modHal (h : Planned ref s) (f) : Planned ref (modHal s f) := planned_of_eq h rfl rfl

theorem planned_stopEvent (h : Planned ref s) (c st why) : Planned ref (stopEvent s c st why) := by
  grind [stopEvent, planned_modHal, planned_raise]

theorem planned_foldl_by {α β : Type} (g : β → State) {f : β → α → β} (hf : ∀ r x, Planned ref (g r) → Planned ref (g (f r x))) (l : List α)
    {r : β} (h : Planned ref (g r)) : Planned ref (g (l.foldl f r)) := by
  induction l generalizing r with
  | nil => exact h
  | cons x l ih => exact ih (hf r x h)

theorem planned_foldl_fst {α β : Type} {f : State × β → α → State × β} (hf : ∀ (r : State × β) x, Planned ref r.1 → Planned ref (f r x).1)
    (l : List α) {r : State × β} (h : Planned ref r.1) : Planned ref (l.foldl f r).1 := planned_foldl_by Prod.fst hf l h

theorem planned_memWrite (h : Planned ref s) (a bs) : Planned ref (memWrite s a bs) := planned_of_eq h rfl rfl

theorem planned_tileWrite (h : Planned ref s) (t addr bs) : Planned ref (tileWrite s t addr bs) := by
  grind [tileWrite, planned_memWrite]

theorem planned_setTile (h : Planned ref s) (t x) : Planned ref (setTile s t x) := planned_of_eq h rfl rfl

theorem planned_nonfiniteEvent (h : Planned ref s) (c tile aset cause beats tag) :
    Planned ref (nonfiniteEvent s c tile aset cause beats tag) := by
  grind [nonfiniteEvent, planned_raise]

theorem planned_foldl {α : Type} {f : State → α → State} (hf : ∀ s x, Planned ref s → Planned ref (f s x)) (l : List α) (h : Planned ref s) :
    Planned ref (l.foldl f s) := planned_foldl_by id hf l h

theorem planned_landDrain (h : Planned ref s) (c d) : Planned ref (landDrain s c d) := by
  unfold landDrain
  dsimp only
  split
  · exact h
  · split
    · split
      · exact planned_modCtx (planned_setTile h ..) ..
      · exact planned_nonfiniteEvent (planned_modCtx (planned_foldl (fun _ _ hs => planned_tileWrite hs ..) _ (planned_setTile h ..)) ..) ..
    · refine planned_modCtx ?_ ..
      split
      · exact planned_setTile h ..
      · exact planned_foldl (fun _ _ hs => planned_tileWrite hs ..) _ (planned_setTile h ..)

theorem planned_landOne {r : State × List TWrite} (h : Planned ref r.1) (c l) : Planned ref (landOne c r l).1 := by
  unfold landOne
  split
  · split
    · exact h
    · exact planned_tileWrite h ..
  · exact planned_landDrain h ..

theorem planned_landUntil (h : Planned ref s) (c cycle) : Planned ref (landUntil s c cycle).1 := by
  unfold landUntil
  extract_lets x ms ds s₁ ls
  split
  · exact h
  · have h₁ : Planned ref s₁ := planned_modCtx h ..
    exact planned_foldl_fst (fun r l hr => planned_landOne hr c l) ls (r := (s₁, [])) h₁

theorem planned_dropReport (h : Planned ref s) (c r) : Planned ref (dropReport c s r) := by
  grind [dropReport, planned_tileWrite, planned_nonfiniteEvent, planned_foldl]

theorem planned_endIssue (h : Planned ref s) (c) : Planned ref (endIssue s c) := by
  grind [endIssue, planned_landUntil, planned_modCtx, planned_dropReport, planned_foldl]

theorem planned_modFab (h : Planned ref s) (f : Fabric → Fabric) (hf : (f s.fab).plan_ = s.fab.plan_) : Planned ref (modFab s f) :=
  planned_of_eq h hf rfl

theorem planned_post (h : Planned ref s) (cls c dst dstCtx xfer words bytes carries) :
    Planned ref (post s cls c dst dstCtx xfer words bytes carries) := by
  grind [post, planned_modFab, Fabric.plan_]

theorem planned_postAck (h : Planned ref s) (c dst dstCtx xfer carries) : Planned ref (postAck s c dst dstCtx xfer carries) := by
  grind [postAck, planned_post]

theorem planned_closeRequests (h : Planned ref s) (c x) : Planned ref (closeRequests s c x) := by
  grind [closeRequests, planned_postAck, planned_foldl]

theorem planned_modMem (h : Planned ref s) (f) : Planned ref (modMem s f) := planned_of_eq h rfl rfl

theorem planned_clearGrants (h : Planned ref s) (c) : Planned ref (clearGrants s c) := by
  grind [clearGrants, planned_modMem]

theorem planned_enterReset (h : Planned ref s) (c info) : Planned ref (enterReset s c info) :=
  planned_setCtx (planned_clearGrants (planned_closeRequests (planned_endIssue
    (planned_foldl (fun _ _ hs => planned_stopEvent hs ..) _ h) _) ..) _) ..

theorem planned_stopCtxW (h : Planned ref s) (c st why) : Planned ref (stopCtxW s c st why) := by
  unfold stopCtxW
  split
  · exact h
  · exact h
  · exact planned_stopEvent h ..
  · extract_lets due s₁ s₂
    have h₂ : Planned ref s₂ :=
      planned_endIssue (planned_foldl (fun _ _ hs => planned_stopEvent hs ..) _ (planned_modCtx (planned_stopEvent h ..) ..)) _
    split
    · exact planned_enterReset h₂ ..
    · exact h₂

theorem planned_dueStopW (h : Planned ref s) (c st why) : Planned ref (dueStopW s c st why) := by
  grind [dueStopW, planned_modCtx, planned_stopCtxW]

theorem planned_popHead (h : Planned ref s) (c q) : Planned ref (popHead s c q) := by
  grind [popHead, planned_modCtx]

theorem planned_drawNat (h : Planned ref s) : Planned ref (drawNat s).2 := planned_of_eq h rfl rfl

theorem planned_virtWrite (h : Planned ref s) (x ret va bs) : Planned ref (virtWrite s x ret va bs) := by
  grind [virtWrite, planned_memWrite, planned_foldl]

theorem planned_traceWrite (h : Planned ref s) (c rec_) : Planned ref (traceWrite s c rec_) := by
  grind [traceWrite, planned_virtWrite, planned_setCtx, planned_raise]

theorem planned_traceSrv (h : Planned ref s) (c q st) : Planned ref (traceSrv s c q st) := by
  grind [traceSrv, planned_drawNat, planned_traceWrite, planned_foldl]

theorem planned_collNonfinite (h : Planned ref s) (c q) : Planned ref (collNonfinite s c q) := by
  grind [collNonfinite, planned_raise]

theorem planned_failHeadW (h : Planned ref s) (c q st why) : Planned ref (failHeadW s c q st why) := by
  grind [failHeadW, planned_dueStopW, planned_popHead, planned_traceSrv, planned_collNonfinite]

theorem planned_failHead (h : Planned ref s) (c q st) : Planned ref (failHead s c q st) := by
  grind [failHead, planned_failHeadW]

theorem planned_dueStop (h : Planned ref s) (c st) : Planned ref (dueStop s c st) := by
  grind [dueStop, planned_dueStopW]

theorem planned_returnCredit (h : Planned ref s) (c p n) : Planned ref (returnCredit s c p n) := by
  grind [returnCredit, planned_dueStop, planned_setCtx]

theorem planned_creditBack (h : Planned ref s) (c q) : Planned ref (creditBack s c q) := by
  grind [creditBack, planned_returnCredit]

theorem planned_xferFail (h : Planned ref s) (c xfer st) : Planned ref (xferFail s c xfer st) := by
  grind [xferFail, planned_failHead, planned_creditBack]

theorem planned_breakCircuit (h : Planned ref s) (id port v0 v1 src) : Planned ref (breakCircuit s id port v0 v1 src) := by
  unfold breakCircuit
  refine planned_raise ?_ _
  split
  · exact planned_setCirc h ..
  · split
    · exact planned_xferFail (planned_setCirc h ..) ..
    · exact planned_postAck (planned_setCirc h ..) ..

theorem planned_epochCirc (h : Planned ref s) (old pl id) : Planned ref (epochCirc old pl s id) := by
  grind [epochCirc, planned_breakCircuit, planned_setCirc, planned_modFab, Fabric.plan_]

theorem planned_setLoop (h : Planned ref s) (i x) : Planned ref (setLoop s i x) := planned_of_eq h rfl rfl

theorem planned_modOpt (h : Planned ref s) (f : Optics → Optics) (hf : (f s.optics).sp = s.optics.sp) : Planned ref (modOpt s f) :=
  planned_of_eq h rfl hf

theorem planned_moveLoop (h : Planned ref s) (i l) : Planned ref (moveLoop s i l) := by
  grind [moveLoop, planned_setLoop, planned_modOpt]

theorem planned_unfault (h : Planned ref s) (n) : Planned ref (unfault s n) := by
  grind [unfault, planned_moveLoop, planned_foldl]

theorem planned_setLane (h : Planned ref s) (i x) : Planned ref (setLane s i x) := planned_of_eq h rfl rfl

theorem planned_setLine (h : Planned ref s) (i x) : Planned ref (setLine s i x) := planned_of_eq h rfl rfl

theorem planned_setLinePower (h : Planned ref s) (role on freq) : Planned ref (setLinePower s role on freq) := by
  grind [setLinePower, planned_setLine]

theorem planned_setPort (h : Planned ref s) (p x) : Planned ref (setPort s p x) := planned_of_eq h rfl rfl

theorem planned_owe (h : Planned ref s) (port ch n) : Planned ref (owe s port ch n) := by
  grind [owe, planned_setPort]

theorem planned_release (h : Planned ref s) (o) : Planned ref (release s o) := by
  grind [release, planned_owe]

theorem planned_count (h : Planned ref s) (p i n) : Planned ref (count s p i n) := by
  grind [count, planned_setPort]

theorem planned_undeliverable (h : Planned ref s) (port o) : Planned ref (undeliverable s port o) := by
  grind [undeliverable, planned_release, planned_count, planned_xferFail, planned_failHead, planned_postAck]

theorem planned_dropWaiting (h : Planned ref s) (p held) : Planned ref (dropWaiting s p held) := by
  grind [dropWaiting, planned_modFab, Fabric.plan_, planned_undeliverable, planned_foldl]

theorem planned_retime (h : Planned ref s) : Planned ref (retime s) := by
  grind [retime, planned_modFab, Fabric.plan_, planned_raise]

theorem planned_holdCircuits (h : Planned ref s) (p) : Planned ref (holdCircuits s p) := by
  grind [holdCircuits, planned_setCirc, planned_foldl]

theorem planned_portDown (h : Planned ref s) (p v) : Planned ref (portDown s p v) := by
  grind [portDown, planned_setPort, planned_dropWaiting, planned_setLane, planned_retime, planned_holdCircuits, planned_raise, planned_foldl]

theorem planned_emitOn (h : Planned ref s) (port o) : Planned ref (emitOn s port o) := by
  grind [emitOn, planned_modFab, Fabric.plan_]

theorem planned_handBack (h : Planned ref s) (old pl t) : Planned ref (handBack old pl s t) := by
  unfold handBack
  split <;> grind [planned_emitOn, planned_undeliverable, planned_modFab, Fabric.plan_, planned_breakCircuit]

theorem planned_laneOff (h : Planned ref s) (old pl n) : Planned ref (laneOff old pl s n) := by
  grind [laneOff, planned_setLane, planned_setLinePower, planned_portDown, planned_handBack, planned_foldl]

theorem planned_laneOn (h : Planned ref s) (n) : Planned ref (laneOn s n) := by
  grind [laneOn, planned_setLane]

theorem planned_laneChange (h : Planned ref s) (oldSp old pl n) : Planned ref (laneChange oldSp old pl s n) := by
  grind [laneChange, planned_unfault, planned_laneOff, planned_laneOn, planned_setLinePower, planned_portDown]

theorem planned_holdAbsent (h : Planned ref s) (p) : Planned ref (holdAbsent s p) := by
  grind [holdAbsent, planned_holdCircuits, planned_dropWaiting, planned_setPort]

theorem planned_loseOrigins (h : Planned ref s) (pl c) : Planned ref (loseOrigins pl s c) := by
  grind [loseOrigins, planned_modCtx]

theorem planned_failAll (h : Planned ref s) (c hit st) : Planned ref (failAll s c hit st) := by
  grind [failAll, planned_traceSrv, planned_collNonfinite, planned_modCtx, planned_dueStop, planned_foldl]

theorem planned_modPkg (h : Planned ref s) (f) : Planned ref (modPkg s f) := planned_of_eq h rfl rfl

theorem planned_darkPort (h : Planned ref s) (p) : Planned ref (darkPort s p) := by
  grind [darkPort, planned_setPort]

theorem planned_fence (h : Planned ref s) : Planned ref (fence s) := by
  grind [fence, planned_modPkg, planned_setLane, planned_darkPort, planned_modFab, Fabric.plan_, planned_raise, planned_failAll, planned_foldl]

theorem planned_fbInPlace (h : Planned ref s) (row typ rows body0) : Planned ref (fbInPlace s row typ rows body0) := by
  grind [fbInPlace, planned_modHal]

theorem planned_fbCounters (h : Planned ref s) : Planned ref (fbCounters s) := by
  grind [fbCounters, planned_fbInPlace]

theorem planned_setReasons (h : Planned ref s) (reasons) : Planned ref (setReasons s reasons) := by
  grind [setReasons, planned_modHal, planned_fbCounters, planned_raise]

theorem planned_reasonOn (h : Planned ref s) (n) : Planned ref (reasonOn s n) := by
  grind [reasonOn, planned_modHal, planned_setReasons]

theorem planned_sparesExhausted (h : Planned ref s) (role v0 v1) : Planned ref (sparesExhausted s role v0 v1) := by
  grind [sparesExhausted, planned_modOpt, planned_reasonOn, planned_raise]

theorem planned_spareHealth (h : Planned ref s) : Planned ref (spareHealth s) := by
  grind [spareHealth, planned_reasonOn, planned_modHal]

theorem planned_tuneSpare (h : Planned ref s) (w) : Planned ref (tuneSpare s w) := by
  grind [tuneSpare, planned_setLine, planned_spareHealth, planned_modOpt]

theorem planned_tuneNext (h : Planned ref s) (die) : Planned ref (tuneNext s die) := by
  grind [tuneNext, planned_tuneSpare]

theorem planned_startSwap (h : Planned ref s) (role now v0 v1) : Planned ref (startSwap s role now v0 v1) := by
  grind [startSwap, planned_sparesExhausted, planned_raise, planned_tuneNext, planned_modOpt]

theorem planned_fadeAct (h : Planned ref s) (role v0 v1) : Planned ref (fadeAct s role v0 v1) := by
  grind [fadeAct, planned_startSwap, planned_raise, planned_setLine]

theorem planned_fadeDue (h : Planned ref s) : Planned ref (fadeDue s) := by
  grind [fadeDue, planned_fadeAct, planned_modOpt, planned_foldl]

theorem planned_emitTo (h : Planned ref s) (port cls c dstCtx words bytes carries) :
    Planned ref (emitTo s port cls c dstCtx words bytes carries) := by
  grind [emitTo, planned_emitOn]

theorem planned_sendDisc (h : Planned ref s) (port) : Planned ref (sendDisc s port) := by
  grind [sendDisc, planned_emitTo]

end Planned

section PlanEpoch
variable {s : State} {T : Nat} {pl : List Byte}

theorem planEpoch_early (hT : s.fab.pendT = some T) (h : s.clk.planSlot.toNat < T) : planEpoch s = s := by
  unfold planEpoch
  split
  · next t _ ht _ => rw [if_pos (Option.some.inj (hT.symm.trans ht) ▸ h)]
  · rfl

/-- What the epoch itself sets; the losses, the fence and the discovery that follow leave it (`Planned`). -/
theorem planEpoch_sets (hT : s.fab.pendT = some T) (hpl : s.fab.nextPlan = some pl) (h : T ≤ s.clk.planSlot.toNat) :
    (planEpoch s).fab.plan_ = (some pl, none, none, T, !s.fab.told, false, some s.clk.mastNs, none)
      ∧ (planEpoch s).optics.sp = s.optics.sp.flip := by
  unfold planEpoch
  rw [hT, hpl]
  simp -zeta only
  rw [if_neg (Nat.not_lt.2 h)]
  extract_lets old oldSp s₁ s₂ s₃ s₄ before s₅ s₆ s₇ s₈ s₉ s₁₀
  have h₄ : Planned s₂ s₄ := planned_raise (planned_foldl (fun _ _ h => planned_setPort h ..) _ (.refl s₂)) _
  have h₅ : Planned s₂ s₅ := planned_foldl (fun _ _ h => planned_epochCirc h ..) _ h₄
  have h₇ : Planned s₂ s₇ := planned_foldl (fun _ _ h => planned_holdAbsent h _) _ (planned_foldl (fun _ _ h => planned_laneChange h ..) _ h₅)
  have h₈ : Planned s₂ s₈ := planned_foldl (fun _ _ h => planned_failAll (planned_loseOrigins h ..) ..) _ h₇
  have h₉ : Planned s₂ s₉ := by
    unfold s₉
    split
    exacts [planned_fence h₈, h₈]
  have h₁₀ : Planned s₂ s₁₀ := planned_fadeDue (planned_retime h₉)
  have hend : Planned s₂ ((List.range 15).foldl (fun s p => if phPresent (planHdr pl) p then sendDisc s p else s) s₁₀) :=
    planned_foldl (fun _ _ h => by split; exacts [planned_sendDisc h _, h]) _ h₁₀
  exact ⟨hend.plan, hend.sp⟩

end PlanEpoch

section Management
variable {s : State}

theorem mgtIn_unserved (hp : s.pins.perstN = true) (hh : s.pkg.halyardUp = false) (f : State → State) :
    mgtIn s f = modFab s fun g => { g with mgtDrops := g.mgtDrops + 1 } := by
  simp [mgtIn, hp, hh]

theorem clk_transectPort (m : List PortMeas) (s : State) (p : Nat) : (transectPort m s p).clk = s.clk := by
  unfold transectPort
  split
  · rfl
  · extract_lets r x u
    split
    · next v hv =>
      obtain ⟨b, -, rfl⟩ := Option.map_eq_some_iff.1 hv
      rfl
    · rfl

/-- Where its interval is due, a transect reports each port and starts the interval again. -/
theorem transect_due (m : List PortMeas) (w : State) :
    (if !transectDue w then w
      else
        let s := (List.range 15).foldl (transectPort m) w
        modFab s fun f => { f with transectNs := s.clk.mastNs, trFrame := trFrameNow s }) =
      if transectDue w then modFab ((List.range 15).foldl (transectPort m) w) fun f => { f with
        transectNs := w.clk.mastNs, trFrame := trFrameNow ((List.range 15).foldl (transectPort m) w) }
      else w := by
  have hclk : ((List.range 15).foldl (transectPort m) w).clk = w.clk :=
    List.foldlRecOn (motive := fun t : State => t.clk = w.clk) _ _ rfl fun t ht p _ => (clk_transectPort m t p).trans ht
  by_cases h : transectDue w = true
  · simp only [h, hclk, Bool.not_true, Bool.false_eq_true, if_true, if_false]
  · simp only [h, Bool.not_false, Bool.false_eq_true, if_true, if_false]

theorem transectAll_eq (m : List PortMeas) (hp : s.pins.perstN = true) :
    let u := (List.range 15).foldl (addFigures m) s
    let w := if (List.range 15).any fun p => 20000 < (getPort u p).preFec then reasonOn u 2 else u
    transectAll s m = if transectDue w then modFab ((List.range 15).foldl (transectPort m) w) fun f => { f with
        transectNs := w.clk.mastNs, trFrame := trFrameNow ((List.range 15).foldl (transectPort m) w) }
      else w := by
  intro u w
  unfold transectAll
  rw [if_neg (by simp [hp])]
  exact transect_due m w

/-- Settles O47. -/
theorem fabricManagement : Obligations.FabricManagement := by
  intro s
  refine ⟨fun hp hh => ⟨?_, fun r hr => ?_, fun r hr => ?_⟩, fun hp hh r => ⟨?_, ?_⟩, fun hl => ?_, fun hl => ?_, fun m hp => ?_,
    fun T pl hT hpl hle => ?_, fun T hT hlt => ?_⟩
  · exact congrArg Host.Outcome.next (mgtIn_of_served hp hh fence)
  · refine congrArg Host.Outcome.next ((mgtIn_of_served hp hh _).trans ?_)
    rw [leaseIn_eq, if_pos hr]
    rfl
  · refine congrArg Host.Outcome.next ((mgtIn_of_served hp hh _).trans ?_)
    obtain ⟨k, hk, hbad⟩ := hr
    rw [leaseIn_eq, if_neg fun hall => by simp [hall k hk] at hbad]
  · exact congrArg Host.Outcome.next (mgtIn_unserved hp hh _)
  · exact congrArg Host.Outcome.next (mgtIn_unserved hp hh _)
  · change Host.Outcome.next (leaseExpired s) = _
    rw [leaseExpired, if_neg (by simpa using Option.isSome_iff_ne_none.1 hl)]
  · change Host.Outcome.next (leaseExpired s) = _
    rw [leaseExpired, if_pos (by simp [hl])]
  · exact congrArg Host.Outcome.next (transectAll_eq m hp)
  · obtain ⟨hplan, hsp⟩ := planEpoch_sets hT hpl hle
    simp only [Fabric.plan_, Prod.mk.injEq] at hplan
    obtain ⟨hA, hp, hn, hE, ha, ht, hns, hseq⟩ := hplan
    exact ⟨planEpoch s, rfl, hA, hp, hn, hE, ha, ht, congrArg Bank.act hsp, congrArg Bank.sha hsp, hns, hseq⟩
  · exact congrArg Host.Outcome.next (planEpoch_early hT hlt)

end Management

end Sys2Proof.Machine

/-! PROOF. Beat boundaries: what landings leave, the hold beat, the tick (O48). -/

namespace Sys2Proof.Machine

section Landings
variable {c : CtxId} {s t u : State}

/-- A context but for what lands in it: the words in flight, the drains, their reports and counts. -/
def Ctx.landed (x : Ctx) : Ctx := { x with fr := { x.fr with redrain := 0 }, is := { x.is with mesh := [], drains := [], replays := [] } }

/-- From s to t context c changes only by landings; other contexts and the mirror do not. -/
structure Lands (c : CtxId) (s t : State) : Prop where
  other : ∀ d, d ≠ c → getCtx t d = getCtx s d
  mirror : t.mirror = s.mirror
  ctx : (getCtx t c).landed = (getCtx s c).landed

theorem Lands.refl (s : State) : Lands c s s := ⟨fun _ _ => rfl, rfl, rfl⟩

theorem Lands.trans (h : Lands c s t) (k : Lands c t u) : Lands c s u :=
  ⟨fun d hd => (k.other d hd).trans (h.other d hd), k.mirror.trans h.mirror, k.ctx.trans h.ctx⟩

theorem Lands.of_rec (h : Rec s t) : Lands c s t :=
  ⟨fun d _ => h.getCtx d, h.mirror, congrArg Ctx.landed (h.getCtx c)⟩

theorem lands_of_ctxs (hc : t.ctxs = s.ctxs) (hm : t.mirror = s.mirror) : Lands c s t := by
  have hget (d : CtxId) : getCtx t d = getCtx s d := by rw [getCtx, hc, getCtx]
  exact ⟨fun d _ => hget d, hm, congrArg Ctx.landed (hget c)⟩

theorem Lands.foldl {α : Type} {f : State → α → State} (hf : ∀ s a, Lands c s (f s a)) (l : List α) (s : State) : Lands c s (l.foldl f s) :=
  List.foldlRecOn (motive := fun t => Lands c s t) l f (.refl s) fun t ht a _ => ht.trans (hf t a)

theorem lands_modCtx (s : State) {f : Ctx → Ctx} (hf : ∀ x, (f x).landed = x.landed) : Lands c s (modCtx s c f) :=
  ⟨fun d hd => getCtx_modCtx_ne _ _ _ _ hd, rfl, by rw [getCtx_modCtx_self, hf]⟩

theorem lands_tileWrites (s : State) (t : Nat) (ws : List (Nat × List Byte)) : Lands c s (ws.foldl (fun s w => tileWrite s t w.1 w.2) s) :=
  .foldl (fun s w => (lands_of_ctxs rfl rfl : Lands c s (tileWrite s t w.1 w.2))) ws s

theorem lands_nonfiniteEvent (s : State) (tile aset cause beats : Nat) (tag : BitVec 16) :
    Lands c s (nonfiniteEvent s c tile aset cause beats tag) := .of_rec (rec_raise _ _)

theorem lands_landDrain (s : State) (d : DrainPend) : Lands c s (landDrain s c d) := by
  unfold landDrain
  extract_lets x held
  split
  · exact .refl s
  · extract_lets tl st s₀ s₁ s₂
    have h₀ : Lands c s s₀ := lands_of_ctxs rfl rfl
    have h₁ : Lands c s s₁ := by
      unfold s₁
      split
      · exact h₀
      · exact h₀.trans (lands_tileWrites ..)
    have h₂ : Lands c s s₂ := by
      refine h₁.trans (lands_modCtx _ fun x => ?_)
      split <;> rfl
    split
    · split
      · exact h₂
      · exact h₂.trans (lands_nonfiniteEvent ..)
    · exact h₂

theorem lands_landOne (r : State × List TWrite) (l : Land) : Lands c r.1 (landOne c r l).1 := by
  cases l with
  | mesh m =>
    unfold landOne
    dsimp only
    split
    · exact .refl _
    · exact lands_of_ctxs rfl rfl
  | drain d => exact lands_landDrain ..

theorem lands_landUntil (s : State) (c : CtxId) (cycle : Nat) : Lands c s (landUntil s c cycle).1 := by
  unfold landUntil
  extract_lets x ms ds u ls
  split
  · exact .refl s
  · have hu : Lands c s u := lands_modCtx s (by intro; rfl)
    exact List.foldlRecOn (motive := fun r : State × List TWrite => Lands c s r.1) _ _ hu fun r hr l _ => hr.trans (lands_landOne r l)

/-- A beat that runs no tile only lands. -/
theorem lands_runCycles (s : State) (c : CtxId) (b : Nat) : Lands c s (runCycles s c b [] []).s := by
  unfold runCycles
  exact List.foldlRecOn (motive := fun r : BeatRun => Lands c s r.s) _ _ (.refl s) fun r hr i _ => hr.trans (lands_landUntil r.s c (32 * b + i))

end Landings

section Clock
variable {c : CtxId} {s t u : State}

/-- The frame number, the frame's beats and the due tick of a context. -/
def Ctx.clock (x : Ctx) : BitVec 48 × Nat × Bool := (x.fr.num, x.fr.beats, x.is.tickDue)

theorem clock_of_landed {x y : Ctx} (h : x.landed = y.landed) : x.clock = y.clock := by
  have hfr := (congrArg Ctx.fr h :)
  have his := (congrArg Ctx.is h :)
  have h₁ := (congrArg Frame.num hfr :)
  have h₂ := (congrArg Frame.beats hfr :)
  have h₃ := (congrArg Issue.tickDue his :)
  exact Prod.ext h₁ (Prod.ext h₂ h₃)

/-- From s to t the clock of context c stands. -/
structure Clocked (c : CtxId) (s t : State) : Prop where
  clock : (getCtx t c).clock = (getCtx s c).clock

theorem Clocked.refl (s : State) : Clocked c s s := ⟨rfl⟩

theorem Clocked.trans (h : Clocked c s t) (k : Clocked c t u) : Clocked c s u := ⟨k.clock.trans h.clock⟩

theorem Clocked.num (h : Clocked c s t) : (getCtx t c).fr.num = (getCtx s c).fr.num := (congrArg Prod.fst h.clock :)

theorem Clocked.of_rec (h : Rec s t) : Clocked c s t := ⟨congrArg Ctx.clock (h.getCtx c)⟩

theorem Clocked.of_lands (h : Lands c s t) : Clocked c s t := ⟨clock_of_landed h.ctx⟩

theorem clocked_of_ctxs (hc : t.ctxs = s.ctxs) : Clocked c s t := ⟨by rw [getCtx, hc, getCtx]⟩

theorem Clocked.foldl {α : Type} {f : State → α → State} (hf : ∀ s a, Clocked c s (f s a)) (l : List α) (s : State) : Clocked c s (l.foldl f s) :=
  List.foldlRecOn (motive := fun t => Clocked c s t) l f (.refl s) fun t ht a _ => ht.trans (hf t a)

theorem clocked_setCtx (s : State) {x : Ctx} (hx : x.clock = (getCtx s c).clock) : Clocked c s (setCtx s c x) :=
  ⟨by rw [getCtx_setCtx_self, hx]⟩

theorem clocked_modCtx (s : State) {f : Ctx → Ctx} (hf : ∀ x, (f x).clock = x.clock) : Clocked c s (modCtx s c f) := clocked_setCtx s (hf _)

theorem clocked_dropReport (s : State) (r : Replay) : Clocked c s (dropReport c s r) := by
  unfold dropReport
  split
  · exact .refl s
  · exact .of_lands ((lands_tileWrites ..).trans (lands_nonfiniteEvent ..))

theorem clocked_endIssue (s : State) (c : CtxId) : Clocked c s (endIssue s c) := by
  unfold endIssue
  extract_lets x last s₁ rs s₂
  have h₁ : Clocked c s s₁ := .of_lands (lands_landUntil s c _)
  have h₂ : Clocked c s₁ s₂ := clocked_modCtx s₁ (by intro; rfl)
  exact (h₁.trans h₂).trans (.foldl clocked_dropReport _ _)

theorem ctxs_closeRequests (s : State) (c : CtxId) (x : Ctx) : (closeRequests s c x).ctxs = s.ctxs := by
  unfold closeRequests
  refine List.foldlRecOn (motive := fun t : State => t.ctxs = s.ctxs) _ _ rfl fun t ht q _ => ?_
  split
  · exact ht
  · split
    · exact ht
    · split
      · refine List.foldlRecOn (motive := fun u : State => u.ctxs = s.ctxs) _ _ ht fun u hu r _ => ?_
        split
        exacts [hu, hu]
      · exact ht

theorem clocked_enterReset (s : State) (c : CtxId) (k : ResetInfo) : Clocked c s (enterReset s c k) := by
  unfold enterReset
  extract_lets s₁ s₂ x s₃ s₄ r i
  have h₁ : Clocked c s s₁ := .foldl (fun t (d : Status × Why) => .of_rec (rec_stopEvent t c d.1 d.2)) _ s
  have h₂ : Clocked c s s₂ := h₁.trans (clocked_endIssue s₁ c)
  have h₃ : s₃.ctxs = s₂.ctxs := ctxs_closeRequests s₂ c x
  clear_value s₃ s₂
  have h₄ : s₄.ctxs = s₂.ctxs := h₃
  refine h₂.trans (Clocked.trans (clocked_of_ctxs h₄) (clocked_setCtx s₄ ?_))
  rw [getCtx, h₄, ← getCtx]
  rfl

theorem clocked_stopCtxW (s : State) (c : CtxId) (st : Status) (why : Why) : Clocked c s (stopCtxW s c st why) := by
  unfold stopCtxW
  split
  · exact .refl s
  · exact .refl s
  · exact .of_rec (rec_stopEvent ..)
  · extract_lets due s₁ s₂
    have h₀ : Clocked c s (stopEvent s c st why) := .of_rec (rec_stopEvent ..)
    have h₁ : Clocked c s s₁ := h₀.trans (clocked_modCtx _ (by intro; rfl))
    have hdue : Clocked c s₁ (due.foldl (fun s d => stopEvent s c d.1 d.2) s₁) := .foldl (fun t (d : Status × Why) => .of_rec (rec_stopEvent t c d.1 d.2)) _ s₁
    have h₂ : Clocked c s s₂ := (h₁.trans hdue).trans (clocked_endIssue ..)
    split
    · exact h₂.trans (clocked_enterReset ..)
    · exact h₂

theorem clocked_takeStops (s : State) (c : CtxId) : Clocked c s (takeStops s c) := by
  unfold takeStops
  split
  · exact .refl s
  · next d r _ =>
    have h₁ : Clocked c s (modCtx s c fun x => modIs x fun i => { i with stopDue := r }) := clocked_modCtx s (by intro; rfl)
    exact h₁.trans (clocked_stopCtxW ..)

theorem clocked_virtWrite (s : State) (x : Ctx) (ret : BitVec 512) (va : Nat) (bs : List Byte) : Clocked c s (virtWrite s x ret va bs) :=
  clocked_of_ctxs (works_virtWrite (.refl s) x ret va bs).ctxs

theorem clocked_traceWrite (s : State) (c : CtxId) (rec_ : List Byte) : Clocked c s (traceWrite s c rec_) := by
  unfold traceWrite
  extract_lets x u w tr v
  have hu : Clocked c s u := clocked_virtWrite ..
  have hx : x.clock = (getCtx u c).clock := hu.clock.symm
  clear_value u
  split
  · exact .refl s
  · split
    · exact hu.trans (clocked_setCtx u hx)
    · have hv : Clocked c u v := clocked_setCtx u hx
      exact (hu.trans hv).trans (.of_rec (rec_raise ..))

/-- The run of a beat ends: only the frame's counts move. -/
theorem num_closeRun (s : State) (c : CtxId) (replay tick : Bool) (tag rep iter : Nat) (ws : List TWrite) :
    (getCtx (closeRun s c replay tick tag rep iter ws) c).fr.num = (getCtx s c).fr.num := by
  unfold closeRun
  extract_lets u
  have hu : Clocked c s u := by
    unfold u traceBeat
    extract_lets x sorted crc n
    split
    exacts [.refl s, clocked_traceWrite ..]
  rw [getCtx_modCtx_self]
  exact hu.num

theorem num_overrunEvents (s : State) (c : CtxId) : (getCtx (overrunEvents s c) c).fr.num = (getCtx s c).fr.num := by
  unfold overrunEvents
  extract_lets x f lim u
  have hu : (getCtx u c).fr.num = (getCtx s c).fr.num := by
    unfold u
    split
    · rw [(rec_raise ..).getCtx, getCtx_setCtx_self]
    · rfl
  clear_value u
  split
  · rw [(rec_raise ..).getCtx, hu]
  · exact hu

theorem clocked_applySwaps (s : State) (c : CtxId) (mask : Nat) : Clocked c s (applySwaps s c mask) := by
  unfold applySwaps
  split
  · exact .refl s
  · extract_lets u
    have hu : Clocked c s u := clocked_modCtx s fun x => by
      unfold swapCtx Ctx.clock
      dsimp only
      split <;> rfl
    exact hu.trans (.of_rec (rec_raise ..))

theorem clocked_msixSignal (s : State) (n : CtxId) (v : Nat) : Clocked c s (msixSignal s n v) := .of_rec (rec_msixSignal ..)

theorem clocked_passBoundary (s : State) (c : CtxId) : Clocked c s (passBoundary s c) := clocked_modCtx s (by intro; rfl)

/-- After the tick beat no tick is due; the frame's number and beats stand. -/
theorem clock_afterTick (s : State) (c : CtxId) (toEntry : Bool) :
    (getCtx (afterTick s c toEntry) c).clock = ((getCtx s c).fr.num, (getCtx s c).fr.beats, false) := by
  unfold afterTick
  extract_lets x x₁ x₂ u i v
  have hx₂ : x₂.clock = (x.fr.num, x.fr.beats, false) := by
    unfold x₂ x₁
    split <;> rfl
  have hu : (getCtx u c).clock = (x.fr.num, x.fr.beats, false) := by
    rw [getCtx_setCtx_self, hx₂]
  have hv : Clocked c u v := (clocked_setCtx u (by rw [hu]; exact hx₂)).trans (clocked_endIssue ..)
  clear_value u v
  split
  · split
    · rw [(clocked_takeStops u c).clock, hu]
    · split
      · rw [(clocked_enterReset v c _).clock, hv.clock, hu]
      · rw [hv.clock, hu]
  · exact hu

end Clock

section HoldBeat
variable {c : CtxId} {s : State}

/-- What landings change, written out. -/
theorem eq_of_landed {x y : Ctx} (h : x.landed = y.landed) : x = { y with
    fr := { y.fr with redrain := x.fr.redrain }
    is := { y.is with mesh := x.is.mesh, drains := x.is.drains, replays := x.is.replays } } := by
  have heta : x = { x.landed with
      fr := { x.landed.fr with redrain := x.fr.redrain }
      is := { x.landed.is with mesh := x.is.mesh, drains := x.is.drains, replays := x.is.replays } } := rfl
  rw [heta, h]
  rfl

/-- The context of a hold beat, but for its landings. -/
def heldOver (x : Ctx) (order : Nat) (tok : Option Gate) : Ctx :=
  { x with
    fr := countHold x.fr order
    is := { x.is with
      holds := x.is.holds + 1
      lastHold := order
      holdRun := if order = 4 then x.is.holdRun + 1 else 0
      holdTok := match tok with | some g => g.2.1 | none => x.is.holdTok
      holdVal := match tok with | some g => tokenVal x g.2.1 | none => x.is.holdVal } }

theorem holdBeat_lands (s : State) (c : CtxId) (order : Nat) (tok : Option Gate) :
    ∃ w, Lands c (modCtx s c fun x => heldOver x order tok) w ∧ holdBeat s c order tok = passBoundary w c :=
  ⟨_, lands_landUntil _ c _, rfl⟩

/-- A hold beat: the context that is held over, its landings, and the boundary passed. -/
theorem getCtx_holdBeat (s : State) (c : CtxId) (order : Nat) (tok : Option Gate) :
    ∃ r m d p, getCtx (holdBeat s c order tok) c =
      (let x := heldOver (getCtx s c) order tok
       { x with
         fr := { x.fr with redrain := r }
         is := { x.is with mesh := m, drains := d, replays := p, k := (x.is.k + 1) % 16, beatNo := x.is.beatNo + 1 } }) := by
  obtain ⟨w, hw, hb⟩ := holdBeat_lands s c order tok
  refine ⟨(getCtx w c).fr.redrain, (getCtx w c).is.mesh, (getCtx w c).is.drains, (getCtx w c).is.replays, ?_⟩
  have hctx := eq_of_landed hw.ctx
  rw [getCtx_modCtx_self] at hctx
  rw [hb, passBoundary, getCtx_modCtx_self, modIs]
  conv_lhs => rw [hctx]

theorem holdBeat_other (s : State) (order : Nat) (tok : Option Gate) {d : CtxId} (hd : d ≠ c) :
    getCtx (holdBeat s c order tok) d = getCtx s d := by
  obtain ⟨w, hw, hb⟩ := holdBeat_lands s c order tok
  rw [hb, passBoundary, getCtx_modCtx_ne _ _ _ _ hd, hw.other d hd, getCtx_modCtx_ne _ _ _ _ hd]

theorem mirror_holdBeat (s : State) (c : CtxId) (order : Nat) (tok : Option Gate) : (holdBeat s c order tok).mirror = s.mirror := by
  obtain ⟨w, hw, hb⟩ := holdBeat_lands s c order tok
  rw [hb]
  exact hw.mirror

/-- The phase of the bundle at the issue position is all that is looked at. -/
theorem peekPhase_eq (s : State) (c : CtxId) : ∃ ph, peekPhase s c = s ∨
    peekPhase s c = setCtx s c { getCtx s c with fr := { (getCtx s c).fr with phase := ph } } := by
  unfold peekPhase
  extract_lets x
  split
  · exact ⟨0, .inl rfl⟩
  · split
    · next bs _ =>
      extract_lets h
      split
      · exact ⟨bhPhase h, .inr rfl⟩
      · exact ⟨0, .inl rfl⟩
    · exact ⟨0, .inl rfl⟩

theorem peekPhase_spec (s : State) (c : CtxId) : (∃ ph, getCtx (peekPhase s c) c = { getCtx s c with fr := { (getCtx s c).fr with phase := ph } })
    ∧ (∀ d, d ≠ c → getCtx (peekPhase s c) d = getCtx s d) ∧ (peekPhase s c).mirror = s.mirror := by
  obtain ⟨ph, h | h⟩ := peekPhase_eq s c
  · rw [h]
    exact ⟨⟨(getCtx s c).fr.phase, rfl⟩, fun _ _ => rfl, rfl⟩
  · rw [h]
    exact ⟨⟨ph, getCtx_setCtx_self ..⟩, fun _ hd => getCtx_setCtx_ne _ _ _ _ hd, rfl⟩

theorem getCtx_sampleCtx (s : State) (c d : CtxId) : getCtx (sampleCtx s c) d = getCtx s d := by
  unfold sampleCtx
  dsimp only
  split <;> rfl

/-- The mirror's section of a context that exists. -/
theorem getSample_sampleCtx {s : State} {c : CtxId} (h : (getCtx s c).run ≠ .none) :
    (getSample (sampleCtx s c) c).gen = (getSample s c).gen + 2 ∧ (getSample (sampleCtx s c) c).tokens = (getCtx s c).tokens
      ∧ (getSample (sampleCtx s c) c).value = (getCtx s c).value ∧ (getSample (sampleCtx s c) c).cap = (getCtx s c).cap
      ∧ (getSample (sampleCtx s c) c).cnt = (getCtx s c).cnt := by
  have heq : ∃ m : CtxSample, getSample (sampleCtx s c) c = m ∧ m.gen = (getSample s c).gen + 2 ∧ m.tokens = (getCtx s c).tokens
      ∧ m.value = (getCtx s c).value ∧ m.cap = (getCtx s c).cap ∧ m.cnt = (getCtx s c).cnt := by
    unfold sampleCtx
    rw [if_neg h]
    exact ⟨_, tget_tput_self .., rfl, rfl, rfl, rfl, rfl⟩
  obtain ⟨m, hm, hfields⟩ := heq
  rw [hm]
  exact hfields

end HoldBeat

section TickBeat
variable {c : CtxId} {s : State}

/-- The tick beat starts the frame's counts anew and moves its number on. -/
theorem clock_tickBeat (s : State) (c : CtxId) : (getCtx (tickBeat s c) c).clock =
    (if (getCtx s c).fr.num = BitVec.allOnes 48 then (getCtx s c).fr.num else (getCtx s c).fr.num + 1, 0, false) := by
  unfold tickBeat
  extract_lets x r s₁ s₂ s₃ f rec_
  have hrun : Clocked c s r.s := .of_lands (lands_runCycles s c x.is.beatNo)
  clear_value r
  have h₁ : (getCtx s₁ c).fr.num = (getCtx s c).fr.num := (num_closeRun r.s c ..).trans hrun.num
  have h₂ : (getCtx s₂ c).fr.num = (getCtx s c).fr.num := (num_overrunEvents s₁ c).trans h₁
  have h₃ : f.num = (getCtx s c).fr.num := (clocked_applySwaps s₂ c _).num.trans h₂
  clear_value s₃ f
  split
  next s₄ ok _ =>
  extract_lets s₅ s₆ s₇ s₈ s₉
  have h₅ : (getCtx s₅ c).clock = (if f.num = BitVec.allOnes 48 then f.num else f.num + 1, 0, (getCtx s₅ c).is.tickDue) := by
    rw [getCtx_modCtx_self]
    rfl
  have h₆ : Clocked c s₅ s₆ := by
    unfold s₆
    split
    exacts [clocked_msixSignal .., .refl s₅]
  have h₇ : Clocked c s₅ s₇ := h₆.trans (clocked_passBoundary s₆ c)
  have h₈ : Clocked c s₅ s₈ := by
    unfold s₈
    split
    exacts [h₇, h₇.trans (clocked_stopCtxW ..)]
  have h₉ : Clocked c s₅ s₉ := by
    unfold s₉
    split
    exacts [h₈.trans (clocked_stopCtxW ..), h₈]
  have hclock := h₉.clock.trans h₅
  have hnum := (congrArg Prod.fst hclock :)
  have hbeats := (congrArg (fun k => k.2.1) hclock :)
  rw [clock_afterTick, ← h₃]
  exact Prod.ext hnum (Prod.ext hbeats rfl)

end TickBeat

section Boundary
variable {s : State} {c : CtxId} {fetched : Bool}

theorem runBoundary_of_idle (h : (getCtx s c).run ≠ .running ∨ s.pkg.computeReset = true) : runBoundary c fetched s = s := by
  rw [runBoundary]
  exact if_pos (by simpa using h)

/-- The boundary of a RUNNING context, in the order of Table 2.15. -/
theorem runBoundary_of_running (hr : (getCtx s c).run = .running) (hc : s.pkg.computeReset = false) : runBoundary c fetched s =
    if !(getCtx s c).is.stopDue.isEmpty then takeStops s c
    else match (getCtx s c).is.reset with
      | some info => enterReset s c info
      | none =>
        if reefHolds s.reef.level (getCtx s c).is.k then holdBeat (peekPhase s c) c 1 none
        else match nextPass (getCtx s c).is with
          | some (rs, n) => replayBeat (peekPhase s c) c rs n
          | none => if (getCtx s c).is.tickDue then tickBeat s c else bundleTurn s c fetched := by
  rw [runBoundary]
  exact if_neg (by simp [hr, hc])

/-- A boundary without a stop, a reset or a reef hold. -/
theorem runBoundary_of_free (hr : (getCtx s c).run = .running) (hc : s.pkg.computeReset = false) (hs : (getCtx s c).is.stopDue = [])
    (hi : (getCtx s c).is.reset = none) (hh : reefHolds s.reef.level (getCtx s c).is.k = false) : runBoundary c fetched s =
    match nextPass (getCtx s c).is with
      | some (rs, n) => replayBeat (peekPhase s c) c rs n
      | none => if (getCtx s c).is.tickDue then tickBeat s c else bundleTurn s c fetched := by
  rw [runBoundary_of_running hr hc, hs, hi, hh]
  rfl

/-- Settles O48. -/
theorem beatBoundary : Obligations.BeatBoundary := by
  intro s c fetched x hx
  subst hx
  have hexec : exec (.beatBoundary c fetched) s = .next (sampleCtx (runBoundary c fetched s) c) := rfl
  rw [hexec]
  refine ⟨fun h => by rw [runBoundary_of_idle h], fun hr hc => ⟨fun hs => ?_, fun info hs hi => ?_, fun hs hi hh => ?_, fun p n hs hi hh hp => ?_,
    fun hs hi hh hp ht => ?_, fun hs hi hh hp ht hz => ?_, fun b hs hi hh hp ht hz hb => ?_⟩⟩
  · rw [runBoundary_of_running hr hc, if_pos (by simpa using hs)]
  · rw [runBoundary_of_running hr hc, hs, hi]
    rfl
  · have hrun : runBoundary c fetched s = holdBeat (peekPhase s c) c 1 none := by
      rw [runBoundary_of_running hr hc, hs, hi, hh]
      rfl
    rw [hrun]
    refine ⟨_, rfl, ?_⟩
    obtain ⟨⟨ph, hpeek⟩, hother, hmirror⟩ := peekPhase_spec s c
    obtain ⟨r, m, d, q, hctx⟩ := getCtx_holdBeat (peekPhase s c) c 1 none
    have hno : (getCtx (holdBeat (peekPhase s c) c 1 none) c).run ≠ .none := by
      rw [hctx, hpeek]
      exact fun h => RunState.noConfusion (hr.symm.trans h)
    have hsample := getSample_sampleCtx hno
    have hget : getSample (holdBeat (peekPhase s c) c 1 none) c = getSample s c := by
      rw [getSample, mirror_holdBeat, hmirror, getSample]
    have hrest (d : CtxId) (hd : d ≠ c) : getCtx (holdBeat (peekPhase s c) c 1 none) d = getCtx s d :=
      (holdBeat_other _ _ _ hd).trans (hother d hd)
    rw [hget] at hsample
    simp only [getCtx_sampleCtx]
    generalize sampleCtx (holdBeat (peekPhase s c) c 1 none) c = v at *
    rw [hctx, hpeek] at hsample ⊢
    exact ⟨rfl, rfl, rfl, rfl, rfl, rfl, rfl, rfl, rfl, rfl, rfl, rfl, rfl, hrest, hsample⟩
  · rw [runBoundary_of_free hr hc hs hi hh, hp]
  · have hrun : runBoundary c fetched s = tickBeat s c := by
      rw [runBoundary_of_free hr hc hs hi hh, hp]
      exact if_pos ht
    have hclock := clock_tickBeat s c
    rw [hrun]
    refine ⟨_, rfl, ?_⟩
    rw [getCtx_sampleCtx]
    simp only [Ctx.clock, Prod.mk.injEq] at hclock
    obtain ⟨hnum, hbeats, hdue⟩ := hclock
    exact ⟨hbeats, hdue, hnum⟩
  · have hrun : runBoundary c fetched s = bundleTurn s c fetched := by
      rw [runBoundary_of_free hr hc hs hi hh, hp]
      exact if_neg (by simp [ht])
    rw [hrun]
    exact congrArg (fun t => Host.Outcome.next (sampleCtx t c)) (if_neg (not_not.2 hz))
  · have hrun : runBoundary c fetched s = bundleTurn s c fetched := by
      rw [runBoundary_of_free hr hc hs hi hh, hp]
      exact if_neg (by simp [ht])
    rw [hrun, hb]
    exact congrArg (fun t => Host.Outcome.next (sampleCtx t c)) (if_pos hz)

end Boundary

end Sys2Proof.Machine

/-! PROOF. CTRL words (O49). -/

namespace Sys2Proof.Machine

section ControlWord
variable {s : State} {c : CtxId} {w : BitVec 128} {kind : Nat}

/-- A valid CTRL word of its kind in a RUNNING context. -/
theorem ctrlWord_of_ok (hr : (getCtx s c).run = .running) (hc : s.pkg.computeReset = false) (hw : swClass w = 7) (hk : ctrlKind w = kind)
    (hok : ctrlOk w = true) : ctrlWord kind c w s =
      match (ctrlApply (getCtx s c) w).2 with
      | some st => dueStop (setCtx s c (ctrlApply (getCtx s c) w).1) c st
      | none => setCtx s c (ctrlApply (getCtx s c) w).1 := by
  rw [ctrlWord]
  exact (if_neg (by simp [hr, hc, hw, hk])).trans (if_neg (by simp [hok]))

/-- An invalid one stops the context. -/
theorem ctrlWord_of_bad (hr : (getCtx s c).run = .running) (hc : s.pkg.computeReset = false) (hw : swClass w = 7) (hk : ctrlKind w = kind)
    (hok : ctrlOk w = false) : ctrlWord kind c w s = stopCtx s c stBundle := by
  rw [ctrlWord]
  exact (if_neg (by simp [hr, hc, hw, hk])).trans (if_pos (by simp [hok]))

theorem ctrlWord_sets {y : Ctx} (hr : (getCtx s c).run = .running) (hc : s.pkg.computeReset = false) (hw : swClass w = 7) (hk : ctrlKind w = kind)
    (hok : ctrlOk w = true) (h : ctrlApply (getCtx s c) w = (y, none)) : ctrlWord kind c w s = setCtx s c y := by
  rw [ctrlWord_of_ok hr hc hw hk hok, h]

theorem ctrlWord_stops {y : Ctx} {st : Status} (hr : (getCtx s c).run = .running) (hc : s.pkg.computeReset = false) (hw : swClass w = 7)
    (hk : ctrlKind w = kind) (hok : ctrlOk w = true) (h : ctrlApply (getCtx s c) w = (y, some st)) :
    ctrlWord kind c w s = dueStop (setCtx s c y) c st := by
  rw [ctrlWord_of_ok hr hc hw hk hok, h]

theorem gateWord_of_ok (hr : (getCtx s c).run = .running) (hc : s.pkg.computeReset = false) (hw : swClass w = 7) (hk : ctrlKind w = 0)
    (hok : ctrlOk w = true) : gateWord c w s =
      if gatesMet (getCtx s c) ((wordGates w).filter fun g => g.1 != 0)
      then setCtx s c (takeGates (getCtx s c) ((wordGates w).filter fun g => g.1 != 0)) else s := by
  rw [gateWord]
  exact (if_neg (by simp [hr, hc, hw, hk])).trans (if_neg (by simp [hok]))

theorem gateWord_of_bad (hr : (getCtx s c).run = .running) (hc : s.pkg.computeReset = false) (hw : swClass w = 7) (hk : ctrlKind w = 0)
    (hok : ctrlOk w = false) : gateWord c w s = stopCtx s c stBundle := by
  rw [gateWord]
  exact (if_neg (by simp [hr, hc, hw, hk])).trans (if_pos (by simp [hok]))

theorem ctrlApply_tokenAdd (x : Ctx) (hk : ctrlKind w = 1) : ctrlApply x w =
    if 65535 < tokenVal x (fld w 95 86) + fld w 85 70 then (x, some stTokenOver)
    else ({ x with tokens := tput x.tokens (fld w 95 86) (BitVec.ofNat 16 (tokenVal x (fld w 95 86) + fld w 85 70)) }, none) := by
  rw [ctrlApply, hk]
  rfl

theorem ctrlApply_creditReturn (x : Ctx) (hk : ctrlKind w = 3) : ctrlApply x w =
    if (tget 0 x.cap (fld w 95 88)).toNat < (tget 0 x.value (fld w 95 88)).toNat + fld w 87 72 then (x, some stCreditOver)
    else ({ x with value := tput x.value (fld w 95 88) (BitVec.ofNat 16 ((tget 0 x.value (fld w 95 88)).toNat + fld w 87 72)) }, none) := by
  rw [ctrlApply, hk]
  rfl

theorem ctrlApply_tokenSet (x : Ctx) (hk : ctrlKind w = 2) : ctrlApply x w =
    ({ x with tokens := tput x.tokens (fld w 95 86) (BitVec.ofNat 16 (fld w 85 70)) }, none) := by
  rw [ctrlApply, hk]
  rfl

theorem ctrlApply_creditSet (x : Ctx) (hk : ctrlKind w = 4) : ctrlApply x w =
    ({ x with cap := tput x.cap (fld w 95 88) (BitVec.ofNat 16 (fld w 87 72))
              value := tput x.value (fld w 95 88) (BitVec.ofNat 16 (fld w 71 56)) }, none) := by
  rw [ctrlApply, hk]
  rfl

theorem ctrlApply_countSet (x : Ctx) (hk : ctrlKind w = 5) : ctrlApply x w =
    ({ x with cnt := tput x.cnt (fld w 95 90) (BitVec.ofNat 32 (fld w 89 58)) }, none) := by
  rw [ctrlApply, hk]
  rfl

/-- Settles O49: by the kind of the word. -/
theorem controlWords : Obligations.ControlWords := by
  intro s c w x hx hr hc hw
  subst hx
  refine ⟨fun hok => ⟨fun hk gs hgs => ⟨fun hm => ?_, fun hm => ?_⟩, fun hk k v hkey hv => ⟨fun hle => ?_, fun hlt => ?_⟩, fun hk => ?_,
    fun hk p v hp hv => ⟨fun hle => ?_, fun hlt => ?_⟩, fun hk p hp => ?_, fun hk => ?_⟩,
    fun hok => ⟨fun hk => ?_, fun hk => ?_, fun hk => ?_, fun hk => ?_, fun hk t ht => ?_, fun hk => ?_⟩⟩
  · subst hgs
    exact congrArg Host.Outcome.next ((gateWord_of_ok hr hc hw hk hok).trans (if_pos hm))
  · subst hgs
    exact congrArg Host.Outcome.next ((gateWord_of_ok hr hc hw hk hok).trans (if_neg (by simp [hm])))
  · subst hkey hv
    exact congrArg Host.Outcome.next (ctrlWord_sets hr hc hw hk hok ((ctrlApply_tokenAdd _ hk).trans (if_neg (Nat.not_lt.2 hle))))
  · subst hkey hv
    exact congrArg Host.Outcome.next (ctrlWord_stops hr hc hw hk hok ((ctrlApply_tokenAdd _ hk).trans (if_pos hlt)))
  · exact congrArg Host.Outcome.next (ctrlWord_sets hr hc hw hk hok (ctrlApply_tokenSet _ hk))
  · subst hp hv
    exact congrArg Host.Outcome.next (ctrlWord_sets hr hc hw hk hok ((ctrlApply_creditReturn _ hk).trans (if_neg (Nat.not_lt.2 hle))))
  · subst hp hv
    exact congrArg Host.Outcome.next (ctrlWord_stops hr hc hw hk hok ((ctrlApply_creditReturn _ hk).trans (if_pos hlt)))
  · subst hp
    change Host.Outcome.next (capFail c (getCtx (ctrlWord 4 c w s) c).queue.length (ctrlWord 4 c w s)) = _
    rw [ctrlWord_sets hr hc hw hk hok (ctrlApply_creditSet _ hk), getCtx_setCtx_self]
  · exact congrArg Host.Outcome.next (ctrlWord_sets hr hc hw hk hok (ctrlApply_countSet _ hk))
  · exact congrArg Host.Outcome.next (gateWord_of_bad hr hc hw hk hok)
  · exact congrArg Host.Outcome.next (ctrlWord_of_bad hr hc hw hk hok)
  · exact congrArg Host.Outcome.next (ctrlWord_of_bad hr hc hw hk hok)
  · exact congrArg Host.Outcome.next (ctrlWord_of_bad hr hc hw hk hok)
  · change Host.Outcome.next (capFail c (getCtx (ctrlWord 4 c w s) c).queue.length (ctrlWord 4 c w s)) = _
    rw [ctrlWord_of_bad hr hc hw hk hok, ht]
  · exact congrArg Host.Outcome.next (ctrlWord_of_bad hr hc hw hk hok)

end ControlWord

end Sys2Proof.Machine

/-! PROOF. One routine word alone on a tile: the layer that the rows of the matrix unit, the mesh and the vector unit share. -/

namespace Sys2Proof.Machine

section SoloWord
variable {s u v : State} {o : TileOp} {w : TW} {act : TW → State → URes}

/-- Of several suppressed accesses one outside the tile store is the one recorded. -/
theorem worstBad_badAddr (l : List TBad) : worstBad (badAddr :: l) = some badAddr := by
  rw [worstBad]
  cases worstBad l with
  | none => rfl
  | some b => exact if_neg (Nat.not_lt_zero _)

/-- The state in which the units of a word act, as the word's outcome so far. -/
theorem WordRuns.started (h : WordRuns s o w u) :
    (if twAccOp o.sw = 1 then (⟨s, [], []⟩ : WRes).run fun s => startBlock s w else ⟨s, [], []⟩) = ⟨u, [], []⟩ := by
  obtain ⟨⟨t, -, hw⟩, -, -, -, hu⟩ := h
  split
  case isFalse ha => rw [if_neg ha] at hu; rw [hu]
  case isTrue ha =>
    rw [if_pos ha] at hu
    obtain ⟨-, hheld, hu⟩ := hu
    subst hw
    unfold WRes.run startBlock
    simp only [hheld]
    rw [hu]
    rfl

/-- A word that breaks no rule of pairing or of the transpose unit runs its unit's action and ends. -/
theorem WordRuns.solo (h : WordRuns s o w u) {k : TUnit} (hl : k = .matrix → rwTxop o.rw = 1 → loadBreaks w u = false) :
    soloWord k o true act s = finishWord o.ctx w ⟨(act w u).s, (act w u).writes, (act w u).bads⟩ := by
  have hst := h.started
  obtain ⟨⟨t, ht, hw⟩, hrun, hres, hpair, hu⟩ := h
  have hb : (twAccOp o.sw == 1 && !pairOk (getCtx s o.ctx) o.sw) = false := by
    by_cases ha : twAccOp o.sw = 1
    · rw [if_pos ha] at hu
      simp [hu.1]
    · simp [ha]
  have hbr : (!pairingOk o.rw || (decide (k = .matrix) && rwTxop o.rw == 1 && loadBreaks w u)) = false := by
    by_cases hk : k = .matrix <;> by_cases hx : rwTxop o.rw = 1 <;> simp_all
  unfold soloWord
  simp only [ht, hrun, hres, hb, ← hw, hst, hbr]
  rfl

/-- A word of which no access is suppressed: its writes land. -/
theorem WordRuns.of_ok (h : WordRuns s o w u) {k : TUnit} (hl : k = .matrix → rwTxop o.rw = 1 → loadBreaks w u = false) {ws}
    (ha : act w u = ⟨v, ws, []⟩) : soloWord k o true act s = ws.foldl (fun t p => tileWrite t w.t p.1 p.2) v := by
  rw [h.solo hl, ha]
  rfl

/-- A word whose recorded access is `b`: the context stops with its status. -/
theorem WordRuns.of_bad (h : WordRuns s o w u) {k : TUnit} (hl : k = .matrix → rwTxop o.rw = 1 → loadBreaks w u = false) {bs b}
    (ha : act w u = .fail v bs) (hb : worstBad bs = some b) : soloWord k o true act s = stopCtxW v o.ctx b.2.1 b.2.2 := by
  rw [h.solo hl, ha]
  unfold finishWord
  simp only [URes.fail, hb]
  rfl

/-- The block start of a word writes no memory. -/
theorem WordRuns.byteAt (h : WordRuns s o w u) (x : Nat) : byteAt u x = byteAt s x := by
  obtain ⟨-, -, -, -, hu⟩ := h
  split at hu
  · rw [hu.2.2]; rfl
  · rw [hu]

theorem WordRuns.ctx (h : WordRuns s o w u) : w.c = o.ctx := by
  obtain ⟨⟨t, -, rfl⟩, -⟩ := h
  rfl

theorem WordRuns.rw_eq (h : WordRuns s o w u) : w.rw = o.rw := by
  obtain ⟨⟨t, -, rfl⟩, -⟩ := h
  rfl

end SoloWord

section Reads
variable {ref s v : State} {α β : Type} {w : TW}

/-- A read that leaves the tile store is suppressed and changes nothing. -/
theorem tileRead_outside {a n : Nat} (h : tileSize < a + n) : tileRead w a n s = (s, .error [badAddr]) := if_pos h

theorem logged_tileRead (h : Logged ref s) (w a n) : Logged ref (tileRead w a n s).1 := by
  have hm := logged_memRead h ⟨0, some w.c⟩ (tileBase w.t + a) n
  unfold tileRead
  split
  · exact h
  · split
    · next e => rw [e] at hm; exact hm
    · next e => rw [e] at hm; exact hm

theorem logged_both {f : Rd α} {g : Rd β} (hf : ∀ s, Logged ref s → Logged ref (f s).1) (hg : ∀ s, Logged ref s → Logged ref (g s).1)
    (h : Logged ref s) : Logged ref (f.both g s).1 := hg _ (hf _ h)

theorem logged_readUnits (h : Logged ref s) (w r a n m sp) : Logged ref (readUnits w r a n m sp s).1 := by
  have hread : ∀ a n s, Logged ref s → Logged ref (tileRead w a n s).1 := fun a n _ h => logged_tileRead h w a n
  unfold readUnits
  extract_lets f esz u e scales nibbles
  have hs : ∀ s, Logged ref s → Logged ref (scales s).1 := by
    intro s h
    unfold scales
    split
    · exact hread _ _ _ h
    · exact h
  have hn : ∀ s, Logged ref s → Logged ref (nibbles s).1 := by
    intro s h
    unfold nibbles
    split
    · exact h
    · exact hread _ _ _ h
  have hx := logged_both (hread a (n * u)) (fun _ h => logged_both hs hn h) h
  split
  · next e => rw [e] at hx; exact hx
  · next e =>
    rw [e] at hx
    dsimp only
    split <;> exact hx

theorem logged_readOperand (h : Logged ref s) (w r a rows k sp) : Logged ref (readOperand w r a rows k sp s).1 := by
  unfold readOperand
  extract_lets f half
  split
  · have hx := logged_readUnits h w r a (k / 8 * (rows / 8)) (half 64) sp
    split
    · next e => rw [e] at hx; exact hx
    · exact hx
  · split
    · have hx := logged_readUnits h w r a (rows * (k / 32)) (half 32) sp
      split
      · next e => rw [e] at hx; exact hx
      · exact hx
    · exact logged_readUnits h w r a rows (half k) sp

theorem logged_readLanes (h : Logged ref s) (w a) : Logged ref (readLanes w a s).1 := by
  have hx := logged_tileRead h w a 1024
  unfold readLanes
  split
  · next e => rw [e] at hx; exact hx
  · next e => rw [e] at hx; exact hx

/-- A read leaves every byte of memory. -/
theorem byteAt_readLanes {a : Nat} {r} (h : readLanes w a s = (v, r)) (x : Nat) : byteAt v x = byteAt s x := by
  have hx := logged_readLanes (Logged.refl s) w a
  rw [h] at hx
  exact hx.byteAt x

theorem byteAt_readOperand {r a rows k sp y} (h : readOperand w r a rows k sp s = (v, y)) (x : Nat) : byteAt v x = byteAt s x := by
  have hx := logged_readOperand (Logged.refl s) w r a rows k sp
  rw [h] at hx
  exact hx.byteAt x

/-- Two reads that both come out. -/
theorem both_ok {f : Rd α} {g : Rd β} {u : State} {a b} (hf : f s = (u, .ok a)) (hg : g u = (v, .ok b)) :
    f.both g s = (v, .ok (a, b)) := by
  unfold Rd.both
  rw [hf]
  simp only [hg]

theorem act_ok {f : Rd α} {k : State → α → URes} {a} (hf : f s = (v, .ok a)) : f.act [] k s = k v a := by
  unfold Rd.act
  rw [hf]
  rfl

theorem act_bads {f : Rd α} {k : State → α → URes} {a b l} (hf : f s = (v, .ok a)) : f.act (b :: l) k s = .fail v (b :: l) := by
  unfold Rd.act
  rw [hf]
  rfl

theorem act_error {f : Rd α} {k : State → α → URes} {e l} (hf : f s = (v, .error e)) : f.act l k s = .fail v (e ++ l) := by
  unfold Rd.act
  rw [hf]

/-- The second of two reads is made after the first. -/
theorem both_fst {f : Rd α} {g : Rd β} : (f.both g s).1 = (g (f s).1).1 := rfl

/-- Of two reads the first of which leaves the tile store, that is the first failure. -/
theorem both_badAddr {f : Rd α} {g : Rd β} (hf : f s = (s, .error [badAddr])) :
    ∃ l, f.both g s = ((g s).1, .error (badAddr :: l)) := by
  unfold Rd.both
  rw [hf]
  rcases hg : g s with ⟨t, e | b⟩
  · exact ⟨e, by simp only [hg, List.singleton_append]⟩
  · exact ⟨[], by simp only [hg]⟩

theorem badIf_false {p : Bool} {b : TBad} (h : p = false) : badIf p b = [] := by rw [h]; rfl
theorem badIf_true {p : Bool} {b : TBad} (h : p = true) : badIf p b = [b] := by rw [h]; rfl

end Reads

end Sys2Proof.Machine

/-! PROOF. Mesh sends and arrivals (O51). -/

namespace Sys2Proof.Machine

section Mesh
variable {s u v : State} {o : TileOp} {w : TW} {c : CtxId}

/-- The sends of a mesh operation of a word that has read its 256 bytes. -/
def meshSends (op : Nat) (w : TW) (x : Ctx) (bs : List Byte) : List MeshSend :=
  (meshDests x op (rwMdest w.rw) w.lt).filterMap fun l => (physTile x l).map fun t =>
    { cycle := meshLands w.cyc w.t t, src := w.lt, dst := l, addr := twD w, data := bs }

/-- With its bytes read and a tile of the context named, a mesh operation sends. -/
theorem meshOp_sends (op : Nat) {bs} (hr : tileRead w (twD w) 256 u = (v, .ok bs)) (hd : rwMdest w.rw < nTiles (getCtx u w.c)) :
    meshOp op w u = .ok (modCtx v w.c fun y => modIs y fun i => { i with mesh := i.mesh ++ meshSends op w (getCtx u w.c) bs }) := by
  unfold meshOp
  dsimp only
  rw [badIf_false (decide_eq_false (Nat.not_le_of_lt hd)), act_ok hr]
  rfl

/-- One to a tile beyond the context's is suppressed. -/
theorem meshOp_beyond (op : Nat) {bs} (hr : tileRead w (twD w) 256 u = (v, .ok bs)) (hd : nTiles (getCtx u w.c) ≤ rwMdest w.rw) :
    meshOp op w u = .fail v [badAddr] := by
  unfold meshOp
  dsimp only
  rw [badIf_true (decide_eq_true hd), act_bads hr]

/-- One whose bytes lie beyond the tile store too, and it reads nothing. -/
theorem meshOp_outside (op : Nat) (hr : tileSize < twD w + 256) : ∃ l, meshOp op w u = .fail u (badAddr :: l) := by
  unfold meshOp
  dsimp only
  rw [act_error (tileRead_outside hr)]
  exact ⟨_, rfl⟩

/-- What the row of a mesh operation does in each of the three cases. -/
theorem WordRuns.mesh_sends (h : WordRuns s o w u) (op : Nat) {bs} (hr : tileRead w (twD w) 256 u = (v, .ok bs))
    (hd : rwMdest o.rw < nTiles (getCtx u w.c)) : soloWord .mesh o true (meshOp op) s =
      modCtx v w.c fun y => modIs y fun i => { i with mesh := i.mesh ++ meshSends op w (getCtx u w.c) bs } :=
  h.of_ok (by simp) (meshOp_sends op hr (h.rw_eq ▸ hd))

theorem WordRuns.mesh_beyond (h : WordRuns s o w u) (op : Nat) {bs} (hr : tileRead w (twD w) 256 u = (v, .ok bs))
    (hd : nTiles (getCtx u w.c) ≤ rwMdest o.rw) : soloWord .mesh o true (meshOp op) s = stopCtx v o.ctx stTileAddr :=
  h.of_bad (by simp) (meshOp_beyond op hr (h.rw_eq ▸ hd)) rfl

theorem WordRuns.mesh_outside (h : WordRuns s o w u) (op : Nat) (hr : tileSize < twD w + 256) :
    soloWord .mesh o true (meshOp op) s = stopCtx u o.ctx stTileAddr := by
  obtain ⟨l, hl⟩ := meshOp_outside (u := u) op hr
  exact h.of_bad (by simp) hl (worstBad_badAddr l)

/-- A send in flight to a tile of the context lands there. -/
theorem meshLand_of_first {m : MeshSend} {t : Nat} (hm : firstMesh (getCtx s c).is.mesh = some m)
    (ht : physTile (getCtx s c) m.dst = some t) :
    meshLand c s = tileWrite (modCtx s c fun x => modIs x fun i => { i with mesh := i.mesh.erase m }) t m.addr m.data := by
  unfold meshLand landOne
  rw [hm]
  dsimp only
  rw [getCtx_modCtx_self]
  simp only [show physTile (modIs (getCtx s c) fun i => { i with mesh := i.mesh.erase m }) m.dst = some t from ht]

end Mesh

/-- Settles O51: the word layer, with the outcome of a mesh operation in its three cases. -/
theorem meshWords : Obligations.MeshWords := by
  have row {op o s} (h : rwMsop o.rw = op) : soloWord .mesh o (rwMsop o.rw == op) (meshOp op) s = soloWord .mesh o true (meshOp op) s := by
    rw [beq_iff_eq.2 h]
  refine ⟨fun s o w u v bs h hr => ?_, fun s o w u h hr => ?_, fun s c hm => ?_, fun s c m t hm ht => ?_⟩
  · intro sends
    have hs (op : Nat) : meshSends op w (getCtx u w.c) bs = sends op := by rw [meshSends, h.rw_eq]
    refine ⟨fun hd => ?_, fun hd => ?_⟩
    · have go (op : Nat) (hop : rwMsop o.rw = op) := (row hop).trans (h.mesh_sends op hr hd)
      simp only [hs] at go
      exact ⟨fun hop => congrArg Host.Outcome.next (go 1 hop), fun hop => congrArg Host.Outcome.next (go 2 hop),
        fun hop => congrArg Host.Outcome.next (go 3 hop)⟩
    · have go (op : Nat) (hop : rwMsop o.rw = op) := (row hop).trans (h.mesh_beyond op hr hd)
      exact ⟨fun hop => congrArg Host.Outcome.next (go 1 hop), fun hop => congrArg Host.Outcome.next (go 2 hop),
        fun hop => congrArg Host.Outcome.next (go 3 hop)⟩
  · have go (op : Nat) (hop : rwMsop o.rw = op) := (row hop).trans (h.mesh_outside op hr)
    exact ⟨fun hop => congrArg Host.Outcome.next (go 1 hop), fun hop => congrArg Host.Outcome.next (go 2 hop),
      fun hop => congrArg Host.Outcome.next (go 3 hop)⟩
  · have he : meshLand c s = s := by
      unfold meshLand
      rw [hm]
      rfl
    exact congrArg Host.Outcome.next he
  · exact congrArg Host.Outcome.next (meshLand_of_first hm ht)

end Sys2Proof.Machine

/-! PROOF. The vector functions (O52). -/

namespace Sys2Proof.Machine

section VectorMemory
variable {s t u v : State} {o : TileOp} {w : TW}

theorem byteAt_tileWrite_in (s : State) (t a : Nat) (bs : List Byte) {k : Nat} (h : k < bs.length) :
    byteAt (tileWrite s t a bs) (tileBase t + a + k) = bs.getD k 0 := byteAt_memWrite_in s _ bs k h

theorem byteAt_tileWrite_out (s : State) (t a : Nat) (bs : List Byte) {x : Nat} (h : x < tileBase t + a ∨ tileBase t + a + bs.length ≤ x) :
    byteAt (tileWrite s t a bs) x = byteAt s x := byteAt_memWrite_out s _ bs x h

/-- A write of at most n bytes at D keeps the bytes outside [D, D + n). -/
theorem bytesKept_tileWrite (h : WordRuns s o w u) (hv : ∀ x, byteAt v x = byteAt u x) {bs : List Byte} {n : Nat} (hn : bs.length ≤ n) :
    BytesKept s (tileWrite v w.t (twD w) bs) (tileBase w.t + twD w) n := fun x hx => by
  rw [byteAt_tileWrite_out _ _ _ _ (by omega), hv, h.byteAt]

theorem lanesBytes_length (l : List Fp) : (lanesBytes l).length = 4 * l.length := by
  induction l with
  | nil => rfl
  | cons v r ih =>
    change (leBytes 4 v.toNat ++ lanesBytes r).length = _
    rw [List.length_append, leBytes_length, ih, List.length_cons]
    omega

/-- A read of 256 lanes gives 256. -/
theorem readLanes_length {a : Nat} {l : List Fp} (h : readLanes w a s = (v, .ok l)) : l.length = 256 := by
  unfold readLanes at h
  split at h
  · obtain ⟨-, h⟩ := Prod.mk.inj h
    rw [← Except.ok.inj h]
    simp [elems]
  · simp at h

theorem readLanes_outside {a : Nat} (h : tileSize < a + 1024) : readLanes w a s = (s, .error [badAddr]) := by
  unfold readLanes
  rw [tileRead_outside h]

theorem destBads_inside {n : Nat} (h : twD w + n ≤ tileSize) : destBads w n = [] :=
  badIf_false (decide_eq_false (Nat.not_lt_of_le h))

end VectorMemory

section VectorRows
variable {s u v v2 v3 : State} {o : TileOp} {w : TW} {a b d : List Fp}

/-- Each kind of vector function, its operands read and its result inside the tile store. -/
theorem vec1_of_ok (f : Fp → Fp) (ha : readLanes w (twA w) u = (v, .ok a)) (hd : twD w + 1024 ≤ tileSize) :
    vec1 f w u = ⟨v, [(twD w, lanesBytes (a.map f))], []⟩ := by
  rw [vec1, destBads_inside hd, act_ok ha]

theorem vecAll_of_ok (f : List Fp → Fp) (ha : readLanes w (twA w) u = (v, .ok a)) (hd : twD w + 4 ≤ tileSize) :
    vecAll f w u = ⟨v, [(twD w, leBytes 4 (f a).toNat)], []⟩ := by
  rw [vecAll, destBads_inside hd, act_ok ha]

theorem vec2_of_ok (f : Fp → Fp → Fp) (ha : readLanes w (twA w) u = (v, .ok a)) (hb : readLanes w (twB w) v = (v2, .ok b))
    (hd : twD w + 1024 ≤ tileSize) : vec2 f w u = ⟨v2, [(twD w, lanesBytes (List.zipWith f a b))], []⟩ := by
  rw [vec2, destBads_inside hd, act_ok (both_ok ha hb)]

theorem vecFma_of_ok (ha : readLanes w (twA w) u = (v, .ok a)) (hb : readLanes w (twB w) v = (v2, .ok b))
    (hd : readLanes w (twD w) v2 = (v3, .ok d)) :
    vecFma w u = ⟨v3, [(twD w, lanesBytes (List.zipWith (fun p q => ffma p.1 p.2 q) (List.zip a b) d))], []⟩ := by
  rw [vecFma, act_ok (both_ok ha (both_ok hb hd))]

/-- With A beyond the tile store each is suppressed, its other operands read all the same (R101). -/
theorem vec1_outside (f : Fp → Fp) (h : tileSize < twA w + 1024) : ∃ l, vec1 f w u = .fail u (badAddr :: l) :=
  ⟨_, act_error (readLanes_outside h)⟩

theorem vecAll_outside (f : List Fp → Fp) (h : tileSize < twA w + 1024) : ∃ l, vecAll f w u = .fail u (badAddr :: l) :=
  ⟨_, act_error (readLanes_outside h)⟩

theorem vec2_outside (f : Fp → Fp → Fp) (h : tileSize < twA w + 1024) :
    ∃ l, vec2 f w u = .fail (readLanes w (twB w) u).1 (badAddr :: l) := by
  obtain ⟨l, hl⟩ := both_badAddr (g := readLanes w (twB w)) (readLanes_outside (s := u) h)
  exact ⟨_, act_error hl⟩

theorem vecSelect_outside (h : tileSize < twA w + 1024) :
    ∃ l, vecSelect w u = .fail (readLanes w (twB w) u).1 (badAddr :: l) := by
  obtain ⟨l, hl⟩ := both_badAddr (g := readLanes w (twB w)) (readLanes_outside (s := u) h)
  exact ⟨_, act_error hl⟩

theorem vecFma_outside (h : tileSize < twA w + 1024) :
    ∃ l, vecFma w u = .fail (readLanes w (twD w) (readLanes w (twB w) u).1).1 (badAddr :: l) := by
  obtain ⟨l, hl⟩ := both_badAddr (g := (readLanes w (twB w)).both (readLanes w (twD w))) (readLanes_outside (s := u) h)
  refine ⟨l, ?_⟩
  rw [both_fst] at hl
  rw [vecFma, act_error hl, List.append_nil]

/-- The row of a vector function whose first access recorded lies outside the tile store. -/
theorem WordRuns.vec_outside (h : WordRuns s o w u) {act : TW → State → URes} (ha : ∃ l, act w u = .fail v (badAddr :: l)) :
    soloWord .vector o true act s = stopCtx v o.ctx stTileAddr := by
  obtain ⟨l, hl⟩ := ha
  exact h.of_bad (by simp) hl (worstBad_badAddr l)

/-- The row of one that writes its result at D. -/
theorem WordRuns.vec_writes (h : WordRuns s o w u) {act : TW → State → URes} {bs} (ha : act w u = ⟨v, [(twD w, bs)], []⟩) :
    soloWord .vector o true act s = tileWrite v w.t (twD w) bs := h.of_ok (by simp) ha

end VectorRows

section Select
variable {s s' : State} {t : Nat}

/-- The bytes that a list of writes leaves depend on no more than the bytes before. -/
theorem byteAt_writes_congr (l : List (Nat × List Byte)) (h : ∀ x, byteAt s x = byteAt s' x) (x : Nat) :
    byteAt (l.foldl (fun s p => tileWrite s t p.1 p.2) s) x = byteAt (l.foldl (fun s p => tileWrite s t p.1 p.2) s') x := by
  induction l generalizing s s' with
  | nil => exact h x
  | cons p r ih =>
    refine ih fun y => ?_
    by_cases hy : y < tileBase t + p.1 ∨ tileBase t + p.1 + p.2.length ≤ y
    · rw [byteAt_tileWrite_out _ _ _ _ hy, byteAt_tileWrite_out _ _ _ _ hy, h]
    · obtain ⟨k, rfl⟩ := Nat.exists_eq_add_of_le (show tileBase t + p.1 ≤ y by omega)
      rw [byteAt_tileWrite_in _ _ _ _ (by omega), byteAt_tileWrite_in _ _ _ _ (by omega)]

/-- A write split in two that touch leaves the same bytes. -/
theorem byteAt_tileWrite_append (s : State) (t a : Nat) (bs cs : List Byte) (x : Nat) :
    byteAt (tileWrite s t a (bs ++ cs)) x = byteAt (tileWrite (tileWrite s t a bs) t (a + bs.length) cs) x := by
  have hl : (bs ++ cs).length = bs.length + cs.length := List.length_append
  by_cases hx : x < tileBase t + a ∨ tileBase t + a + (bs ++ cs).length ≤ x
  · rw [byteAt_tileWrite_out _ _ _ _ hx, byteAt_tileWrite_out _ _ _ _ (by omega), byteAt_tileWrite_out _ _ _ _ (by omega)]
  · obtain ⟨k, rfl⟩ := Nat.exists_eq_add_of_le (show tileBase t + a ≤ x by omega)
    rw [byteAt_tileWrite_in _ _ _ _ (by omega)]
    by_cases hk : k < bs.length
    · rw [byteAt_tileWrite_out _ _ _ _ (by omega), byteAt_tileWrite_in _ _ _ _ hk, List.getD_append _ _ _ _ hk]
    · obtain ⟨j, rfl⟩ := Nat.exists_eq_add_of_le (Nat.le_of_not_lt hk)
      rw [show tileBase t + a + (bs.length + j) = tileBase t + (a + bs.length) + j by omega, byteAt_tileWrite_in _ _ _ _ (by omega),
        List.getD_append_right _ _ _ _ (by omega), Nat.add_sub_cancel_left]

/-- Joining writes that touch leaves the same bytes. -/
theorem byteAt_joinWrites (l : List (Nat × List Byte)) (s : State) (x : Nat) :
    byteAt ((l.foldr joinWrite []).foldl (fun s p => tileWrite s t p.1 p.2) s) x = byteAt (l.foldl (fun s p => tileWrite s t p.1 p.2) s) x := by
  induction l generalizing s with
  | nil => rfl
  | cons p r ih =>
    rw [List.foldr_cons, List.foldl_cons, ← ih]
    cases r.foldr joinWrite [] with
    | nil => rfl
    | cons q l =>
      rw [joinWrite]
      split
      case isFalse => rfl
      case isTrue hq =>
        refine byteAt_writes_congr l (fun y => ?_) x
        have he := byteAt_tileWrite_append s t p.1 p.2 q.2 y
        rw [hq] at he
        exact he

/-- The write of lane l of a masked select at address D, if the lane is selected. -/
def selectWrite (dst : Nat) (q : Nat × Fp × Fp) : Option (Nat × List Byte) :=
  if q.2.2 = 0 then none else some (dst + 4 * q.1, leBytes 4 (canonFp q.2.1).toNat)

/-- Lanes below `n` of a masked select, written in order. -/
def selectLanes (dst : Nat) (a b : List Fp) (n : Nat) : List (Nat × List Byte) :=
  (List.range n).filterMap fun l => selectWrite dst (l, a.getD l 0, b.getD l 0)

theorem foldl_selectLanes_succ (dst : Nat) (a b : List Fp) (n : Nat) :
    (selectLanes dst a b (n + 1)).foldl (fun s p => tileWrite s t p.1 p.2) s =
      let r := (selectLanes dst a b n).foldl (fun s p => tileWrite s t p.1 p.2) s
      if b.getD n 0 = 0 then r else tileWrite r t (dst + 4 * n) (leBytes 4 (canonFp (a.getD n 0)).toNat) := by
  rw [selectLanes, List.range_succ, List.filterMap_append, List.foldl_append]
  rw [List.filterMap_cons]
  split
  case h_1 e =>
    have hn : b.getD n 0 = 0 := by by_contra hn; exact absurd e (by rw [selectWrite, if_neg hn]; exact Option.some_ne_none _)
    exact (if_pos hn).symm
  case h_2 p e =>
    have hn : b.getD n 0 ≠ 0 := fun hn => absurd e (by rw [selectWrite, if_pos hn]; exact (Option.some_ne_none _).symm)
    rw [selectWrite, if_neg hn] at e
    rw [← Option.some.inj e]
    exact (if_neg hn).symm

/-- The bytes of a masked select: those of the lanes that B selects, and of no other. -/
theorem byteAt_selectLanes (dst : Nat) (a b : List Fp) (n : Nat) (s : State) :
    (∀ x, x < tileBase t + dst ∨ tileBase t + dst + 4 * n ≤ x →
      byteAt ((selectLanes dst a b n).foldl (fun s p => tileWrite s t p.1 p.2) s) x = byteAt s x)
    ∧ ∀ l < n, ∀ k < 4, byteAt ((selectLanes dst a b n).foldl (fun s p => tileWrite s t p.1 p.2) s) (tileBase t + dst + 4 * l + k) =
      if b.getD l 0 = 0 then byteAt s (tileBase t + dst + 4 * l + k) else (leBytes 4 (canonFp (a.getD l 0)).toNat).getD k 0 := by
  induction n with
  | zero => exact ⟨fun x _ => rfl, fun l hl => absurd hl (Nat.not_lt_zero l)⟩
  | succ n ih =>
    obtain ⟨hout, hin⟩ := ih
    rw [foldl_selectLanes_succ]
    dsimp only
    have h4 : (leBytes 4 (canonFp (a.getD n 0)).toNat).length = 4 := leBytes_length 4 _
    refine ⟨fun x hx => ?_, fun l hl k hk => ?_⟩
    · split
      · exact hout x (by omega)
      · rw [byteAt_tileWrite_out _ _ _ _ (by omega), hout x (by omega)]
    · rcases Nat.lt_succ_iff_lt_or_eq.1 hl with hl | rfl
      · split
        · exact hin l hl k hk
        · rw [byteAt_tileWrite_out _ _ _ _ (by omega)]
          exact hin l hl k hk
      · split
        · exact hout _ (by omega)
        · rw [show tileBase t + dst + 4 * l + k = tileBase t + (dst + 4 * l) + k by omega]
          exact byteAt_tileWrite_in _ _ _ _ (by omega)

/-- Lanes read with their number, as one list by number. -/
theorem zip_range_zip {a b : List Fp} (ha : a.length = 256) (hb : b.length = 256) :
    List.zip (List.range 256) (List.zip a b) = (List.range 256).map fun l => (l, a.getD l 0, b.getD l 0) := by
  refine List.ext_getElem (by simp [ha, hb]) fun i h1 h2 => ?_
  have hi : i < 256 := by simpa using h2
  simp [List.getElem_zip, ha, hb, hi]

variable {u v v2 : State} {o : TileOp} {w : TW} {a b : List Fp}

theorem vecSelect_of_ok (ha : readLanes w (twA w) u = (v, .ok a)) (hb : readLanes w (twB w) v = (v2, .ok b))
    (hd : twD w + 1024 ≤ tileSize) : vecSelect w u = ⟨v2, (selectLanes (twD w) a b 256).foldr joinWrite [], []⟩ := by
  rw [vecSelect, destBads_inside hd, act_ok (both_ok ha hb)]
  dsimp only
  rw [zip_range_zip (readLanes_length ha) (readLanes_length hb), List.filterMap_map]
  rfl

end Select

section Convert
variable {s u v : State} {o : TileOp} {w : TW}

/-- CVT with its units read and its result inside the tile store. -/
theorem vecCvt_of_ok {dst src : BitVec 64} {us ws d} (hdst : dst = twRec u w) (hsrc : src = (getCtx u w.c).recipes.act.getD (rcPair dst) 0)
    (hr : readUnits w src (twA w) (256 / blkElems (rcFormat src)) (blkElems (rcFormat src)) none u = (v, .ok us))
    (hd : convOver dst (twD w) 256 = false) (he : d = convert (twConv v w dst (twD w)) 0 (laneBlocks (rcFormat dst) us.flatten))
    (hw : convWrites dst (twD w) d = some ws) :
    vecCvt w u =
      ⟨let y := modCtx v w.c fun x => modFr x fun f => { f with redrain := f.redrain + BitVec.ofNat 32 d.tries }
       if d.conv then nonfiniteEvent y w.c w.t (twAset w.sw) 3 (getCtx u w.c).fr.beats w.tag else y, ws, []⟩ := by
  subst hdst hsrc he
  unfold vecCvt
  dsimp only
  rw [badIf_false hd, act_ok hr, hw, Option.getD_some]

end Convert

/-- Settles O52: each function's row through the word layer, the masked select by the bytes of its lanes. -/
theorem vectorWords : Obligations.VectorWords := by
  intro s o w u h vec one
  have row {op act} (hop : rwVxop o.rw = op) : soloWord .vector o (rwVxop o.rw == op) act s = soloWord .vector o true act s := by
    rw [beq_iff_eq.2 hop]
  have hvec {op act i v ys} (hv : ∀ x, byteAt v x = byteAt u x) (hl : ys.length ≤ 256)
      (hi : exec i s = .next (soloWord .vector o (rwVxop o.rw == op) act s)) (ha : act w u = ⟨v, [(twD w, lanesBytes ys)], []⟩)
      (hop : rwVxop o.rw = op) : vec i v ys :=
    ⟨hi.trans (congrArg Host.Outcome.next ((row hop).trans (h.vec_writes ha))),
      bytesKept_tileWrite h hv (by rw [lanesBytes_length]; omega)⟩
  have hone {op act i v y} (hv : ∀ x, byteAt v x = byteAt u x)
      (hi : exec i s = .next (soloWord .vector o (rwVxop o.rw == op) act s)) (ha : act w u = ⟨v, [(twD w, leBytes 4 y.toNat)], []⟩)
      (hop : rwVxop o.rw = op) : one i v y :=
    ⟨hi.trans (congrArg Host.Outcome.next ((row hop).trans (h.vec_writes ha))),
      bytesKept_tileWrite h hv (leBytes_length 4 _).le⟩
  refine ⟨fun v a ha => ⟨fun hd => ?_, fun hd => ?_, fun v2 b hb hd => ?_⟩, ?_, ?_⟩
  · have hv := byteAt_readLanes ha
    have hl (f : Fp → Fp) : (a.map f).length ≤ 256 := by rw [List.length_map, readLanes_length ha]
    exact ⟨hvec hv (hl _) rfl (vec1_of_ok _ ha hd), hvec hv (hl _) rfl (vec1_of_ok _ ha hd), hvec hv (hl _) rfl (vec1_of_ok _ ha hd)⟩
  · have hv := byteAt_readLanes ha
    exact ⟨hone hv rfl (vecAll_of_ok _ ha hd), hone hv rfl (vecAll_of_ok _ ha hd)⟩
  · have hv (x : Nat) : byteAt v2 x = byteAt u x := (byteAt_readLanes hb x).trans (byteAt_readLanes ha x)
    have hl (f : Fp → Fp → Fp) : (List.zipWith f a b).length ≤ 256 := by
      rw [List.length_zipWith, readLanes_length ha]
      exact Nat.min_le_left _ _
    refine ⟨hvec hv (hl _) rfl (vec2_of_ok _ ha hb hd), hvec hv (hl _) rfl (vec2_of_ok _ ha hb hd), hvec hv (hl _) rfl (vec2_of_ok _ ha hb hd),
      hvec hv (hl _) rfl (vec2_of_ok _ ha hb hd), fun v3 c hc => ?_, fun hop => ?_⟩
    · refine hvec (fun x => (byteAt_readLanes hc x).trans (hv x)) ?_ rfl (vecFma_of_ok ha hb hc)
      rw [List.length_zipWith, readLanes_length hc]
      exact Nat.min_le_right _ _
    · have he := (row hop).trans (h.of_ok (by simp) (vecSelect_of_ok ha hb hd))
      obtain ⟨hout, hin⟩ := byteAt_selectLanes (t := w.t) (twD w) a b 256 v2
      have hb0 (x : Nat) : byteAt v2 x = byteAt s x := (hv x).trans (h.byteAt x)
      refine ⟨_, congrArg Host.Outcome.next he, fun x hx => ?_, fun l hl k hk => ?_⟩
      · rw [byteAt_joinWrites, hout x hx, hb0]
      · rw [byteAt_joinWrites, hin l hl k hk, hb0]
  · intro src dst v us ws hop hdst hsrc hr hover d hw y
    exact congrArg Host.Outcome.next ((row hop).trans (h.of_ok (by simp) (vecCvt_of_ok hdst hsrc hr hover rfl hw)))
  · intro hA bad ub
    have go {op act i t} (hi : exec i s = .next (soloWord .vector o (rwVxop o.rw == op) act s))
        (ha : ∃ l, act w u = .fail t (badAddr :: l)) (hop : rwVxop o.rw = op) : bad i t :=
      hi.trans (congrArg Host.Outcome.next ((row hop).trans (h.vec_outside ha)))
    exact ⟨go rfl (vec1_outside _ hA), go rfl (vec1_outside _ hA), go rfl (vec1_outside _ hA), go rfl (vecAll_outside _ hA),
      go rfl (vecAll_outside _ hA), go rfl (vec2_outside _ hA), go rfl (vec2_outside _ hA), go rfl (vec2_outside _ hA),
      go rfl (vec2_outside _ hA), go rfl (vecSelect_outside hA), go rfl (vecFma_outside hA)⟩

end Sys2Proof.Machine

/-! PROOF. The matrix unit and the transpose unit (O50). -/

namespace Sys2Proof.Machine

section Matrix
variable {s u v v1 v2 : State} {o : TileOp} {w : TW} {g k r : Nat}

/-- A MAC on a set that no block start has reached, its addresses inside the tile store. -/
theorem matrixMac_unstarted (hst : (twSet u w).started = false) (ha : twA w < tileSize) (hb : twB w < tileSize) :
    matrixMac w u = .fail u [badAcc] := by
  unfold matrixMac
  dsimp only
  rw [if_pos (by rw [hst]; rfl), addrBads, badIf_false (by simp [ha, hb])]

/-- A MAC whose operands are read: held or not. -/
theorem matrixMac_read {sp kk ra cb} (hm : macShape (pairClass (rcFormat (twSet u w).recB)) = (g, k, r)) (hst : (twSet u w).started = true)
    (hin : twB w + storeBytes (rcFormat (twSet u w).recB) (32 * k) ≤ tileSize)
    (hsp : spFind (getCtx u w.c) (twB w) (storeBytes (rcFormat (twSet u w).recB) (32 * k)) = .ok sp)
    (h24 : sp ≠ none → has24 (rcFormat (twSet u w).recB) = true) (hk : kk = if sp = none then k else 2 * k)
    (ha : readOperand w (twSet u w).recA (twA w) r kk none u = (v1, .ok ra))
    (hb : readOperand w (twSet u w).recB (twB w) 32 kk sp v1 = (v2, .ok cb)) :
    matrixMac w u = if (twSet u w).held then .fail v2 [badAcc] else .ok (putTwSet v2 w (accumRows (twSet u w) g kk r ra cb)) := by
  have hkk : (if sp.isSome = true then 2 * k else k) = kk := by rw [hk]; cases sp <;> rfl
  have hno : (sp.isSome && !has24 (rcFormat (twSet u w).recB)) = false := by
    cases sp with
    | none => rfl
    | some p => rw [h24 (Option.some_ne_none p)]; rfl
  unfold matrixMac
  simp only [hst, hm, hsp, hkk, hno, Nat.not_lt_of_le hin, Bool.not_true, Bool.false_eq_true, if_false, decide_false, Bool.or_self]
  cases hh : (twSet u w).held
  · rw [badIf_false rfl, act_ok (both_ok ha hb)]
    rfl
  · rw [badIf_true rfl, act_bads (both_ok ha hb)]
    rfl

/-- A transposed MAC on a streamed region, its operand read. -/
theorem matrixMacT_read {reg rest ra} (hm : macShape (pairClass (rcFormat (twSet u w).recB)) = (g, k, r))
    (hst : (twSet u w).started = true) (hreg : (getTile u w.t).regions = reg :: rest) (hready : reg.ready ≤ w.cyc)
    (hrow : regionRow (rcFormat reg.recB) = regionRow (rcFormat (twSet u w).recB))
    (ha : readOperand w (twSet u w).recA (twA w) r k none u = (v, .ok ra)) :
    matrixMacT w u = if (twSet u w).held then .fail v [badAcc] else .ok (putTwSet
      (setTile v w.t { getTile v w.t with
        regions := if reg.rows ≤ reg.taken + k then rest else { reg with taken := reg.taken + k } :: rest }) w
      (accumRows (twSet u w) g k r ra (columns (pieces 32 k (reg.vals.drop (32 * reg.taken)))))) := by
  unfold matrixMacT
  simp only [hst, hreg, hrow, hm, Nat.not_lt_of_le hready, Bool.not_true, Bool.false_or, Bool.true_and, decide_false, bne_self_eq_false]
  cases hh : (twSet u w).held
  · rw [badIf_false rfl, badIf_false rfl]
    exact act_ok ha
  · rw [badIf_false rfl, badIf_true rfl]
    exact act_bads ha

theorem matrixClear_eq : matrixClear w u =
    if (twSet u w).held then .fail u [badAcc] else .ok (putTwSet u w { twSet u w with pairs := [], p := 0, inBad := false }) := rfl

/-- What a matrix word leaves that a held set suppresses. -/
theorem WordRuns.of_held (h : WordRuns s o w u) {act : TW → State → URes} {b : Bool} {t : State}
    (hl : rwTxop o.rw = 1 → loadBreaks w u = false) (ha : act w u = if b then .fail v [badAcc] else .ok t) :
    (b = false → soloWord .matrix o true act s = t) ∧ (b = true → soloWord .matrix o true act s = stopCtx v o.ctx stAccState) := by
  refine ⟨fun hb => ?_, fun hb => ?_⟩
  · exact h.of_ok (fun _ => hl) (ha.trans (if_neg (by simp [hb])))
  · exact h.of_bad (fun _ => hl) (ha.trans (if_pos hb)) rfl

/-- A paired word that loads no region for itself. -/
theorem txop_ne_one_of_mac (hp : pairingOk o.rw = true) (hm : rwMxop o.rw = 1 ∨ rwMxop o.rw = 2) : rwTxop o.rw ≠ 1 := by
  intro ht
  unfold pairingOk at hp
  rcases hm with hm | hm <;> simp [hm, ht] at hp

theorem WordRuns.paired (h : WordRuns s o w u) : pairingOk o.rw = true := by
  obtain ⟨-, -, -, hp, -⟩ := h
  exact hp

/-- The region that a load brings in, its values as they are streamed. -/
theorem transposeLoad_breaks (h : loadBreaks w u = true) : transposeLoad w u = .fail u [badTr] := by
  unfold transposeLoad
  exact if_pos h

theorem transposeLoad_reads {f sp us} (hf : f = rcFormat (twSet u w).recB) (hl : loadBreaks w u = false)
    (hsp : (if has24 f then spFind (getCtx u w.c) (twA w) 4096 else .ok none) = .ok sp)
    (hr : readUnits w (twSet u w).recB (twA w) (if isGrid f then regionRows f * 32 / 64 else regionRows f)
      (if isGrid f then (if sp.isSome then 32 else 64) else (if sp.isSome then 16 else 32)) sp u = (v, .ok us)) :
    let mx := isScaled f && !isGrid f
    let vals := if mx then (requantRegion f (regionRowsOf f us)).1 else regionRowsOf f us
    let t := setTile v w.t { getTile v w.t with
      regions := (getTile v w.t).regions ++ [⟨(twSet u w).recB, regionRows f, 0, w.cyc + regionReady f, vals.flatten⟩] }
    transposeLoad w u = .ok (if mx && (requantRegion f (regionRowsOf f us)).2 then
      nonfiniteEvent t w.c w.t (twAset w.sw) 3 (getCtx u w.c).fr.beats w.tag else t) := by
  intro mx vals t
  subst hf
  unfold transposeLoad
  rw [if_neg (by rw [hl]; exact Bool.false_ne_true)]
  dsimp only
  rw [hsp]
  dsimp only
  rw [apply_ite Prod.fst, apply_ite Prod.snd, act_ok hr]
  cases hmx : (isScaled (rcFormat (twSet u w).recB) && !isGrid (rcFormat (twSet u w).recB)) <;> simp only [t, vals, mx, hmx] <;> rfl

/-- A drain whose result lies inside the tile store. -/
theorem matrixDrain_of_writes {out vs d ws} (hout : out = twRec u w)
    (hvs : vs = (List.range 1024).map fun i => pairVal (tget (0, 0) (twSet u w).pairs i))
    (hd : d = convert (twConv u w out (twD w)) ((twSet u w).tries * lowerStep (twSet u w))
      (drainBlocks (rcFormat out) (vs.map fun v => XVal.scale v ((twSet u w).tries * lowerStep (twSet u w)) : List XVal)))
    (hw : convWrites out (twD w) d = some ws) :
    let rep := !vs.all XVal.isNum && replayable (twSet u w) out
    matrixDrain w u = .ok (modCtx (putTwSet u w { twSet u w with held := true }) w.c fun y => modIs y fun i => { i with
      drains := i.drains ++ [{
        cycle := w.cyc + drainCycles (rcFormat out) - 1, tile := w.lt, aset := twAset w.sw, writes := ws
        cause := drainCause (twSet u w) out (vs.all XVal.isNum) d, redrains := if rep then 0 else d.tries, replay := rep, tag := w.tag
        beats := (getCtx u w.c).fr.beats }] }) := by
  subst hout
  unfold matrixDrain
  dsimp only
  rw [← hvs, Nat.cast_mul, ← hd, hw]

end Matrix

/-- Settles O50: each word's action with its operands read, then the word layer. -/
theorem matrixWords : Obligations.MatrixWords := by
  intro s o w u x g k r h hx hm
  subst hx
  have mrow {op act} (hop : rwMxop o.rw = op) : soloWord .matrix o (rwMxop o.rw == op) act s = soloWord .matrix o true act s := by
    rw [beq_iff_eq.2 hop]
  have trow {act} (hop : rwTxop o.rw = 1) : soloWord .transpose o (rwTxop o.rw == 1) act s = soloWord .transpose o true act s := by
    rw [beq_iff_eq.2 hop]
  have hmac (hop : rwMxop o.rw = 1 ∨ rwMxop o.rw = 2) (ht : rwTxop o.rw = 1) : loadBreaks w u = false :=
    absurd ht (txop_ne_one_of_mac h.paired hop)
  refine ⟨fun sp kk v1 ra v2 cb hop hst hin hsp h24 hkk ha hb => ?_, fun reg rest v ra hop hst hreg hready hrow ha => ?_,
    fun hop hl => ?_, fun out vs d ws hop hl hout hvs hd hw => ?_, fun sp v us f hop hf hl hsp hr => ?_, fun hop hl => ?_,
    fun hop hst ha hb => ?_⟩
  · obtain ⟨hfree, hheld⟩ := h.of_held (hmac (.inl hop)) (matrixMac_read hm hst hin hsp h24 hkk ha hb)
    refine ⟨fun hh => ⟨congrArg Host.Outcome.next ((mrow hop).trans (hfree hh)), fun y _ => ?_⟩,
      fun hh => congrArg Host.Outcome.next ((mrow hop).trans (hheld hh))⟩
    exact (byteAt_readOperand hb y).trans ((byteAt_readOperand ha y).trans (h.byteAt y))
  · obtain ⟨hfree, hheld⟩ := h.of_held (hmac (.inr hop)) (matrixMacT_read hm hst hreg hready hrow ha)
    exact ⟨fun hh => congrArg Host.Outcome.next ((mrow hop).trans (hfree hh)),
      fun hh => congrArg Host.Outcome.next ((mrow hop).trans (hheld hh))⟩
  · obtain ⟨hfree, hheld⟩ := h.of_held hl matrixClear_eq
    exact ⟨fun hh => congrArg Host.Outcome.next ((mrow hop).trans (hfree hh)),
      fun hh => congrArg Host.Outcome.next ((mrow hop).trans (hheld hh))⟩
  · exact congrArg Host.Outcome.next ((mrow hop).trans (h.of_ok (fun _ => hl) (matrixDrain_of_writes hout hvs hd hw)))
  · exact congrArg Host.Outcome.next ((trow hop).trans (h.of_ok (by simp) (transposeLoad_reads hf hl hsp hr)))
  · exact congrArg Host.Outcome.next ((trow hop).trans (h.of_bad (by simp) (transposeLoad_breaks hl) rfl))
  · exact congrArg Host.Outcome.next
      ((mrow hop).trans (h.of_bad (fun _ => hmac (.inl hop)) (matrixMac_unstarted hst ha hb) rfl))

end Sys2Proof.Machine

/-! PROOF. The start of a server's request, shared by its rows, and the movers (O53). -/

namespace Sys2Proof.Machine

section Serving
variable {ref s u v : State} {c : CtxId} {q q' : SrvReq} {cls n : Nat} {pre : State → CtxId → SrvReq → Option Status}
  {own : BitVec 512 → Bool} {check : State → CtxId → SrvReq → State × Option Status} {spans : State → CtxId → SrvReq → List (Nat × Nat)}
  {work : State → CtxId → SrvReq → State}

theorem getCtx_noteTurn (s : State) (c d : CtxId) (q : SrvReq) : getCtx (noteTurn s c q) d = getCtx s d := by
  unfold noteTurn
  split <;> rfl

/-- A request that starts has its credits, and the read of its descriptor leaves every context as it was. -/
theorem startReq_go {r : Option SrvReq} (h : startReq pre s c r = .go u q) :
    swCtake q.sw ≤ (tget 0 (getCtx s c).value (swCpool q.sw)).toNat ∧ ∀ d, getCtx u d = getCtx s d := by
  cases r with
  | none => simp [startReq] at h
  | some p =>
    have hr (va) : Works (noteTurn s c p) (virtRead (noteTurn s c p) ⟨0, some c⟩ (getCtx s c) p.ret va 64).1 := works_virtRead (.refl _) ..
    specialize hr p.va
    unfold startReq at h
    dsimp only at h
    split at h
    · simp at h
    split at h
    · simp at h
    next hc =>
      split at h
      · simp at h
      split at h
      · simp at h
      next e =>
        rw [e] at hr
        obtain ⟨rfl, rfl⟩ := Start.go.inj h
        exact ⟨Nat.le_of_not_lt hc, fun d => (hr.getCtx d).trans (getCtx_noteTurn s c d p)⟩

theorem startHead_go (h : startHead pre s c cls n = .go u q) :
    swCtake q.sw ≤ (tget 0 (getCtx s c).value (swCpool q.sw)).toNat ∧ ∀ d, getCtx u d = getCtx s d := by
  unfold startHead at h
  split at h
  · simp at h
  · exact startReq_go h

/-- Taking a request's credits lowers its pool by exactly CTAKE. -/
theorem value_takeCredits (h : swCtake q.sw ≤ (tget 0 (getCtx s c).value (swCpool q.sw)).toNat) :
    (tget 0 (getCtx (takeCredits s c q) c).value (swCpool q.sw)).toNat =
      (tget 0 (getCtx s c).value (swCpool q.sw)).toNat - swCtake q.sw := by
  have hv : (getCtx (takeCredits s c q) c).value =
      tput (getCtx s c).value (swCpool q.sw) (tget 0 (getCtx s c).value (swCpool q.sw) - BitVec.ofNat 16 (swCtake q.sw)) := by
    unfold takeCredits putHead
    rw [getCtx_modCtx_self, getCtx_modCtx_self]
  have hlt := (tget 0 (getCtx s c).value (swCpool q.sw)).isLt
  rw [hv, tget_tput_self, BitVec.toNat_sub, BitVec.toNat_ofNat]
  omega

/-- The row of a server's request: it works once it passes its checks, and fails by the first that it fails. -/
theorem serve_works (h : startHead noPre s c cls n = .go u q) (ho : own q.desc = true) (hk : check u c q = (v, none))
    (hq : q' = { q with phase := .serving, holds := spans v c q }) :
    serve cls n own check spans work s c = work (takeCredits v c q') c q' := by
  unfold serve serveReq
  rw [h]
  dsimp only
  rw [if_neg (by simp [ho]), hk, hq]

theorem serve_fails {st : Status} (h : startHead noPre s c cls n = .go u q) (ho : own q.desc = true) (hk : check u c q = (v, some st)) :
    serve cls n own check spans work s c = failHead v c q st := by
  unfold serve serveReq
  rw [h]
  dsimp only
  rw [if_neg (by simp [ho]), hk]

theorem serve_bad {st : Status} (h : startHead noPre s c cls n = .bad u q st) : serve cls n own check spans work s c = failHead u c q st := by
  unfold serve serveReq
  rw [h]

theorem serve_idle (h : startHead noPre s c cls n = .idle) : serve cls n own check spans work s c = s := by
  unfold serve serveReq
  rw [h]

end Serving

section Movers
variable {ref s u v : State} {c : CtxId} {q q' : SrvReq} {m : Fin 48} {op : Nat}

theorem works_readIdx (h : Works ref s) (c q) : Works ref (readIdx s c q).1 := by
  have hv := works_virtRead h ⟨0, some c⟩ (getCtx s c) q.ret (mdIdx q.desc) (4 * mdCount q.desc)
  unfold readIdx
  dsimp only
  split
  · split
    · next e => rw [e] at hv; exact hv
    · next e => rw [e] at hv; exact hv
  · exact h

theorem works_moveCheck (h : Works ref s) (c q) : Works ref (moveCheck s c q).1 := by
  have hr := works_readIdx h c q
  unfold moveCheck
  dsimp only
  split
  · exact h
  split
  · exact h
  split
  · exact h
  split
  · exact h
  split
  · exact h
  split
  · exact h
  split
  · next e => rw [e] at hr; exact hr
  · next e => rw [e] at hr; exact hr

theorem getCtx_moveCheck {r} (h : moveCheck u c q = (v, r)) (d : CtxId) : getCtx v d = getCtx u d := by
  have hw := works_moveCheck (.refl u) c q
  rw [h] at hw
  exact hw.getCtx d

/-- A COPY that passes its checks has one run. -/
theorem mdCount_of_copy (hop : mdOp q.desc = 0) (h : moveCheck u c q = (v, none)) : mdCount q.desc = 1 := by
  unfold moveCheck at h
  dsimp only at h
  split at h
  · simp at h
  next e =>
    have hall : ∀ x ∈ moveChecks q.desc, x.2.1 = false := by simpa [firstSt] using e
    have hx := hall (64, mdCount q.desc == 0 || (mdOp q.desc == 0 && mdCount q.desc != 1), stField) (by simp [moveChecks])
    exact (show mdCount q.desc ≠ 0 ∧ mdCount q.desc = 1 by simpa [hop] using hx).2

/-- A COPY moves its one run part by part. -/
theorem moveWork_copy {r q''} (hop : mdOp q.desc = 0) (hc : mdCount q.desc = 1)
    (h : (cutSrc q.desc (0, 0, mdLen q.desc)).foldl (movePart c)
      (s, { q with written := if mdDstSpace q.desc = 1 then [] else [(mdDst q.desc, mdLen q.desc)] }, none) = (r, q'', none)) :
    moveWork s c q = settleMove r c q'' := by
  have hi : indexed q.desc = false := by simp [indexed, hop]
  have hg : moveSegs q.desc [] = [(0, 0, mdLen q.desc)] := by simp [moveSegs, hop, hc]
  have hp : idxOnPeer s c q = false := by rw [idxOnPeer, hi, Bool.false_and]
  have hx : (readIdx s c q).2 = .ok [] := by simp [readIdx, hi]
  unfold moveWork
  rw [if_neg (by simp [hp]), hx]
  dsimp only
  unfold moveGo
  dsimp only
  rw [hg, List.flatMap_cons, List.flatMap_nil, List.append_nil, List.map_cons, List.map_nil, Nat.add_zero, h]

end Movers

/-- Settles O53: the shared start of a server's request; a COPY's one run from its checks. -/
theorem movers : Obligations.Movers := by
  intro s c m
  have own {op d} (h : mdOp d = op) : (mdOp d == op || decide (mdOp d > 4)) = true := by simp [h]
  refine ⟨fun u q h => ⟨fun v q' hk hq => ?_, fun v st hk => ?_, (startHead_go h).1, fun v q' hk hq => ?_⟩,
    fun u q v q' r q'' h hop hk hq hfold => ?_, fun u q st h => ?_, fun h => ?_, fun q hs hh => ?_, fun h => ?_⟩
  · intro t
    have go {op} (hop : mdOp q.desc = op) : moveStart op c m s = t := serve_works h (own hop) hk hq
    exact ⟨fun hop => congrArg Host.Outcome.next (go hop), fun hop => congrArg Host.Outcome.next (go hop),
      fun hop => congrArg Host.Outcome.next (go hop), fun hop => congrArg Host.Outcome.next (go hop),
      fun hop => congrArg Host.Outcome.next (go hop)⟩
  · intro t
    have go {op} (hop : mdOp q.desc = op) : moveStart op c m s = t := serve_fails h (own hop) hk
    exact ⟨fun hop => congrArg Host.Outcome.next (go hop), fun hop => congrArg Host.Outcome.next (go hop),
      fun hop => congrArg Host.Outcome.next (go hop), fun hop => congrArg Host.Outcome.next (go hop),
      fun hop => congrArg Host.Outcome.next (go hop)⟩
  · obtain ⟨hle, hu⟩ := startHead_go h
    have hv : getCtx v c = getCtx s c := (getCtx_moveCheck hk c).trans (hu c)
    subst hq
    rw [← hv] at hle ⊢
    exact value_takeCredits (q := { q with phase := .serving, holds := moveSpans v c q }) hle
  · have he : moveStart 0 c m s = _ := serve_works h (own hop) hk rfl
    subst hq
    exact congrArg Host.Outcome.next (he.trans (moveWork_copy hop (mdCount_of_copy hop hk) hfold))
  · have go (op : Nat) : moveStart op c m s = failHead u c q st := serve_bad h
    exact ⟨congrArg Host.Outcome.next (go 0), congrArg Host.Outcome.next (go 1), congrArg Host.Outcome.next (go 2),
      congrArg Host.Outcome.next (go 3), congrArg Host.Outcome.next (go 4)⟩
  · have go (op : Nat) : moveStart op c m s = s := serve_idle h
    exact ⟨congrArg Host.Outcome.next (go 0), congrArg Host.Outcome.next (go 1), congrArg Host.Outcome.next (go 2),
      congrArg Host.Outcome.next (go 3), congrArg Host.Outcome.next (go 4)⟩
  · have he : doneRow 2 c m.val s = finishHead s c q := by
      unfold doneRow
      rw [if_neg (by simp [hs]), hh]
    exact congrArg Host.Outcome.next he
  · have he : doneRow 2 c m.val s = s := by
      unfold doneRow
      rcases h with hs | hh
      · exact if_pos (by simp [hs])
      · rw [hh]
        exact ite_self _
    exact congrArg Host.Outcome.next he

end Sys2Proof.Machine

/-! PROOF. Requests of board peers and the answers to the package's own (O54). -/

namespace Sys2Proof.Machine

section MaskRuns
variable {s : State} {q : PeerQ} {m : BitVec 64}

/-- Does a list of runs hold an offset? -/
def inRuns (gs : List (Nat × Nat)) (k : Nat) : Prop := ∃ g ∈ gs, g.1 ≤ k ∧ k < g.1 + g.2

/-- A set bit in front of the runs of the bits after it. -/
def addRun (m : BitVec 64) (i : Nat) (acc : List (Nat × Nat)) : List (Nat × Nat) :=
  if !bit m i then acc
  else match acc with
    | (o, n) :: r => if o = i + 1 then (i, n + 1) :: r else (i, 1) :: (o, n) :: r
    | [] => [(i, 1)]

theorem maskRuns_eq (m : BitVec 64) : maskRuns m = (List.range 64).foldr (addRun m) [] := rfl

theorem inRuns_cons (g : Nat × Nat) (gs : List (Nat × Nat)) (k : Nat) : inRuns (g :: gs) k ↔ (g.1 ≤ k ∧ k < g.1 + g.2) ∨ inRuns gs k := by
  simp [inRuns]

theorem inRuns_addRun (i : Nat) (acc : List (Nat × Nat)) (k : Nat) :
    inRuns (addRun m i acc) k ↔ (k = i ∧ bit m i = true) ∨ inRuns acc k := by
  unfold addRun
  cases hb : bit m i
  case false => simp
  case true =>
    rw [if_neg (by simp)]
    cases acc with
    | nil =>
      simp only [inRuns_cons, and_true]
      exact or_congr_left (by omega)
    | cons g r =>
      dsimp only
      split
      · simp only [inRuns_cons, and_true, ← or_assoc]
        exact or_congr_left (by omega)
      · rw [inRuns_cons (i, 1)]
        exact or_congr_left (by simp only [and_true]; omega)

/-- The runs of a mask hold the offsets of its set bits. -/
theorem inRuns_maskRuns (k : Nat) : inRuns (maskRuns m) k ↔ k < 64 ∧ bit m k = true := by
  have gen (l : List Nat) : inRuns (l.foldr (addRun m) []) k ↔ k ∈ l ∧ bit m k = true := by
    induction l with
    | nil => simp [inRuns]
    | cons i l ih =>
      rw [List.foldr_cons, inRuns_addRun, ih, List.mem_cons, or_and_right]
      exact or_congr_left (and_congr_right fun h => by rw [h])
  rw [maskRuns_eq, gen, List.mem_range]

/-- The write of one run of a request. -/
def writeRun (q : PeerQ) (s : State) (g : Nat × Nat) : State :=
  memWrite s (q.addr.toNat / 64 * 64 + g.1) ((List.range g.2).map fun i => q.data.getD (g.1 + i) 0)

theorem byteAt_writeRuns (gs : List (Nat × Nat)) (s : State) (k : Nat) :
    (inRuns gs k → byteAt (gs.foldl (writeRun q) s) (q.addr.toNat / 64 * 64 + k) = q.data.getD k 0)
    ∧ (¬ inRuns gs k → byteAt (gs.foldl (writeRun q) s) (q.addr.toNat / 64 * 64 + k) = byteAt s (q.addr.toNat / 64 * 64 + k)) := by
  induction gs generalizing s with
  | nil => exact ⟨fun h => by simp [inRuns] at h, fun _ => rfl⟩
  | cons g gs ih =>
    have hl : ((List.range g.2).map fun i => q.data.getD (g.1 + i) 0).length = g.2 := by simp
    obtain ⟨hin, hout⟩ := ih (writeRun q s g)
    rw [inRuns_cons, List.foldl_cons]
    refine ⟨fun h => ?_, fun h => ?_⟩
    · by_cases hk : inRuns gs k
      · exact hin hk
      · obtain ⟨h1, h2⟩ := h.resolve_right hk
        obtain ⟨j, rfl⟩ := Nat.exists_eq_add_of_le h1
        have hj : j < g.2 := by omega
        rw [hout hk, writeRun, ← Nat.add_assoc, byteAt_memWrite_in _ _ _ _ (by rw [hl]; exact hj)]
        simp [hj]
    · obtain ⟨h1, h2⟩ := not_or.1 h
      rw [hout h2, writeRun, byteAt_memWrite_out _ _ _ _ (by rw [hl]; omega)]

theorem byteAt_writeRuns_below (gs : List (Nat × Nat)) (s : State) {x : Nat} (hx : x < q.addr.toNat / 64 * 64) :
    byteAt (gs.foldl (writeRun q) s) x = byteAt s x := by
  induction gs generalizing s with
  | nil => rfl
  | cons g gs ih =>
    rw [List.foldl_cons, ih, writeRun, byteAt_memWrite_out _ _ _ _ (by omega)]

/-- A write served changes the bytes under its mask and no other. -/
theorem byteAt_serveWrite (s : State) (q : PeerQ) (x : Nat) : byteAt (serveWrite s q) x =
    if q.addr.toNat / 64 * 64 ≤ x ∧ x < q.addr.toNat / 64 * 64 + 64 ∧ bit q.mask (x - q.addr.toNat / 64 * 64) = true then
      q.data.getD (x - q.addr.toNat / 64 * 64) 0
    else byteAt s x := by
  change byteAt ((maskRuns q.mask).foldl (writeRun q) s) x = _
  by_cases hx : x < q.addr.toNat / 64 * 64
  · rw [if_neg (by omega), byteAt_writeRuns_below _ _ hx]
  · obtain ⟨k, rfl⟩ := Nat.exists_eq_add_of_le (Nat.le_of_not_lt hx)
    obtain ⟨hin, hout⟩ := byteAt_writeRuns (q := q) (maskRuns q.mask) s k
    rw [Nat.add_sub_cancel_left]
    split
    · next h => exact hin ((inRuns_maskRuns k).2 ⟨by omega, h.2.2⟩)
    · next h => exact hout fun hr => h ⟨by omega, by have := (inRuns_maskRuns k).1 hr; omega, ((inRuns_maskRuns k).1 hr).2⟩

end MaskRuns

section Peer
variable {s u : State} {q : PeerQ} {port : Nat}

/-- The answer to a peer's request, in the RSP queue of its port. -/
def peerReply (q : PeerQ) (port : Nat) (s : State) (kind : Nat) (bs : List Byte) : State :=
  emitTo s port .rsp 0 q.ctx 1 bs (.peerRsp q.epoch kind bs)

/-- A request that arrives at an open port meets the key check. -/
theorem peerReq_of_open (hp : planePort s q.plane < 7) (hh : heard s (planePort s q.plane) = true)
    (hup : (getPort s (planePort s q.plane)).st = .up) (hf : s.pkg.fenced = false) :
    peerReq s q = match keyCheck s (planePort s q.plane) .req q.key.toNat with
      | (s', false) => s'
      | (s', true) =>
        match grantOwner s' q with
        | none => peerReply q (planePort s q.plane) s' 1 []
        | some owner =>
          if s'.pkg.computeReset || !physOk (q.addr.toNat / 64 * 64) 64 then peerReply q (planePort s q.plane) s' 1 []
          else if q.write then
            if isHbm (q.addr.toNat / 64 * 64) && q.mask != BitVec.allOnes 64 then peerReply q (planePort s q.plane) s' 1 []
            else peerReply q (planePort s q.plane) (serveWrite s' q) 0 []
          else match serveRead s' owner q with
            | (s', none) => peerReply q (planePort s q.plane) s' 2 []
            | (s', some bs) => peerReply q (planePort s q.plane) s' 0 bs := by
  unfold peerReq
  exact if_neg (by simp [hh, hup, hf, Nat.not_le_of_lt hp])

/-- A request's key is right only where it is the package's own, and then the check changes nothing. -/
theorem keyCheck_req_true {key : Nat} (h : keyCheck s port .req key = (u, true)) : u = s := by
  unfold keyCheck at h
  split at h
  · have hb := (Prod.mk.inj h).2
    simp at hb
  split at h
  · exact (Prod.mk.inj h).1.symm
  dsimp only at h
  split at h
  · exact absurd (Prod.mk.inj h).2 Bool.false_ne_true
  · exact absurd (Prod.mk.inj h).2 Bool.false_ne_true

end Peer

section Answers
variable {s v : State} {c : CtxId} {m : Fin 48} {key : BitVec 12} {epoch : BitVec 16} {data : List Byte} {q q' : SrvReq} {o : PeerOp}
  {rest : List PeerOp} {kind : Nat}

theorem peerRsp_discarded (h : epoch ≠ (getCtx s c).epoch ∨ partKey s = 0 ∨ key.toNat ≠ partKey s) :
    peerRsp c m key epoch kind data s = s := by
  unfold peerRsp
  exact if_pos (by rcases h with h | h | h <;> simp [h])

/-- An answer to the oldest REQ of the request in service. -/
theorem peerRsp_taken (hs : srvRuns s c = true) (he : epoch = (getCtx s c).epoch) (hp : partKey s ≠ 0) (hk : key.toNat = partKey s)
    (hh : headIn s c 2 m.val .serving = some q) (hr : q.resv = o :: rest) :
    peerRsp c m key epoch kind data s =
      if kind = 1 then failHead s c q stRemote
      else if kind ≠ 0 then failHeadW s c q stMemUe { Why.plain with remote := true }
      else if o.write then settle s c { q with resv := rest }
      else if data.length ≠ (opPlaces o).length then s
      else match o.parts.foldl (landPart c (spreadBytes o data)) (s, { q with resv := rest }, none) with
        | (s, q, some st) => failHead s c q st
        | (s, q, none) => settle s c q := by
  unfold peerRsp
  rw [if_neg (by simp [hs, he, hp, hk]), hh]
  dsimp only
  rw [hr] <;> rfl

end Answers

/-- Settles O54: the key check, the grant and the memory of a request; the answers case by case. -/
theorem peerRequests : Obligations.PeerRequests := by
  intro s
  refine ⟨fun q port a u hport ha hp hh hup hf => ⟨fun hk => ?_, fun hk => ?_⟩, fun q hf => ?_, fun c m key epoch kind data h => ?_,
    fun c m key epoch data q o rest hs he hp hk hh hr => ⟨?_, ?_, fun hw => ?_, fun hw hl v q' => ⟨fun hfold => ?_, fun st hfold => ?_⟩⟩⟩
  · subst hport
    have hx := peerReq_of_open hp hh hup hf
    rw [hk] at hx
    exact congrArg Host.Outcome.next hx
  · subst hport ha
    intro reply
    have hx := peerReq_of_open hp hh hup hf
    obtain rfl := keyCheck_req_true hk
    rw [hk] at hx
    dsimp only at hx
    refine ⟨fun hno => ?_, fun owner hc ho hphys => ?_⟩
    · refine congrArg Host.Outcome.next (hx.trans ?_)
      rcases ho : grantOwner u q with _ | owner
      · rfl
      · exact if_pos (by rcases hno with h | h | h <;> simp_all)
    · rw [ho] at hx
      dsimp only at hx
      rw [if_neg (by simp [hc, hphys])] at hx
      refine ⟨fun hw hb hm => ?_, fun hw hb => ⟨?_, byteAt_serveWrite u q⟩, fun t bs hw hr => ?_, fun t hw hr => ?_⟩
      · rw [if_pos hw, if_pos (by rw [hb, bne_iff_ne.2 hm]; rfl)] at hx
        exact congrArg Host.Outcome.next hx
      · rw [if_pos hw, if_neg (by rcases hb with h | h <;> simp [h])] at hx
        exact congrArg Host.Outcome.next hx
      · rw [if_neg (by simp [hw]), hr] at hx
        exact congrArg Host.Outcome.next hx
      · rw [if_neg (by simp [hw]), hr] at hx
        exact congrArg Host.Outcome.next hx
  · have hx : peerReq s q = s := if_pos (.inr (.inr (.inr hf)))
    exact congrArg Host.Outcome.next hx
  · exact congrArg Host.Outcome.next (peerRsp_discarded h)
  · exact congrArg Host.Outcome.next ((peerRsp_taken hs he hp hk hh hr).trans (if_pos rfl))
  · exact congrArg Host.Outcome.next ((peerRsp_taken hs he hp hk hh hr).trans ((if_neg (show ¬ 2 = 1 by decide)).trans (if_pos (show 2 ≠ 0 by decide))))
  · exact congrArg Host.Outcome.next ((peerRsp_taken hs he hp hk hh hr).trans
      ((if_neg (show ¬ 0 = 1 by decide)).trans ((if_neg (show ¬ 0 ≠ 0 by decide)).trans (if_pos hw))))
  · have hx := peerRsp_taken (kind := 0) (m := m) (data := data) hs he hp hk hh hr
    rw [if_neg (by decide), if_neg (by decide), if_neg (by simp [hw]), if_neg (by simp [hl]), hfold] at hx
    exact congrArg Host.Outcome.next hx
  · have hx := peerRsp_taken (kind := 0) (m := m) (data := data) hs he hp hk hh hr
    rw [if_neg (by decide), if_neg (by decide), if_neg (by simp [hw]), if_neg (by simp [hl]), hfold] at hx
    exact congrArg Host.Outcome.next hx

end Sys2Proof.Machine

/-! PROOF. Link engines (O55). -/

namespace Sys2Proof.Machine

section LinkStart
variable {s t v w : State} {c : CtxId} {q : SrvReq}

/-- A CSEND waits for its circuit under the next transfer number. -/
theorem csendWork_eq (hw : w = (newXfer (takeCredits v c q)).2) :
    csendWork (takeCredits v c q) c q = putHead w c { q with xfer := v.fab.xferNo } := by
  subst hw
  rfl

/-- A PUT whose source is read waits for the router in parts. -/
theorem putWork_ok {bs} (hw : w = (newXfer (takeCredits v c q)).2)
    (hr : virtRead w ⟨0, some c⟩ (getCtx w c) q.ret (ldSrc q.desc) (ldLen q.desc) = (t, .ok bs)) :
    putWork (takeCredits v c q) c q =
      (cutParts (hopMax t (ldStation q.desc)) bs).foldl (fun r p =>
        post r .msg c (ldStation q.desc) (ldCtx q.desc) v.fab.xferNo (codewords p.2.length) p.2
          (.put (outXfer r c { q with xfer := v.fab.xferNo } p.1 p.2)))
        (putHead t c { q with xfer := v.fab.xferNo }) := by
  subst hw
  unfold putWork
  dsimp only
  rw [hr]
  rfl

/-- One whose source does not read fails. -/
theorem putWork_error {st} (hw : w = (newXfer (takeCredits v c q)).2)
    (hr : virtRead w ⟨0, some c⟩ (getCtx w c) q.ret (ldSrc q.desc) (ldLen q.desc) = (t, .error st)) :
    putWork (takeCredits v c q) c q = failHead t c { q with xfer := v.fab.xferNo } st := by
  subst hw
  unfold putWork
  dsimp only
  rw [hr]
  rfl

end LinkStart

section Arrival
variable {s t : State} {x : InXfer} {i : Inbound} {wc : List (Nat × PartLine)}

theorem putArrival_closed (hp : s.pins.perstN = true) (hf : s.pkg.fenced = false) (hk : partKey s ≠ 0) (ho : ctxOpen s x.dstCtx = false) :
    putArrival s x = postAck s x.dstCtx x.srcSta x.srcCtx x.xfer (.nak x.xfer 2) := by
  unfold putArrival
  exact (if_neg (by simp [hp, hf, hk])).trans (if_pos (by simp [ho]))

/-- The first part of a transfer that no record stands for. -/
theorem putArrival_first (hp : s.pins.perstN = true) (hf : s.pkg.fenced = false) (hk : partKey s ≠ 0) (ho : ctxOpen s x.dstCtx = true)
    (hn : findIn s x = none) (h0 : x.off = 0) (hl : x.data.length ≤ x.len) :
    putArrival s x = if xferOk s x then
        xferWrite s x ⟨x.srcSta, x.srcCtx, x.xfer, x.dstCtx, (getCtx s x.dstCtx).epoch, [], false⟩
      else postAck s x.dstCtx x.srcSta x.srcCtx x.xfer (.nak x.xfer 0) := by
  unfold putArrival
  dsimp only
  rw [if_neg (by simp [hp, hf, hk]), if_neg (by simp [ho]), hn]
  dsimp only
  rw [if_neg (by simp [h0, hl])]
  cases xferOk s x <;> rfl

/-- A further part of an open transfer. -/
theorem putArrival_next (hp : s.pins.perstN = true) (hf : s.pkg.fenced = false) (hk : partKey s ≠ 0) (ho : ctxOpen s x.dstCtx = true)
    (hn : findIn s x = some i) (hc : i.closed = false) (he : i.epoch = (getCtx s x.dstCtx).epoch) (hl : x.off + x.data.length ≤ x.len) :
    putArrival s x = xferWrite s x i := by
  unfold putArrival
  dsimp only
  rw [if_neg (by simp [hp, hf, hk]), if_neg (by simp [ho]), hn]
  dsimp only
  rw [if_neg (by simp [hc]), if_neg (by simp [he]), if_neg (by omega)]

/-- What writing a part does: with the last the token rises and the acknowledgement leaves. -/
theorem xferWrite_of_staged (hst : stageWrite s (getCtx s x.dstCtx) (getCtx s x.dstCtx).ret.act i.wc (x.dstVa.toNat + x.off) x.data = (t, wc)) :
    (x.last = true → xferWrite s x i = postAck (inboundRaise (dropIn t i) x.dstCtx x.rtoken.val x.srcSta x.srcCtx x.reef x.level)
      x.dstCtx x.srcSta x.srcCtx x.xfer (.ack x.xfer x.cpool x.ctake))
    ∧ (x.last = false → xferWrite s x i = modFab (dropIn t i) fun f => { f with inbound := f.inbound ++ [{ i with wc := wc }] }) := by
  unfold xferWrite
  dsimp only
  rw [hst]
  exact ⟨fun h => if_pos h, fun h => if_neg (by simp [h])⟩

end Arrival

section LinkAnswers
variable {s : State} {c : CtxId} {e : Fin 2} {n : Nat} {q : SrvReq}

/-- The answers to a transfer in service. -/
theorem acknowledge_of_found (h : findXfer s c e.val n = some q) : acknowledge c e n s = finishHead (creditBack s c q) c q := by
  unfold acknowledge
  rw [h]

theorem nakIn_of_found (h : findXfer s c e.val n = some q) (kind : Nat) :
    nakIn c e n kind none s = failHead (creditBack s c q) c q (nakStatus kind) := by
  unfold nakIn
  dsimp only
  rw [h]

theorem linkTimeout_of_found (h : findXfer s c e.val n = some q) :
    linkTimeout c e n s = if sentLong s q then failHead s c q stLinkTimeout else s := by
  unfold linkTimeout
  rw [h]

/-- The answers to a number that no transfer in service has. -/
theorem acknowledge_of_none (h : findXfer s c e.val n = none) : acknowledge c e n s = s := by
  unfold acknowledge
  rw [h]

theorem nakIn_of_none (h : findXfer s c e.val n = none) (kind : Nat) : nakIn c e n kind none s = s := by
  unfold nakIn
  dsimp only
  rw [h]

theorem linkTimeout_of_piece (h : findXfer s c e.val n = none)
    (hq : (getCtx s c).queue.find? (fun q => q.cls == 5 && q.unit == e.val && q.phase != .queued && q.xfer == n) = some q) :
    linkTimeout c e n s = if sentLong s q = true ∧ pieceWaits s c q = false then failHead s c q stLinkTimeout else s := by
  unfold linkTimeout
  rw [h]
  dsimp only
  rw [hq]
  dsimp only
  exact if_congr (by simp) rfl rfl

theorem linkTimeout_of_none (h : findXfer s c e.val n = none)
    (hq : (getCtx s c).queue.find? (fun q => q.cls == 5 && q.unit == e.val && q.phase != .queued && q.xfer == n) = none) :
    linkTimeout c e n s = s := by
  unfold linkTimeout
  rw [h]
  dsimp only
  rw [hq]

theorem nakIn_of_coll {g : BitVec 64 × Nat} (h : findColl s c e.val g.1 g.2 = some q) (kind : Nat) :
    nakIn c e n kind (some g) s = failHead s c q (nakStatus kind) := by
  unfold nakIn
  dsimp only
  rw [h]

end LinkAnswers

/-- Settles O55: the shared start of a server's request; arrivals and answers by their record. -/
theorem linkEngines : Obligations.LinkEngines := by
  intro s
  have own {op d} (h : ldOp d = op) : (ldOp d == op || decide (ldOp d > 1)) = true := by simp [h]
  refine ⟨fun c e u q h => ⟨fun v st hk => ⟨fun hop => ?_, fun hop => ?_⟩, fun v q' w hk hq hw q'' hq2 => ⟨fun hop => ?_,
      fun t bs hop hr => ?_, fun t st hop hr => ?_⟩⟩,
    fun x hp hf hk => ⟨fun ho => ?_, fun ho hn h0 hl hx => ?_, fun i t wc ho hi hst => ?_⟩,
    fun c e n q h => ⟨?_, fun kind => ?_, fun hl => ?_, fun hl => ?_⟩, fun c e n h => ⟨?_, fun kind => ?_, fun q hq => ?_, fun hq => ?_⟩,
    fun c e n kind g q h => ?_, fun c sta ctx n hit hp hf hhit => ⟨fun hany => ?_, fun hany => ?_⟩⟩
  · have he : linkStart 0 c e s = _ := serve_fails h (own hop) hk
    exact congrArg Host.Outcome.next he
  · have he : linkStart 1 c e s = _ := serve_fails h (own hop) hk
    exact congrArg Host.Outcome.next he
  · have he : linkStart 1 c e s = _ := serve_works h (own hop) hk hq
    subst hq2
    exact congrArg Host.Outcome.next (he.trans (csendWork_eq hw))
  · have he : linkStart 0 c e s = _ := serve_works h (own hop) hk hq
    subst hq2 hq
    exact congrArg Host.Outcome.next (he.trans (putWork_ok hw hr))
  · have he : linkStart 0 c e s = _ := serve_works h (own hop) hk hq
    subst hq2 hq
    exact congrArg Host.Outcome.next (he.trans (putWork_error hw hr))
  · exact congrArg Host.Outcome.next (putArrival_closed hp hf hk ho)
  · exact congrArg Host.Outcome.next ((putArrival_first hp hf hk ho hn h0 hl).trans (if_neg (by simp [hx])))
  · obtain ⟨hlast, hmore⟩ := xferWrite_of_staged hst
    have he : putArrival s x = xferWrite s x i := by
      rcases hi with ⟨hn, h0, hl, hx, rfl⟩ | ⟨hn, hc, hep, hl⟩
      · exact (putArrival_first hp hf hk ho hn h0 hl).trans (if_pos hx)
      · exact putArrival_next hp hf hk ho hn hc hep hl
    exact ⟨fun h => congrArg Host.Outcome.next (he.trans (hlast h)), fun h => congrArg Host.Outcome.next (he.trans (hmore h))⟩
  · exact congrArg Host.Outcome.next (acknowledge_of_found h)
  · exact congrArg Host.Outcome.next (nakIn_of_found h kind)
  · exact congrArg Host.Outcome.next ((linkTimeout_of_found h).trans (if_pos hl))
  · exact congrArg Host.Outcome.next ((linkTimeout_of_found h).trans (if_neg (by simp [hl])))
  · exact congrArg Host.Outcome.next (acknowledge_of_none h)
  · exact congrArg Host.Outcome.next (nakIn_of_none h kind)
  · exact congrArg Host.Outcome.next (linkTimeout_of_piece h hq)
  · exact congrArg Host.Outcome.next (linkTimeout_of_none h hq)
  · exact congrArg Host.Outcome.next (nakIn_of_coll h kind)
  · subst hhit
    have he : closeIn c sta ctx n s = _ := (if_neg (by simp [hp, hf])).trans (if_pos hany)
    exact congrArg Host.Outcome.next he
  · subst hhit
    have he : closeIn c sta ctx n s = _ := (if_neg (by simp [hp, hf])).trans (if_neg (by rw [hany]; exact Bool.false_ne_true))
    exact congrArg Host.Outcome.next he

end Sys2Proof.Machine

/-! PROOF. What a context's request queue holds is read by no access to memory and by no event: such steps and a change of the queue
may be made in either order. -/

namespace Sys2Proof.Machine

/-- The request queue of a context changed by a function. -/
def requeue (c : CtxId) (g : List SrvReq → List SrvReq) (s : State) : State := modCtx s c fun x => { x with queue := g x.queue }

section Requeue
variable {c : CtxId} {g : List SrvReq → List SrvReq} {s : State}

theorem putHead_eq_requeue (s : State) (c : CtxId) (q : SrvReq) : putHead s c q = requeue c (editReq (sameReq q) fun _ => some q) s := rfl

@[simp] theorem requeue_clk : (requeue c g s).clk = s.clk := rfl
@[simp] theorem requeue_mem : (requeue c g s).mem = s.mem := rfl
@[simp] theorem requeue_hal : (requeue c g s).hal = s.hal := rfl
theorem getCtx_requeue_self : getCtx (requeue c g s) c = { getCtx s c with queue := g (getCtx s c).queue } := getCtx_modCtx_self ..

theorem getCtx_requeue (d : CtxId) : ∃ l, getCtx (requeue c g s) d = { getCtx s d with queue := l } := by
  by_cases h : d = c
  · subst h
    exact ⟨_, getCtx_requeue_self⟩
  · exact ⟨_, getCtx_modCtx_ne s c d _ h⟩

theorem requeue_ite {p : Prop} [Decidable p] (s t : State) : requeue c g (if p then s else t) = if p then requeue c g s else requeue c g t :=
  apply_ite _ _ _ _

theorem requeue_modMem (f : Memory → Memory) : modMem (requeue c g s) f = requeue c g (modMem s f) := rfl
theorem requeue_modHal (f : Hal → Hal) : modHal (requeue c g s) f = requeue c g (modHal s f) := rfl
theorem requeue_drawNat : drawNat (requeue c g s) = ((drawNat s).1, requeue c g (drawNat s).2) := rfl
theorem requeue_fbInPlace (row typ rows body) : fbInPlace (requeue c g s) row typ rows body = requeue c g (fbInPlace s row typ rows body) := rfl
theorem requeue_fbCounters : fbCounters (requeue c g s) = requeue c g (fbCounters s) := rfl
theorem requeue_fbSpan (limit n q : Nat) : fbSpan (requeue c g s) limit n q = fbSpan s limit n q := by
  induction n generalizing q with
  | zero => rfl
  | succ n ih =>
    unfold fbSpan
    rw [ih, ih]
    rfl

theorem requeue_fbHeader (typ rows seq body t b) : fbHeader (requeue c g s) typ rows seq body t b = fbHeader s typ rows seq body t b := rfl
theorem requeue_timeUs : timeUs (requeue c g s) = timeUs s := rfl

theorem requeue_fbAppend (typ rows body) : fbAppend (requeue c g s) typ rows body = requeue c g (fbAppend s typ rows body) := by
  unfold fbAppend
  by_cases h : s.hal.fbNext + rows > 32768
  · simp only [requeue_hal, h, if_true, requeue_modHal, requeue_fbSpan, requeue_fbHeader, requeue_timeUs, requeue_clk]
    congr 2
  · simp only [requeue_hal, h, if_false, requeue_modHal, requeue_fbSpan, requeue_fbHeader, requeue_timeUs, requeue_clk]

theorem requeue_msixSignal (n : CtxId) (v : Nat) : msixSignal (requeue c g s) n v = requeue c g (msixSignal s n v) := by
  unfold msixSignal
  dsimp only
  rw [requeue_ite]
  rfl

theorem requeue_announce (n : CtxId) : announce (requeue c g s) n = requeue c g (announce s n) := by
  unfold announce
  dsimp only
  rw [requeue_ite, ← requeue_msixSignal]
  rfl

theorem requeue_ringWrite (n : CtxId) (e : Event) : ringWrite (requeue c g s) n e = requeue c g (ringWrite s n e) := by
  unfold ringWrite
  dsimp only
  rw [requeue_ite, requeue_ite, requeue_ite, requeue_ite, ← requeue_msixSignal, ← requeue_announce]
  rfl

theorem requeue_foldl {α : Type} {f : State → α → State} (hf : ∀ s x, f (requeue c g s) x = requeue c g (f s x)) (l : List α) :
    l.foldl f (requeue c g s) = requeue c g (l.foldl f s) := by
  induction l generalizing s with
  | nil => rfl
  | cons x l ih => rw [List.foldl_cons, hf, ih, List.foldl_cons]

theorem requeue_eventLog (e : Event) : eventLog (requeue c g s) e = requeue c g (eventLog s e) := by
  unfold eventLog
  split
  · rfl
  · split
    · split
      · exact requeue_fbAppend ..
      · dsimp only
        rw [requeue_ite, ← requeue_fbAppend]
        rfl
    · split
      · exact requeue_fbAppend ..
      · rw [requeue_ite, ← requeue_fbAppend]
        rfl

theorem requeue_eventOut (e : Event) : eventOut (requeue c g s) e = requeue c g (eventOut s e) := by
  unfold eventOut
  split <;> dsimp only <;> rw [requeue_ite, ← requeue_foldl (fun t n => requeue_ringWrite n e)] <;> rfl

theorem requeue_eventMgt (e : Event) : eventMgt (requeue c g s) e = requeue c g (eventMgt s e) := by
  unfold eventMgt
  rw [requeue_ite]
  rfl

theorem requeue_raise (e : Event) : raise (requeue c g s) e = requeue c g (raise s e) := by
  unfold raise takeEvent
  rw [requeue_ite, requeue_eventLog, requeue_eventOut, requeue_eventMgt]
  rfl

theorem requeue_setReasons (n : Nat) : setReasons (requeue c g s) n = requeue c g (setReasons s n) := by
  unfold setReasons
  simp -zeta only [requeue_hal]
  extract_lets old cls days s₁ s₂ t₁ t₂
  have h₁ : s₁ = requeue c g t₁ := requeue_modHal _
  have h₂ : s₂ = requeue c g t₂ := by
    unfold s₂ t₂
    rw [requeue_ite, h₁, requeue_hal, requeue_fbCounters]
  clear_value s₂ t₂
  rw [h₂, requeue_modHal, requeue_raise, requeue_ite]

theorem requeue_reasonOn (n : Nat) : reasonOn (requeue c g s) n = requeue c g (reasonOn s n) := by
  unfold reasonOn
  extract_lets s₁ t₁
  have h₁ : s₁ = requeue c g t₁ := requeue_modHal _
  rw [h₁, requeue_hal, requeue_setReasons]

theorem requeue_tallyAdd (n len limit item : Nat) (b : Bool) :
    tallyAdd (requeue c g s) n len limit item b = requeue c g (tallyAdd s n len limit item b) := by
  unfold tallyAdd
  simp -zeta only [requeue_hal, requeue_clk]
  extract_lets i r l l₂ s₁ t₁
  have h₁ : s₁ = requeue c g t₁ := requeue_modHal _
  rw [requeue_ite, h₁, requeue_reasonOn]

theorem requeue_remapEnq (row : Nat) : remapEnq (requeue c g s) row = (requeue c g (remapEnq s row).1, (remapEnq s row).2) := by
  unfold remapEnq
  simp -zeta only [requeue_mem, requeue_modMem, requeue_reasonOn]
  extract_lets st
  split
  · rfl
  split
  · rfl
  split <;> rfl

theorem requeue_logErr (rd a cls pos syn pass) : logErr (requeue c g s) rd a cls pos syn pass = requeue c g (logErr s rd a cls pos syn pass) := by
  have hfr (t : State) (d : CtxId) : (getCtx (requeue c g t) d).fr = (getCtx t d).fr := by
    obtain ⟨l, hl⟩ := getCtx_requeue (s := t) (c := c) (g := g) d
    rw [hl]
  have hrow (t : State) (r : Nat) : fbRow (requeue c g t) r = fbRow t r := rfl
  have hslot (t : State) (k : Nat) : errSlot (requeue c g t) k = errSlot t k := rfl
  have hempty (t : State) (r : Nat) : fbEmpty (requeue c g t) r = fbEmpty t r := rfl
  unfold logErr
  split
  next source unit sec _ =>
  extract_lets d d' s₁ s₂ s₃ _ _ t₁ t₂ t₃
  have h₁ : s₁ = requeue c g t₁ := requeue_modMem _
  have h₂ : s₂ = requeue c g t₂ := by
    unfold s₂ t₂
    rw [requeue_ite, h₁, requeue_tallyAdd]
  have h₃ : s₃ = requeue c g t₃ := by
    unfold s₃ t₃
    rw [requeue_ite, h₂, requeue_tallyAdd]
  clear_value s₃ t₃
  subst h₃
  have h₄ : (if isHbm a ∧ cls = 0 then ceCount (requeue c g t₃) a pass else (requeue c g t₃, cls != 0 && isHbm a)) =
      (requeue c g (if isHbm a ∧ cls = 0 then ceCount t₃ a pass else (t₃, cls != 0 && isHbm a)).1,
        (if isHbm a ∧ cls = 0 then ceCount t₃ a pass else (t₃, cls != 0 && isHbm a)).2) := by
    split <;> rfl
  rw [h₄]
  generalize (if isHbm a ∧ cls = 0 then ceCount t₃ a pass else (t₃, cls != 0 && isHbm a)) = r₄
  obtain ⟨t₄, q⟩ := r₄
  have h₅ : (if q && rd.kind != 3 then remapEnq (requeue c g t₄) (rowOf a) else (requeue c g t₄, 0)) =
      (requeue c g (if q && rd.kind != 3 then remapEnq t₄ (rowOf a) else (t₄, 0)).1,
        (if q && rd.kind != 3 then remapEnq t₄ (rowOf a) else (t₄, 0)).2) := by
    split
    · exact requeue_remapEnq _
    · rfl
  dsimp -zeta only
  rw [h₅]
  generalize (if q && rd.kind != 3 then remapEnq t₄ (rowOf a) else (t₄, 0)) = r₅
  obtain ⟨t₅, remap⟩ := r₅
  dsimp -zeta only
  rw [requeue_mem]
  split
  · next e _ =>
    simp -zeta only [hrow, requeue_modMem]
    extract_lets old s₆ rm
    exact requeue_fbInPlace ..
  · simp -zeta only [hfr]
    extract_lets fl body s₆ t₆
    rw [hslot]
    split
    · rw [requeue_ite, requeue_fbAppend]
    · next row rest _ =>
      extract_lets s₇ s₈ t₇ t₈
      have h₆ : s₆ = requeue c g t₆ := by
        unfold s₆ t₆
        rw [requeue_ite, requeue_tallyAdd]
      have h₇ : s₇ = requeue c g t₇ := by
        unfold s₇ t₇
        rw [h₆, requeue_modMem]
      have h₈ : s₈ = requeue c g t₈ := by
        unfold s₈ t₈
        rw [h₇, requeue_ite, hempty, requeue_modHal]
      rw [h₈]
      exact requeue_fbInPlace ..

theorem requeue_readLoc (rd many) (r : State × Option MemBad) (u) : readLoc rd many (requeue c g r.1, r.2) u =
    (requeue c g (readLoc rd many r u).1, (readLoc rd many r u).2) := by
  unfold readLoc
  split
  · rfl
  · simp only [requeue_logErr]

theorem requeue_memRead (rd a n) : memRead (requeue c g s) rd a n = (requeue c g (memRead s rd a n).1, (memRead s rd a n).2) := by
  have hup : upsetIn (requeue c g s) a n = upsetIn s a n := rfl
  have hl (many) (us : List (Nat × List (Nat × Byte))) (r : State × Option MemBad) :
      us.foldl (readLoc rd many) (requeue c g r.1, r.2) = (requeue c g (us.foldl (readLoc rd many) r).1, (us.foldl (readLoc rd many) r).2) := by
    induction us generalizing r with
    | nil => rfl
    | cons u us ih => rw [List.foldl_cons, requeue_readLoc, ih, List.foldl_cons]
  unfold memRead
  simp -zeta only [hup, requeue_mem]
  extract_lets us bs
  split
  · rfl
  · rw [hl _ us (s, none)]
    generalize us.foldl (readLoc rd (decide (1 < failing us))) (s, none) = r
    obtain ⟨t, bad⟩ := r
    dsimp only
    split <;> rfl

theorem requeue_walkGo (rd ls) (s : State) : walkGo rd ls (requeue c g s) = (requeue c g (walkGo rd ls s).1, (walkGo rd ls s).2) := by
  induction ls generalizing s with
  | nil => rfl
  | cons l r ih =>
    unfold walkGo
    rw [requeue_memRead]
    rcases memRead s rd l 64 with ⟨t, e | b⟩
    · rfl
    · exact ih t

theorem requeue_walk (rd x ret va) (l : List SrvReq) : walk (requeue c g s) rd { x with queue := l } ret va =
    (requeue c g (walk s rd x ret va).1, (walk s rd x ret va).2) := by
  unfold walk
  split
  · rfl
  · rw [requeue_mem]
    split
    · rfl
    · exact requeue_walkGo ..

theorem requeue_virtReadGo (rd x ret ps) (l : List SrvReq) (s : State) : virtReadGo rd { x with queue := l } ret ps (requeue c g s) =
    (requeue c g (virtReadGo rd x ret ps s).1, (virtReadGo rd x ret ps s).2) := by
  induction ps generalizing s with
  | nil => rfl
  | cons p r ih =>
    have hx (va : Nat) : xlate (requeue c g s) { x with queue := l } ret va = xlate s x ret va := rfl
    have hloc (a : Nat) : isLocal (requeue c g s) a = isLocal s a := rfl
    unfold virtReadGo
    rw [hx]
    split
    · rfl
    · next t _ =>
      rw [hloc]
      split
      · rfl
      · rw [requeue_walk]
        rcases walk s rd x ret p.1 with ⟨u, _ | _⟩
        · rfl
        · dsimp only
          rw [requeue_memRead]
          rcases memRead u rd (localPart t.addr) p.2 with ⟨v, e | bs⟩
          · rfl
          · dsimp only
            rw [ih]
            rcases virtReadGo rd x ret r v with ⟨z, e | cs⟩ <;> rfl

theorem requeue_virtRead (rd x ret va n) (l : List SrvReq) : virtRead (requeue c g s) rd { x with queue := l } ret va n =
    (requeue c g (virtRead s rd x ret va n).1, (virtRead s rd x ret va n).2) := requeue_virtReadGo ..

theorem requeue_virtWrite (x : Ctx) (ret va bs) (l : List SrvReq) :
    virtWrite (requeue c g s) { x with queue := l } ret va bs = requeue c g (virtWrite s x ret va bs) := by
  change virtWrite (requeue c g s) x ret va bs = _
  unfold virtWrite
  refine requeue_foldl (fun t p => ?_) _
  have hx : xlate (requeue c g t) x ret p.1 = xlate t x ret p.1 := rfl
  rw [hx]
  split
  · rfl
  · rw [requeue_ite]
    rfl

theorem setCtx_requeue (s : State) (x : Ctx) : setCtx (requeue c g s) c x = setCtx s c x := setCtx_setCtx ..

theorem requeue_setCtx (s : State) (x : Ctx) : requeue c g (setCtx s c x) = setCtx s c { x with queue := g x.queue } := by
  unfold requeue modCtx
  rw [setCtx_setCtx, getCtx_setCtx_self]

theorem requeue_traceWrite (bs : List Byte) : traceWrite (requeue c g s) c bs = requeue c g (traceWrite s c bs) := by
  unfold traceWrite
  rw [getCtx_requeue_self]
  generalize getCtx s c = x
  dsimp only
  rw [requeue_virtWrite, requeue_ite, requeue_ite, ← requeue_raise, requeue_setCtx, requeue_setCtx, setCtx_requeue, setCtx_requeue]

theorem requeue_readBack (x : Ctx) (q : SrvReq) (l : List SrvReq) : readBack (requeue c g s) { x with queue := l } q = readBack s x q := by
  unfold readBack
  simp only [requeue_virtRead]

theorem requeue_traceSrv (q : SrvReq) (st : Status) : traceSrv (requeue c g s) c q st = requeue c g (traceSrv s c q st) := by
  unfold traceSrv
  rw [getCtx_requeue_self]
  generalize getCtx s c = x
  have ht (l : List SrvReq) (f : Nat) : traced { x with queue := l } f = traced x f := rfl
  dsimp only
  rw [requeue_drawNat]
  dsimp only
  rw [requeue_ite, ← requeue_traceWrite, requeue_readBack, requeue_clk, ht]

theorem requeue_collNonfinite (q : SrvReq) : collNonfinite (requeue c g s) c q = requeue c g (collNonfinite s c q) := by
  unfold collNonfinite
  rw [getCtx_requeue_self]
  dsimp only
  rw [requeue_ite, ← requeue_raise]
  rfl

end Requeue

end Sys2Proof.Machine

/-! PROOF. A vector pass of an update unit reads nothing of the request queue, and keeps the identity of its request. -/

namespace Sys2Proof.Machine

section RequeueUpdate
variable {c : CtxId} {g : List SrvReq → List SrvReq} {s : State} {q : SrvReq}

theorem requeue_reqRead (va n : Nat) : reqRead (requeue c g s) c q va n = (requeue c g (reqRead s c q va n).1, (reqRead s c q va n).2) := by
  unfold reqRead
  rw [getCtx_requeue_self]
  exact requeue_virtRead ..

theorem requeue_loadVec (r : BitVec 256) (n : Nat) :
    loadVec (requeue c g s) c q r n = (requeue c g (loadVec s c q r n).1, (loadVec s c q r n).2) := by
  unfold loadVec
  extract_lets d f k get
  have hget (a : State × Except Status (List Byte)) (p) : get (requeue c g a.1, a.2) p = (requeue c g (get a p).1, (get a p).2) := by
    obtain ⟨t, e | acc⟩ := a
    · rfl
    · unfold get
      dsimp only
      rw [requeue_reqRead]
      rcases reqRead t c q p.1 p.2 with ⟨u, e | bs⟩ <;> rfl
  have hfold (gs : List (Nat × Nat)) (a : State × Except Status (List Byte)) :
      gs.foldl get (requeue c g a.1, a.2) = (requeue c g (gs.foldl get a).1, (gs.foldl get a).2) := by
    induction gs generalizing a with
    | nil => rfl
    | cons p gs ih => rw [List.foldl_cons, hget, ih, List.foldl_cons]
  clear_value get
  rw [hfold _ (s, .ok [])]
  generalize List.foldl get (s, .ok []) _ = a
  obtain ⟨t, e | bs⟩ := a
  · rfl
  · dsimp only
    split
    · rw [hget (t, .ok [])]
      generalize get (t, .ok []) _ = b
      obtain ⟨u, e | sc⟩ := b <;> rfl
    · rfl

theorem requeue_lineIn (va : Nat) (bs : List Byte) : lineIn (requeue c g s) c q va bs = (requeue c g (lineIn s c q va bs).1, (lineIn s c q va bs).2) := by
  unfold lineIn
  rw [getCtx_requeue_self]
  extract_lets line old o buf rest
  split
  · rfl
  · rw [requeue_virtWrite]

theorem requeue_runIn (r : State × SrvReq) (p : Nat × List Byte) : runIn c (requeue c g r.1, r.2) p = (requeue c g (runIn c r p).1, (runIn c r p).2) := by
  unfold runIn
  generalize cutLines _ _ _ = ls
  induction ls generalizing r with
  | nil => rfl
  | cons l ls ih =>
    rw [List.foldl_cons, List.foldl_cons, ← ih]
    dsimp only
    rw [requeue_lineIn]

theorem requeue_runs (ps : List (Nat × List Byte)) (r : State × SrvReq) :
    ps.foldl (runIn c) (requeue c g r.1, r.2) = (requeue c g (ps.foldl (runIn c) r).1, (ps.foldl (runIn c) r).2) := by
  induction ps generalizing r with
  | nil => rfl
  | cons p ps ih => rw [List.foldl_cons, requeue_runIn, ih, List.foldl_cons]

/-- A pass in a state whose request queue has been changed. -/
def URun.requeue (c : CtxId) (g : List SrvReq → List SrvReq) (r : URun) : URun := { r with s := Machine.requeue c g r.s }

theorem requeue_updOne (r : URun) (w : BitVec 32) : updOne c (r.requeue c g) w = (updOne c r w).requeue c g := by
  have hu (n : Nat) : getUnit (requeue c g r.s) n = getUnit r.s n := rfl
  have hs (q r0 r1 n vs) : storeVec (getCtx (requeue c g r.s) c) q r0 r1 n vs = storeVec (getCtx r.s c) q r0 r1 n vs := by
    rw [getCtx_requeue_self]
    rfl
  unfold updOne URun.requeue
  dsimp only
  rw [hu]
  split
  · rfl
  · split
    · rw [requeue_loadVec]
      generalize loadVec r.s c r.q _ _ = a
      obtain ⟨t, e | xs⟩ := a <;> rfl
    · rw [hs]
      generalize storeVec _ _ _ _ _ _ = a
      obtain ⟨runs, bad⟩ := a
      dsimp only
      rw [requeue_runs _ (r.s, r.q)]
    · split <;> rfl
    · rfl

theorem requeue_updPasses (body : List (BitVec 32)) (n : Nat) (r : URun) :
    updPasses c body n (r.requeue c g) = (updPasses c body n r).requeue c g := by
  have hfold (ws : List (BitVec 32)) (r : URun) : ws.foldl (updOne c) (r.requeue c g) = (ws.foldl (updOne c) r).requeue c g := by
    induction ws generalizing r with
    | nil => rfl
    | cons w ws ih => rw [List.foldl_cons, requeue_updOne, ih, List.foldl_cons]
  induction n generalizing r with
  | zero => rfl
  | succ n ih =>
    unfold updPasses
    have hst : (r.requeue c g).st = r.st := rfl
    rw [hst]
    split
    · rfl
    · rw [← ih, ← hfold]
      rfl

end RequeueUpdate

section SameRequest
variable {c : CtxId} {s : State} {p q : SrvReq}

theorem sameReq_self (q : SrvReq) : sameReq q q = true := by simp [sameReq]

/-- Two replacements of one entry leave the second. -/
theorem editReq_put {hit : SrvReq → Bool} (hp : hit p = true) (o : Option SrvReq) (l : List SrvReq) :
    editReq hit (fun _ => o) (editReq hit (fun _ => some p) l) = editReq hit (fun _ => o) l := by
  induction l with
  | nil => rfl
  | cons a l ih =>
    by_cases ha : hit a = true
    · simp only [editReq, ha, hp, if_true]
    · simp only [editReq, ha, Bool.false_eq_true, if_false, ih]

theorem requeue_requeue (f g : List SrvReq → List SrvReq) (s : State) : requeue c f (requeue c g s) = requeue c (f ∘ g) s := by
  unfold requeue modCtx
  rw [getCtx_setCtx_self, setCtx_setCtx]
  rfl

theorem putHead_putHead (h : sameReq q = sameReq p) (s : State) (c : CtxId) : putHead (putHead s c p) c q = putHead s c q := by
  change requeue c (editReq (sameReq q) fun _ => some q) (requeue c (editReq (sameReq p) fun _ => some p) s) =
    requeue c (editReq (sameReq q) fun _ => some q) s
  rw [requeue_requeue, h]
  exact congrArg (requeue c · s) (funext fun l => editReq_put (sameReq_self p) (some q) l)

theorem popHead_putHead (h : sameReq q = sameReq p) (s : State) (c : CtxId) : popHead (putHead s c p) c q = popHead s c q := by
  change requeue c (editReq (sameReq q) fun _ => none) (requeue c (editReq (sameReq p) fun _ => some p) s) =
    requeue c (editReq (sameReq q) fun _ => none) s
  rw [requeue_requeue, h]
  exact congrArg (requeue c · s) (funext fun l => editReq_put (sameReq_self p) none l)

theorem failHead_putHead (h : sameReq q = sameReq p) (s : State) (c : CtxId) (st : Status) : failHead (putHead s c p) c q st = failHead s c q st := by
  unfold failHead failHeadW
  rw [putHead_eq_requeue, requeue_collNonfinite, requeue_traceSrv, ← putHead_eq_requeue, popHead_putHead h]
  rfl

theorem sameReq_lineIn (q : SrvReq) (va : Nat) (bs : List Byte) : sameReq (lineIn s c q va bs).2 = sameReq q := by
  unfold lineIn
  extract_lets line old o buf rest
  split <;> rfl

theorem sameReq_runIn (r : State × SrvReq) (p : Nat × List Byte) : sameReq (runIn c r p).2 = sameReq r.2 := by
  unfold runIn
  generalize cutLines _ _ _ = ls
  induction ls generalizing r with
  | nil => rfl
  | cons l ls ih => rw [List.foldl_cons, ih, sameReq_lineIn]

theorem sameReq_runs (ps : List (Nat × List Byte)) (r : State × SrvReq) : sameReq (ps.foldl (runIn c) r).2 = sameReq r.2 := by
  induction ps generalizing r with
  | nil => rfl
  | cons p ps ih => rw [List.foldl_cons, ih, sameReq_runIn]

theorem sameReq_updOne (r : URun) (w : BitVec 32) : sameReq (updOne c r w).q = sameReq r.q := by
  unfold updOne
  split
  · rfl
  · extract_lets un tab
    split
    · generalize loadVec _ _ _ _ _ = a
      obtain ⟨t, e | xs⟩ := a <;> rfl
    · generalize storeVec _ _ _ _ _ _ = a
      obtain ⟨runs, bad⟩ := a
      exact sameReq_runs runs (r.s, r.q)
    · split <;> rfl
    · rfl

theorem sameReq_updPasses (body : List (BitVec 32)) (n : Nat) (r : URun) : sameReq (updPasses c body n r).q = sameReq r.q := by
  have hfold (ws : List (BitVec 32)) (r : URun) : sameReq (ws.foldl (updOne c) r).q = sameReq r.q := by
    induction ws generalizing r with
    | nil => rfl
    | cons w ws ih => rw [List.foldl_cons, ih, sameReq_updOne]
  induction n generalizing r with
  | zero => rfl
  | succ n ih =>
    unfold updPasses
    split
    · rfl
    · rw [ih, hfold]
      rfl

/-- The run of a request does not depend on what its entry in the queue holds, as it ends by writing or removing that entry. -/
theorem updRun_putHead (h : sameReq q = sameReq p) (s : State) (c : CtxId) (k : Nat) : updRun (putHead s c p) c q k = updRun s c q k := by
  have hr : updPasses c (bodyOf q q.desc) k ⟨putHead s c p, q, none⟩ = (updPasses c (bodyOf q q.desc) k ⟨s, q, none⟩).requeue c _ :=
    requeue_updPasses (g := editReq (sameReq p) fun _ => some p) (bodyOf q q.desc) k ⟨s, q, none⟩
  have hq := (sameReq_updPasses (c := c) (bodyOf q q.desc) k ⟨s, q, none⟩).trans h
  unfold updRun
  rw [hr]
  generalize updPasses c (bodyOf q q.desc) k ⟨s, q, none⟩ = r at hq
  obtain ⟨t, q', _ | st⟩ := r
  · dsimp only [URun.requeue]
    rw [← putHead_eq_requeue]
    split
    · exact putHead_putHead hq t c
    · exact putHead_putHead (by exact hq) t c
  · exact failHead_putHead hq t c st

theorem updWork_putHead (h : sameReq q = sameReq p) (s : State) (c : CtxId) (k : Nat) : updWork (putHead s c p) c q k = updWork s c q k := by
  unfold updWork
  extract_lets d u0
  split
  · exact putHead_putHead (by exact h) (setUnit s q.unit _) c
  · rw [putHead_eq_requeue, requeue_reqRead]
    generalize reqRead s c q (udParam d) 64 = a
    obtain ⟨t, st | ps⟩ := a
    · exact failHead_putHead h t c st
    · exact updRun_putHead h (setUnit t q.unit _) c _

end SameRequest

end Sys2Proof.Machine

/-! PROOF. Update units: their requests and instructions (O56). -/

namespace Sys2Proof.Machine

section UpdateStart
variable {s v w : State} {c : CtxId} {u : Fin 24} {q q' : SrvReq} {tab : List Byte} {k : Nat} {only : Bool}

/-- Credits taken for a request as read or as checked: the entry in the queue alone differs. -/
theorem takeCredits_checked (w : State) (c : CtxId) (h : sameReq q' = sameReq q) (hs : q'.sw = q.sw) (hp : q'.phase = .serving) :
    takeCredits w c q' = putHead (takeCredits w c q) c q' := by
  have hq : { q' with phase := .serving } = q' := by cases q'; cases hp; rfl
  unfold takeCredits
  rw [hq, hs]
  exact (putHead_putHead (p := { q with phase := .serving }) (by exact h) _ c).symm

/-- The start of an update request of the row's kind. -/
theorem updStart_works (h : startHead updPre s c 3 u.val = .go v q) (ho : (udNvec q.desc == 0) = only)
    (hk : updCheck v c q = (w, .ok (tab, k))) (hq : q' = { q with phase := .serving, tab := tab, holds := updSpans q.desc tab }) :
    updStart only c u s = updWork (takeCredits w c q') c q' k := by
  rw [takeCredits_checked w c (q := q) (by rw [hq]; rfl) (by rw [hq]) (by rw [hq]), updWork_putHead rfl, hq]
  unfold updStart
  rw [h]
  dsimp only
  rw [if_neg (by simp [ho]), hk]

theorem updStart_fails {st : Status} (h : startHead updPre s c 3 u.val = .go v q) (ho : (udNvec q.desc == 0) = only)
    (hk : updCheck v c q = (w, .error st)) : updStart only c u s = failHead w c q st := by
  unfold updStart
  rw [h]
  dsimp only
  rw [if_neg (by simp [ho]), hk]

/-- A raise-only request does no passes. -/
theorem updWork_raiseOnly (h : udNvec q.desc = 0) (s : State) (c : CtxId) (k : Nat) :
    updWork s c q k = putHead (setUnit s q.unit { UpdUnit.init with ctx := c, q := udVbase q.desc }) c { q with phase := .ready, skip := k } := by
  unfold updWork
  exact if_pos (.inr h)

theorem headIn_phase {cls n : Nat} {ph ph' : Phase} (h : headIn s c cls n ph = some q) (hne : ph ≠ ph') : headIn s c cls n ph' = none := by
  unfold headIn at h ⊢
  cases hq : unitQueue (getCtx s c) cls n with
  | nil => rfl
  | cons p r =>
    rw [hq] at h
    dsimp only at h ⊢
    split at h
    · next hp => exact if_neg (hp.symm ▸ hne)
    · simp at h

/-- A unit whose head request runs goes on with it. -/
theorem updStart_on (hs : srvRuns s c = true) (h : headIn s c 3 u.val .serving = some q) :
    updStart false c u s = updRun s c q (toQuiesce (udNvec q.desc) q.vdone) := by
  have hidle : startHead updPre s c 3 u.val = .idle := by
    have hw : waiting s c 3 u.val = none := headIn_phase h (by decide)
    unfold startHead
    rw [hw]
    exact ite_self _
  unfold updStart
  rw [hidle]
  dsimp only
  rw [if_neg (by decide), updOn, h]
  exact if_neg (by simp [hs])

end UpdateStart

section UpdateDone
variable {s v : State} {c : CtxId} {u : Fin 24} {q q' : SrvReq}

/-- The completion of a request whose passes are not over runs them first. -/
theorem updDone_running (hs : srvRuns s c = true) (h : headIn s c 3 u.val .serving = some q)
    (ht : headIn (updRun s c q (udNvec q.desc - q.vdone)) c 3 u.val .serving = none) :
    updDone c u s = updDone c u (updRun s c q (udNvec q.desc - q.vdone)) := by
  unfold updDone
  rw [h, ht]
  dsimp only
  rw [if_pos hs]

/-- The completion of one that is ready, its version raised. -/
theorem updDone_ready (hs : srvRuns s c = true) (h : headIn s c 3 u.val .ready = some q) (hr : raiseVersion s c q = (v, .ok q')) :
    (udResEn q'.desc = false → updDone c u s = finishHead (updNonfinite v c q') c q')
    ∧ (udResEn q'.desc = true → updDone c u s = finishHead (updNonfinite (virtWrite v (getCtx v c) q'.ret (udResult q'.desc) (updResult q')) c
        { q' with written := q'.written ++ [(udResult q'.desc, 64)] }) c { q' with written := q'.written ++ [(udResult q'.desc, 64)] }) := by
  unfold updDone
  rw [headIn_phase h (ph' := .serving) (by decide)]
  dsimp only
  rw [if_neg (by simp [hs]), h]
  dsimp only
  rw [hr]
  dsimp only
  exact ⟨fun he => by rw [if_neg (by simp [he])], fun he => by rw [if_pos he]⟩

end UpdateDone

section UpdateInstructions
variable {s v : State} {c : CtxId} {u : Fin 24} {w : BitVec 32} {p q q' : SrvReq} {op : Nat}

/-- A unit after an instruction without a stream: its registers, and the step of the request it runs. -/
def afterArith (s : State) (u : Fin 24) (w : BitVec 32) (y : UpdUnit) : State :=
  match runningOn (setUnit s u.val y) u.val with
  | some (c, q) => putHead (setUnit s u.val y) c (stepBody q w)
  | none => setUnit s u.val y

theorem updAlone_arith (hr : s.pkg.computeReset = false) (hi : firstSt (instrChecks w) = none) (hop : uiOpc w = op) (hlt : op < 0x20) :
    updAlone op u w s = afterArith s u w (updArith op w (getUnit s u.val)) := by
  unfold updAlone
  rw [if_neg (by simp [hop, hi, hr]), if_pos hlt]
  rfl

/-- An instruction with a stream, or END, of the request in service. -/
theorem updAlone_running (hr : s.pkg.computeReset = false) (hi : firstSt (instrChecks w) = none) (hop : uiOpc w = op) (hge : 0x20 ≤ op)
    (hrun : runningOn s u.val = some (c, p)) (hin : op = 0x20 → usIn (streamRec p.tab (uiStream w)) = true)
    (hout : op = 0x21 → usOut (streamRec p.tab (uiStream w)) = true)
    (ho : updOne c ⟨s, stepBody p w, none⟩ w = ⟨v, q', none⟩) : updAlone op u w s = putHead v c q' := by
  unfold updAlone
  rw [if_neg (by simp [hop, hi, hr]), if_neg (Nat.not_lt_of_le hge), hrun]
  dsimp only
  rw [if_neg, ho]
  rintro (⟨h, hn⟩ | ⟨h, hn⟩)
  · rw [hin h] at hn
    exact absurd hn (by decide)
  · rw [hout h] at hn
    exact absurd hn (by decide)

/-- The request that a unit runs is of that unit. -/
theorem runningOn_unit (h : runningOn s u.val = some (c, p)) : p.unit = u.val := by
  unfold runningOn at h
  dsimp only at h
  split at h
  · simp at h
  · obtain ⟨q, hq, hcq⟩ := Option.map_eq_some_iff.1 h
    obtain ⟨-, rfl⟩ := Prod.mk.inj hcq
    unfold headIn at hq
    cases hl : unitQueue (getCtx s (getUnit s u.val).ctx) 3 u.val with
    | nil => rw [hl] at hq; simp at hq
    | cons a r =>
      rw [hl] at hq
      dsimp only at hq
      split at hq
      · obtain rfl := Option.some.inj hq
        have hm : a ∈ unitQueue (getCtx s (getUnit s u.val).ctx) 3 u.val := by rw [hl]; exact List.mem_cons_self
        unfold unitQueue at hm
        have hb := (List.mem_filter.1 hm).2
        simp only [Bool.and_eq_true, beq_iff_eq] at hb
        exact hb.2
      · simp at hq

/-- A step of a request's body moves its place in the body alone. -/
theorem stepBody_rest (p : SrvReq) (w : BitVec 32) : ∃ i, stepBody p w = { p with ipos := i } := by
  unfold stepBody
  split
  · exact ⟨_, rfl⟩
  · exact ⟨p.ipos, rfl⟩

theorem updOne_ld {r : URun} (hst : r.st = none) (hop : uiOpc w = 32) {ys}
    (hl : loadVec r.s c r.q (streamRec r.q.tab (uiStream w)) (getUnit r.s r.q.unit).q = (v, .ok ys)) :
    updOne c r w = ⟨setUnit v r.q.unit (setVreg (getUnit r.s r.q.unit) (uiVd w) ys), r.q, none⟩ := by
  unfold updOne
  rw [hst]
  dsimp only
  split
  · rw [hl]
  · next h => exact absurd (hop.symm.trans h) (by decide)
  · next h => exact absurd (hop.symm.trans h) (by decide)
  · next h _ _ => exact absurd hop h

theorem updOne_st {r : URun} (hst : r.st = none) (hop : uiOpc w = 33) {runs bad}
    (hs : storeVec (getCtx r.s c) r.q (streamRec r.q.tab 0) (streamRec r.q.tab (uiStream w)) (getUnit r.s r.q.unit).q
      (vreg (getUnit r.s r.q.unit) (uiVa w)) = (runs, bad)) (hf : runs.foldl (runIn c) (r.s, r.q) = (v, q')) :
    updOne c r w = ⟨v, { q' with nonfin := q'.nonfin + bad }, none⟩ := by
  unfold updOne
  rw [hst]
  dsimp only
  split
  · next h => exact absurd (hop.symm.trans h) (by decide)
  · rw [hs]
    dsimp only
    rw [hf]
  · next h => exact absurd (hop.symm.trans h) (by decide)
  · next h _ => exact absurd hop h

theorem updOne_end {r : URun} (hst : r.st = none) (hop : uiOpc w = 63) (hd : r.q.vdone < udNvec r.q.desc) :
    updOne c r w = ⟨setUnit r.s r.q.unit { getUnit r.s r.q.unit with
        q := if r.q.vdone + 1 < udNvec r.q.desc then udVbase r.q.desc + (r.q.vdone + 1) else (getUnit r.s r.q.unit).q },
      { r.q with vdone := r.q.vdone + 1 }, none⟩ := by
  unfold updOne
  rw [hst, hop]
  exact if_pos hd

end UpdateInstructions

/-- Settles O56: the start, passes and completion of a request; then each instruction by its register or stream. -/
theorem updateUnits : Obligations.UpdateUnits := by
  intro s u x hx
  subst hx
  refine ⟨fun c v q h => ⟨fun w tab k q' hk hq => ⟨fun hn => ?_, fun hn => ?_⟩, fun w st hk => ⟨fun hn => ?_, fun hn => ?_⟩⟩,
    fun c q hs h => ⟨?_, fun t ht hh => ?_⟩, fun c q v q' hs h hr => ⟨fun he => ?_, fun he q'' hq => ?_⟩, fun w hr hi => ?_⟩
  · exact congrArg Host.Outcome.next (updStart_works h (by simp [hn]) hk hq)
  · have hw := updWork_raiseOnly (q := q') (by rw [hq]; exact hn) (takeCredits w c q') c k
    refine congrArg Host.Outcome.next ((updStart_works h (by simp [hn]) hk hq).trans (hw.trans ?_))
    rw [hq]
  · exact congrArg Host.Outcome.next (updStart_fails h (by simp [hn]) hk)
  · exact congrArg Host.Outcome.next (updStart_fails h (by simp [hn]) hk)
  · exact congrArg Host.Outcome.next (updStart_on hs h)
  · subst ht
    exact congrArg Host.Outcome.next (updDone_running hs h hh)
  · exact congrArg Host.Outcome.next ((updDone_ready hs h hr).1 he)
  · subst hq
    exact congrArg Host.Outcome.next ((updDone_ready hs h hr).2 he)
  · intro a b d after put
    have hafter (y : UpdUnit) : afterArith s u w y = after y := rfl
    have go {op : Nat} (hlt : op < 0x20) (y : UpdUnit) (hy : updArith op w (getUnit s u.val) = y) (hop : uiOpc w = op) :
        (Host.Outcome.next (updAlone op u w s) : Res_) = .next (after y) :=
      congrArg Host.Outcome.next ((updAlone_arith hr hi hop hlt).trans (by rw [hy]; exact hafter y))
    refine ⟨go (by decide) _ rfl, go (by decide) _ rfl, go (by decide) _ rfl, go (by decide) _ rfl, go (by decide) _ rfl,
      go (by decide) _ rfl, go (by decide) _ rfl, go (by decide) _ rfl, go (by decide) _ rfl, go (by decide) _ rfl, go (by decide) _ rfl,
      go (by decide) _ rfl, go (by decide) _ rfl, go (by decide) _ rfl, go (by decide) _ rfl, go (by decide) _ rfl, go (by decide) _ rfl,
      fun c p q hrun hq => ?_⟩
    obtain ⟨i, hstep⟩ := stepBody_rest p w
    have hq' : q = { p with ipos := i } := hq.trans hstep
    have hu : q.unit = u.val := (show q.unit = p.unit by rw [hq']).trans (runningOn_unit hrun)
    have htab : q.tab = p.tab := by rw [hq']
    have hdesc : q.desc = p.desc := by rw [hq']
    have hdone : q.vdone = p.vdone := by rw [hq']
    refine ⟨fun v ys hop hin hl => ?_, fun runs bad v q' hop hout hst hf => ?_, fun hop hd => ?_⟩
    · have ho : updOne c ⟨s, stepBody p w, none⟩ w = ⟨setUnit v u.val (setVreg (getUnit s u.val) (uiVd w) ys), q, none⟩ := by
        rw [← hq, updOne_ld rfl hop (ys := ys) (by rw [htab, hu]; exact hl), hu]
      exact congrArg Host.Outcome.next (updAlone_running hr hi hop (by decide) hrun (fun _ => hin) (fun h => absurd h (by decide)) ho)
    · have ho : updOne c ⟨s, stepBody p w, none⟩ w = ⟨v, { q' with nonfin := q'.nonfin + bad }, none⟩ := by
        rw [← hq]
        exact updOne_st rfl hop (by rw [htab, hu]; exact hst) hf
      exact congrArg Host.Outcome.next (updAlone_running hr hi hop (by decide) hrun (fun h => absurd h (by decide)) (fun _ => hout) ho)
    · have ho : updOne c ⟨s, stepBody p w, none⟩ w = ⟨setUnit s u.val { getUnit s u.val with
          q := if p.vdone + 1 < udNvec p.desc then udVbase p.desc + (p.vdone + 1) else (getUnit s u.val).q },
          { q with vdone := p.vdone + 1 }, none⟩ := by
        rw [← hq, updOne_end rfl hop (by rw [hdone, hdesc]; exact hd)]
        dsimp only
        rw [hu, hdone, hdesc]
      exact congrArg Host.Outcome.next (updAlone_running hr hi hop (by decide) hrun (fun h => absurd h (by decide))
        (fun h => absurd h (by decide)) ho)

end Sys2Proof.Machine

/-! PROOF. Dispatch engines (O57). -/

namespace Sys2Proof.Machine

section Dispatch
variable {s t u v : State} {c : CtxId} {e : Fin 2} {q : SrvReq} {kind : Nat} {bs : List Byte} {st : Status} {o : DispOut}

/-- The start of a dispatch request of the row's kind. -/
theorem dispStart_works (h : startHead noPre s c 4 e.val = .go u q) (ho : doKind (dispOp q q.desc) = kind) (hk : dispCheck u c q = (v, none)) :
    dispStart kind c e s = dispWork (takeCredits v c q) c { q with phase := .serving, holds := dispSpans q } := by
  unfold dispStart
  rw [h]
  dsimp only
  rw [if_neg (by simp [ho]), hk]

theorem dispStart_fails (h : startHead noPre s c 4 e.val = .go u q) (ho : doKind (dispOp q q.desc) = kind) (hk : dispCheck u c q = (v, some st)) :
    dispStart kind c e s = failHead v c q st := by
  unfold dispStart
  rw [h]
  dsimp only
  rw [if_neg (by simp [ho]), hk]

/-- Its work, the operand read: the results are kept for the completion, or the request fails. -/
theorem dispWork_error
    (hr : virtRead s ⟨0, some c⟩ (getCtx s c) q.ret (ddAddr q.desc 0) (dispNeed q.desc (dispOp q q.desc) 0) = (t, .ok bs))
    (ho : dispOut q.desc (dispOp q q.desc) bs = .error st) : dispWork s c q = failHead t c q st := by
  unfold dispWork
  dsimp only
  rw [hr]
  dsimp only
  rw [ho]

theorem dispWork_ok
    (hr : virtRead s ⟨0, some c⟩ (getCtx s c) q.ret (ddAddr q.desc 0) (dispNeed q.desc (dispOp q q.desc) 0) = (t, .ok bs))
    (ho : dispOut q.desc (dispOp q q.desc) bs = .ok o) :
    dispWork s c q = if linesWhole t (getCtx t c) q.ret o.writes then putHead t c { q with phase := .ready, pending := o.writes, counts := o.counts }
      else failHead t c q stLine := by
  unfold dispWork
  dsimp only
  rw [hr]
  dsimp only
  rw [ho]
  dsimp only
  cases linesWhole t (getCtx t c) q.ret o.writes <;> rfl

/-- The completion of a request whose results are ready. -/
theorem dispDone_ready (hs : srvRuns s c = true) (h : headIn s c 4 e.val .ready = some q) :
    dispDone c e s = finishHead (q.counts.foldl (fun t w => setCount t c w.1 w.2)
      (q.pending.foldl (fun t w => virtWrite t (getCtx s c) q.ret w.1 w.2) s)) c
      { q with pending := [], written := q.pending.map fun w => (w.1, w.2.length) } := by
  unfold dispDone
  rw [if_neg (by simp [hs]), h]

end Dispatch

/-- Settles O57: the start by its check, the work by what the operand gives, the completion by its phase. -/
theorem dispatchEngines : Obligations.DispatchEngines := by
  intro s c e
  refine ⟨fun u q h => ?_, fun q hs hh => ?_, fun h => ?_⟩
  · intro kind ends
    have all {t : State} (ht : ∀ n, kind = n → dispStart n c e s = t) : ends t :=
      ⟨fun hk => congrArg Host.Outcome.next (ht 1 hk), fun hk => congrArg Host.Outcome.next (ht 2 hk),
        fun hk => congrArg Host.Outcome.next (ht 3 hk), fun hk => congrArg Host.Outcome.next (ht 4 hk)⟩
    refine ⟨fun v st hk => all fun n hn => dispStart_fails h hn hk, fun v q' w t bs hk hq hw hr => ?_⟩
    subst hq hw
    exact ⟨fun st ho => all fun n hn => (dispStart_works h hn hk).trans (dispWork_error hr ho),
      fun o ho hl => all fun n hn => (dispStart_works h hn hk).trans ((dispWork_ok (by exact hr) (by exact ho)).trans (if_pos hl)),
      fun o ho hl => all fun n hn => (dispStart_works h hn hk).trans ((dispWork_ok (by exact hr) (by exact ho)).trans (if_neg (by rw [hl]; exact Bool.false_ne_true)))⟩
  · exact congrArg Host.Outcome.next (dispDone_ready hs hh)
  · have he : dispDone c e s = s := by
      unfold dispDone
      rcases h with hs | hh
      · exact if_pos (by simp [hs])
      · rw [hh]
        exact ite_self _
    exact congrArg Host.Outcome.next he

end Sys2Proof.Machine

/-! PROOF. Collectives (O58). -/

namespace Sys2Proof.Machine

section CollectiveStart
variable {s u v : State} {c : CtxId} {e : Fin 2} {q : SrvReq} {k : CollSt} {op : Nat}

/-- The start of a collective of the row's operation. -/
theorem collStart_works (h : startHead noPre s c 5 e.val = .go u q) (ho : cdOp q.desc = op) (hk : collCheck u c q = (v, .ok k)) :
    collStart op c e s = collWork (takeCredits v c q) c { q with phase := .serving } k := by
  unfold collStart
  rw [h]
  dsimp only
  rw [if_neg (by simp [ho]), hk]

theorem collStart_fails {st : Status} (h : startHead noPre s c 5 e.val = .go u q) (ho : cdOp q.desc = op)
    (hk : collCheck u c q = (v, .error st)) : collStart op c e s = failHead v c q st := by
  unfold collStart
  rw [h]
  dsimp only
  rw [if_neg (by simp [ho]), hk]

end CollectiveStart

section Grants
variable {s : State} {g : CollGrant} {p : Piece} {q : SrvReq} {k : CollSt}

theorem grantIn_closed (h : collHeard s = true) (ho : ctxOpen s g.ctx = false) :
    grantIn s g = postAck s g.ctx g.srcSta g.srcCtx 0 (.collNak g.hash g.seq 2) := by
  unfold grantIn
  exact (if_neg (by simp [h])).trans (if_pos (by simp [ho]))

/-- A grant that no request in service matches is stale, late or early. -/
theorem grantIn_none (h : collHeard s = true) (ho : ctxOpen s g.ctx = true) (hf : findCollAny s g.ctx g.hash g.seq = none) :
    grantIn s g = if pastSeq s g.ctx g.hash g.seq then staleStop s g.ctx g.srcSta g.srcCtx g.hash g.seq
      else if begun s g.ctx g.hash g.seq then s else modCtx s g.ctx fun x => { x with early := x.early ++ [g] } := by
  unfold grantIn
  dsimp only
  rw [if_neg (by simp [h]), if_neg (by simp [ho]), hf]

/-- A grant for a request in service. -/
theorem grantIn_some (h : collHeard s = true) (ho : ctxOpen s g.ctx = true) (hf : findCollAny s g.ctx g.hash g.seq = some (q, k)) :
    grantIn s g = (if grantDiffers q.desc k g then mismatch g.ctx { s := s, q := q, k := k } g.srcSta g.srcCtx
      else (takeGrant g.ctx { s := s, q := q, k := k } g).next (pump g.ctx)).done g.ctx := by
  unfold grantIn
  dsimp only
  rw [if_neg (by simp [h]), if_neg (by simp [ho]), hf]

theorem pieceIn_closed (h : collHeard s = true) (ho : ctxOpen s p.ctx = false) :
    pieceIn s p = postAck s p.ctx p.srcSta p.srcCtx 0 (.collNak p.hash p.seq 2) := by
  unfold pieceIn
  exact (if_neg (by simp [h])).trans (if_pos (by simp [ho]))

theorem pieceIn_none (h : collHeard s = true) (ho : ctxOpen s p.ctx = true) (hf : findCollAny s p.ctx p.hash p.seq = none) :
    pieceIn s p = if pastSeq s p.ctx p.hash p.seq then staleStop s p.ctx p.srcSta p.srcCtx p.hash p.seq else s := by
  unfold pieceIn
  dsimp only
  rw [if_neg (by simp [h]), if_neg (by simp [ho]), hf]

/-- A piece of a request in service that differs from it. -/
theorem pieceIn_differs (h : collHeard s = true) (ho : ctxOpen s p.ctx = true) (hf : findCollAny s p.ctx p.hash p.seq = some (q, k))
    (hd : pieceDiffers q.desc k p = true) :
    pieceIn s p = (mismatch p.ctx { s := s, q := q, k := k } p.srcSta p.srcCtx).done p.ctx := by
  unfold pieceIn
  dsimp only
  rw [if_neg (by simp [h]), if_neg (by simp [ho]), hf]
  exact if_pos hd

/-- One that the request expects and that fits. -/
theorem pieceIn_taken (h : collHeard s = true) (ho : ctxOpen s p.ctx = true) (hf : findCollAny s p.ctx p.hash p.seq = some (q, k))
    (hd : pieceDiffers q.desc k p = false) (hm : (p.src, p.level, p.part) ∈ inKeys q.desc k) (hw : whole q.desc k (p.src, p.level, p.part) = false)
    (hr : cdOp q.desc = 5 → k.recvs ≠ [])
    (hl : (held k p.level p.src p.part).length + p.data.length ≤ pieceBytes q.desc k (p.src, p.level, p.part) true) :
    pieceIn s p = ((pieceTake p.ctx p (p.src, p.level, p.part) { s := s, q := q, k := k }).next (pump p.ctx)).done p.ctx := by
  have hr' : (cdOp q.desc == 5 && k.recvs.isEmpty) = false := by
    by_cases h5 : cdOp q.desc = 5
    · simp [hr h5]
    · simp [h5]
  unfold pieceIn
  dsimp only
  rw [if_neg (by simp [h]), if_neg (by simp [ho]), hf]
  refine (if_neg (by simp [hd])).trans (if_neg ?_)
  rw [List.contains_iff_mem.2 hm, hw, hr', decide_eq_false (Nat.not_lt_of_le hl)]
  decide

end Grants

section Counts
variable {s : State} {c : CtxId} {e : Fin 2} {hash : BitVec 64} {seq : Nat} {counts : List SendCount} {q : SrvReq} {k : CollSt}

/-- The receive counts of a ragged exchange, by rank. -/
def recvCounts (k : CollSt) (counts : List SendCount) : List Nat :=
  (List.range k.n).map fun i => if i = k.rank then k.sends.getD i 0 else ((counts.find? fun n => n.req.rank == i).map (·.n)).getD 0

/-- The request once its receive counts stand in AUX. -/
def countsWritten (c : CtxId) (s : State) (q : SrvReq) (k : CollSt) (cs : List Nat) : CRun :=
  ({ s := s, q := q, k := { k with recvs := cs } } : CRun).write c (cdAux q.desc + 8 * k.n) (cs.flatMap (leBytes 8))

theorem CRun.write_flags (r : CRun) (c : CtxId) (va : Nat) (bs : List Byte) : (r.write c va bs).st = r.st ∧ (r.write c va bs).why = r.why := by
  unfold CRun.write
  split <;> exact ⟨rfl, rfl⟩

/-- When a count of every other member has come and none differs, the counts are written; the exchange goes on or is refused. -/
theorem countsIn_complete (h : collHeard s = true) (hs : srvRuns s c = true) (hf : findColl s c e.val hash seq = some q) (hk : q.coll = some k)
    (hop : cdOp q.desc = 5) (hn : k.recvs = []) (hall : ∀ i < k.n, i = k.rank ∨ ∃ n ∈ counts, n.req.rank = i)
    (hsame : ∀ n ∈ counts, grantDiffers q.desc k n.req = false) :
    countsIn c e hash seq counts s =
      let cs := recvCounts k counts
      let r := countsWritten c s q k cs
      if cs.sum > cdDstWin q.desc then
        ({ r with
          s := (List.range k.n).foldl (fun s i => if i = k.rank then s else tell s c k i (.collNak k.hash k.seq 0)) r.s
          st := some stRecvOver }).done c
      else (pump c (r.write c (cdDst q.desc + (cs.take k.rank).sum)
        ((k.src.drop (k.sends.take k.rank).sum).take (k.sends.getD k.rank 0)))).done c := by
  have hev : ((List.range k.n).all fun i => i == k.rank || (counts.find? fun n => n.req.rank == i).isSome) = true := by
    rw [List.all_eq_true]
    intro i hi
    rcases hall i (List.mem_range.1 hi) with rfl | ⟨n, hn, rfl⟩
    · simp
    · rw [Bool.or_eq_true, List.find?_isSome]
      exact .inr ⟨n, hn, beq_self_eq_true _⟩
  have hno : (counts.find? fun n => grantDiffers q.desc k n.req) = none := by
    rw [List.find?_eq_none]
    intro n hn
    rw [hsame n hn]
    exact Bool.false_ne_true
  unfold countsIn
  rw [if_neg (by simp [h, hs]), hf]
  dsimp only
  rw [hk]
  dsimp only
  rw [if_neg (by rw [hev, hn]; simp [hop]), hno]
  rfl

end Counts

section Acks
variable {s : State} {c : CtxId} {e : Fin 2} {a : PieceAck} {q : SrvReq} {k : CollSt} {hash : BitVec 64} {seq : Nat}

/-- An acknowledgement that the request awaits counts once. -/
theorem collAck_counted (h : collHeard s = true) (hs : srvRuns s c = true) (hf : findColl s c e.val a.hash a.seq = some q) (hk : q.coll = some k)
    (hm : (a.rank, a.level, a.part) ∈ outKeys q.desc k) (hsent : sentKey q.desc k (a.rank, a.level, a.part) = true)
    (hnew : k.acked.contains (a.rank, a.level, a.part) = false) (hop : cdOp q.desc ≠ 6) :
    collAck c e a s = (pump c { s := s, q := q, k := { k with acked := (a.rank, a.level, a.part) :: k.acked } }).done c := by
  unfold collAck
  rw [if_neg (by simp [h, hs]), hf]
  dsimp only
  rw [hk]
  dsimp only
  rw [if_neg (by rw [List.contains_iff_mem.2 hm, hsent, hnew]; decide), if_neg hop]
  rfl

theorem collAck_again (h : collHeard s = true) (hs : srvRuns s c = true) (hf : findColl s c e.val a.hash a.seq = some q) (hk : q.coll = some k)
    (hold : k.acked.contains (a.rank, a.level, a.part) = true) : collAck c e a s = s := by
  unfold collAck
  rw [if_neg (by simp [h, hs]), hf]
  dsimp only
  rw [hk]
  exact if_pos (by rw [hold, Bool.or_true])

theorem collDone_found (hs : srvRuns s c = true) (hf : findColl s c e.val hash seq = some q) (hk : q.coll = some k) :
    collDone c e hash seq s =
      if collOver q.desc k then finishHead (collNonfinite (modCtx s c fun x => endGroup x hash seq) c q) c q else s := by
  unfold collDone
  rw [if_neg (by simp [hs]), hf]
  dsimp only
  rw [hk]

theorem contextClosed_found (h : collHeard s = true) (hf : findColl s c e.val hash seq = some q) (sta : BitVec 24) (ctx : CtxId) :
    contextClosed c e hash seq sta ctx s = failHeadW s c q stCtxClosed { Why.plain with source := some (sta, ctx) } := by
  unfold contextClosed
  rw [if_neg (by simp [h]), hf]

end Acks

/-- Settles O58: the start by its check; grants, pieces, counts and acknowledgements by the request that they name. -/
theorem collectives : Obligations.Collectives := by
  intro s
  refine ⟨fun c e u q h => ?_, fun g h => ⟨fun ho => ?_, fun ho hf hp => ?_, fun ho hf hp => ?_, fun q k ho hf => ⟨fun hd => ?_, fun hd => ?_⟩⟩,
    fun p h => ⟨fun ho => ?_, fun ho hf => ?_, fun q k ho hf => ⟨fun hd => ?_, fun key hkey hd hm hw hr hl => ?_⟩⟩,
    fun c e hash seq counts q k cs h hs hf hk hop hn hall hsame hcs => ?_,
    fun c e a q k key h hs hf hk hkey => ⟨fun hm hsent hnew hop => ?_, fun hold => ?_⟩,
    fun c e hash seq q hf => ⟨fun k hs hk => ?_, fun h sta ctx => ?_⟩⟩
  · intro ends
    have all {t : State} (ht : ∀ n, cdOp q.desc = n → collStart n c e s = t) : ends t :=
      ⟨fun hk => congrArg Host.Outcome.next (ht 1 hk), fun hk => congrArg Host.Outcome.next (ht 2 hk),
        fun hk => congrArg Host.Outcome.next (ht 3 hk), fun hk => congrArg Host.Outcome.next (ht 4 hk),
        fun hk => congrArg Host.Outcome.next (ht 5 hk), fun hk => congrArg Host.Outcome.next (ht 6 hk)⟩
    exact ⟨fun v k hk => all fun n hn => collStart_works h hn hk, fun v st hk => all fun n hn => collStart_fails h hn hk⟩
  · exact congrArg Host.Outcome.next (grantIn_closed h ho)
  · exact congrArg Host.Outcome.next ((grantIn_none h ho hf).trans (if_neg (by simp [hp])))
  · exact congrArg Host.Outcome.next ((grantIn_none h ho hf).trans (if_pos hp))
  · exact congrArg Host.Outcome.next ((grantIn_some h ho hf).trans (by rw [if_pos hd]; rfl))
  · exact congrArg Host.Outcome.next ((grantIn_some h ho hf).trans (by rw [if_neg (by simp [hd])]))
  · exact congrArg Host.Outcome.next (pieceIn_closed h ho)
  · exact congrArg Host.Outcome.next (pieceIn_none h ho hf)
  · exact congrArg Host.Outcome.next (pieceIn_differs h ho hf hd)
  · subst hkey
    exact congrArg Host.Outcome.next (pieceIn_taken h ho hf hd hm hw hr hl)
  · subst hcs
    intro r
    have he := countsIn_complete h hs hf hk hop hn hall hsame
    have hflag := CRun.write_flags { s := s, q := q, k := { k with recvs := recvCounts k counts } } c (cdAux q.desc + 8 * k.n)
      ((recvCounts k counts).flatMap (leBytes 8))
    refine ⟨fun hsum => congrArg Host.Outcome.next (he.trans (if_neg (Nat.not_lt_of_le hsum))), fun hsum => ?_⟩
    refine congrArg Host.Outcome.next (he.trans ((if_pos hsum).trans ?_))
    unfold CRun.done
    dsimp only
    rw [show (countsWritten c s q k (recvCounts k counts)).why = .plain from hflag.2]
    rfl
  · subst hkey
    exact congrArg Host.Outcome.next (collAck_counted h hs hf hk hm hsent hnew hop)
  · subst hkey
    exact congrArg Host.Outcome.next (collAck_again h hs hf hk hold)
  · exact congrArg Host.Outcome.next (collDone_found hs hf hk)
  · exact congrArg Host.Outcome.next (contextClosed_found h hf sta ctx)

end Sys2Proof.Machine
